-- ==== Sys2Proof/Word.lean ====
section
/-! DEFINITION. The word types of the machine (spec 00_scope.md R10, R12). -/

namespace Sys2Proof

/-- Eight bits (R10). -/
abbrev Byte := BitVec 8

/-- Sixteen bits (R10). -/
abbrev Word := BitVec 16

/-- A 24-bit physical address, or the base of a segment or table (R10, R91). -/
abbrev Addr := BitVec 24

/-- A three-bit register number of an instruction field (R287). -/
abbrev RegNum := BitVec 3

end Sys2Proof
end

