-- ==== Sys2Proof/Config.lean ====
section
/-! DEFINITION. The defaults of what the spec leaves to the system around the processor
(00_scope.md R11; the machine's own values are the record `platform` of State), and the free values:
constants with no body, so that nothing can be proved of what they are (R19). -/

namespace Sys2Proof

/-- The two treatments D7 gives an encoding outside the opcode table. -/
inductive UnlistedTreatment where
  | refuse
  | fault
deriving DecidableEq, Repr

/-- Which open value of an instruction is meant: every use of a free value names its own. -/
inductive FreeSlot where
  /-- the undefined flags of R19 -/
  | cf | pf | af | zf | sf | of
  /-- AH after AAA or AAS when AL carries (R403, R405) -/
  | ahCarry
  /-- the sixth byte SGDT and SIDT store (R593, D36) -/
  | tableByte
  /-- what the device at a port answers (R112, D20) -/
  | ioData (port : Nat)
  /-- what an address that nothing drives reads as at a time of the step (R19, R118, R746, D24) -/
  | undriven (address time : Nat)
  /-- what it gives a code fetch -/
  | undrivenCode (address : Nat)
  /-- how many of the step's stores were made before it was cut short, and how many of the bus
  operations that leave the machine between that store and the next: by RESET (R761), or by a prefetch
  that nothing answers (R708) -/
  | cutStores (reset : Bool)
  | cutEvents (reset : Bool)
  /-- whether RESET came before what the model refuses (R761) -/
  | resetFirst
  /-- how many bus operations of other masters come between two bus times of the step (R131, D27) -/
  | masterGap (time : Nat)
  /-- whether prefetching has begun a bus operation that nothing answers (R133, R708) -/
  | prefetch
  /-- whether the interrupt shadow holds at this boundary (R64, D9) -/
  | inhibit
  /-- whether INTR is taken one instruction later (R630, D34) -/
  | intrDelay
  /-- whether the single-step trap follows a taken INT (R636, D34) -/
  | intTrap
  /-- the accessed bit after a selector test (R160, D35) -/
  | accessed
  /-- SP, a register or a stack word after a stack instruction that failed part-way (R650, D25) -/
  | partialSp
  | partialReg (i : Nat)
  | partialWord (i : Nat)
  /-- CS and IP that an NMI saves when it ends shutdown (R670, R672) -/
  | shutdownCs
  | shutdownIp
  /-- which of the values a code byte held since it may have been fetched is executed (R138, D10) -/
  | codeByte (offset : Nat)
deriving DecidableEq, Repr

namespace Config

/-- A20_DECODED at reset: the system decodes A23 to A20 in real address mode (R104, D6). DESIGN
CHOICE: the default of spec 92_eei_decisions.md; notes/assumptions/8.md. -/
def a20Decoded : Bool := true

/-- PX_PRESENT at reset: no processor extension is attached (R575, D19). DESIGN CHOICE: the default
of spec 92_eei_decisions.md; notes/assumptions/34.md. -/
def pxPresent : Bool := false

/-- OTHER_MASTERS at reset: none (R131, D27). DESIGN CHOICE: the default of spec
92_eei_decisions.md; notes/assumptions/34.md. -/
def otherMasters : Bool := false

/-- PREFETCH_WINDOW at reset: bytes beyond the current instruction that may already have left memory
(R135, D10). DESIGN CHOICE: the default of spec 92_eei_decisions.md; notes/assumptions/19.md. -/
def prefetchWindow : Nat := 16

/-- TSS_LIMIT_MIN at reset: the smallest limit of a task state segment (R252, D15). DESIGN CHOICE: the
default of spec 92_eei_decisions.md; notes/assumptions/10.md. -/
def tssLimitMin : Nat := 0x2B

/-- UNLISTED_OPCODE at reset: what an encoding outside the opcode table does (R330, D7). DESIGN CHOICE:
exception 6 for all of them, the treatment that gives such an encoding an effect;
notes/assumptions/9.md. -/
def unlistedOpcode : UnlistedTreatment := .fault

/-- A free bit, fresh at each step: the first argument is the counter `draws` of State (R19). -/
opaque freeBit : Nat → FreeSlot → Bool

/-- A free word, fresh at each step (R19). -/
opaque freeWord : Nat → FreeSlot → Word

/-- Whether the ESC with this six-bit opcode waits for BUSY and tests ERROR: "some ESC
instructions", a property of the attached part (R575). -/
opaque escWaits : BitVec 6 → Bool

/-- Whether the ESC with this six-bit opcode writes its memory operand, a property of the attached
part (R575). -/
opaque escStores : BitVec 6 → Bool

end Config

end Sys2Proof
end

