-- ==== Sys2Proof/Syntax.lean ====
section
/-! DEFINITION. The instructions: one constructor per row of spec/opcode_table.json, in the table's
order, with every field of its encoding. -/

namespace Sys2Proof

/-- Operand width: the w bit (R283). -/
inductive Width where
  | byte
  | word
deriving DecidableEq, Repr

/-- The four segment registers, in the order of their numbers (R288). -/
inductive SReg where
  | es
  | cs
  | ss
  | ds
deriving DecidableEq, Repr

/-- The eight base forms of the r/m field, in the order of r/m (R290). -/
inductive AddrBase where
  | bxSi
  | bxDi
  | bpSi
  | bpDi
  | si
  | di
  | bp
  | bx
deriving DecidableEq, Repr

/-- A memory operand of a mod r/m byte (R289, R290). -/
inductive Mem where
  /-- mod = 00, r/m = 110 -/
  | direct (offset : Word)
  /-- mod = 00; the base BP alone has no such form -/
  | ind (base : AddrBase)
  /-- mod = 01 -/
  | ind8 (base : AddrBase) (disp : Byte)
  /-- mod = 10 -/
  | ind16 (base : AddrBase) (disp : Word)
deriving DecidableEq, Repr

/-- The operand named by the mod r/m byte (R289). -/
inductive RM where
  /-- mod = 11: the register with this number, byte or word by the instruction -/
  | reg (n : RegNum)
  | mem (m : Mem)
deriving DecidableEq, Repr

/-- Immediate data of the rows with `data, data if w = 1` (R294): the width is the w bit. -/
inductive Imm where
  | byte (v : Byte)
  | word (v : Word)
deriving DecidableEq, Repr

/-- Immediate data of the rows `100000sw` (R285): sw = 00, 01, 10 and 11 in this order. -/
inductive GImm where
  | byte (v : Byte)
  | word (v : Word)
  | byteS (v : Byte)
  | wordS (v : Byte)
deriving DecidableEq, Repr

/-- Immediate data of PUSH and IMUL (R285): s = 0 and s = 1. -/
inductive SImm where
  | word (v : Word)
  | byte (v : Byte)
deriving DecidableEq, Repr

/-- The instructions of spec/opcode_table.json. -/
inductive Instr where
  /-- MOV r/m, reg (R341) -/
  | movRmReg (w : Width) (rm : RM) (reg : RegNum)
  /-- MOV reg, r/m (R342) -/
  | movRegRm (w : Width) (reg : RegNum) (rm : RM)
  /-- MOV r/m, imm (R343) -/
  | movRmImm (rm : RM) (imm : Imm)
  /-- MOV reg, imm (R344) -/
  | movRegImm (reg : RegNum) (imm : Imm)
  /-- MOV AL/AX, [addr] (R345) -/
  | movAccMem (w : Width) (offset : Word)
  /-- MOV [addr], AL/AX (R348) -/
  | movMemAcc (w : Width) (offset : Word)
  /-- MOV sreg, r/m16 (R346) -/
  | movSregRm (sreg : SReg) (rm : RM)
  /-- MOV r/m16, sreg (R347) -/
  | movRmSreg (rm : RM) (sreg : SReg)
  /-- PUSH r/m16 (R349) -/
  | pushRm (rm : RM)
  /-- PUSH reg16 (R350) -/
  | pushReg (reg : RegNum)
  /-- PUSH sreg (R351) -/
  | pushSreg (sreg : SReg)
  /-- PUSH imm (R353) -/
  | pushImm (imm : SImm)
  /-- PUSHA (R354) -/
  | pusha
  /-- POP r/m16 (R355) -/
  | popRm (rm : RM)
  /-- POP reg16 (R356) -/
  | popReg (reg : RegNum)
  /-- POP ES (R352) -/
  | popEs
  /-- POP SS (R352) -/
  | popSs
  /-- POP DS (R352) -/
  | popDs
  /-- POPA (R357) -/
  | popa
  /-- XCHG r/m, reg (R358) -/
  | xchgRmReg (w : Width) (rm : RM) (reg : RegNum)
  /-- XCHG AX, reg16 (R359) -/
  | xchgAxReg (reg : RegNum)
  /-- NOP (R578) -/
  | nop
  /-- IN AL/AX, port (R360) -/
  | inImm (w : Width) (port : Byte)
  /-- IN AL/AX, DX (R361) -/
  | inDx (w : Width)
  /-- OUT port, AL/AX (R362) -/
  | outImm (w : Width) (port : Byte)
  /-- OUT DX, AL/AX (R363) -/
  | outDx (w : Width)
  /-- XLAT (R364) -/
  | xlat
  /-- LEA reg16, mem (R365) -/
  | lea (reg : RegNum) (mem : Mem)
  /-- LDS reg16, mem32 (R366) -/
  | lds (reg : RegNum) (mem : Mem)
  /-- LES reg16, mem32 (R367) -/
  | les (reg : RegNum) (mem : Mem)
  /-- LAHF (R368) -/
  | lahf
  /-- SAHF (R369) -/
  | sahf
  /-- PUSHF (R370) -/
  | pushf
  /-- POPF (R371) -/
  | popf
  /-- ADD r/m, reg (toReg = false) or ADD reg, r/m (toReg = true) (R382) -/
  | addRmReg (toReg : Bool) (w : Width) (rm : RM) (reg : RegNum)
  /-- ADD r/m, imm (R383) -/
  | addRmImm (rm : RM) (imm : GImm)
  /-- ADD AL/AX, imm (R384) -/
  | addAccImm (imm : Imm)
  /-- ADC r/m, reg (toReg = false) or ADC reg, r/m (toReg = true) (R385) -/
  | adcRmReg (toReg : Bool) (w : Width) (rm : RM) (reg : RegNum)
  /-- ADC r/m, imm (R386) -/
  | adcRmImm (rm : RM) (imm : GImm)
  /-- ADC AL/AX, imm (R387) -/
  | adcAccImm (imm : Imm)
  /-- INC r/m (R388) -/
  | incRm (w : Width) (rm : RM)
  /-- INC reg16 (R389) -/
  | incReg (reg : RegNum)
  /-- SUB r/m, reg (toReg = false) or SUB reg, r/m (toReg = true) (R390) -/
  | subRmReg (toReg : Bool) (w : Width) (rm : RM) (reg : RegNum)
  /-- SUB r/m, imm (R391) -/
  | subRmImm (rm : RM) (imm : GImm)
  /-- SUB AL/AX, imm (R392) -/
  | subAccImm (imm : Imm)
  /-- SBB r/m, reg (toReg = false) or SBB reg, r/m (toReg = true) (R393) -/
  | sbbRmReg (toReg : Bool) (w : Width) (rm : RM) (reg : RegNum)
  /-- SBB r/m, imm (R394) -/
  | sbbRmImm (rm : RM) (imm : GImm)
  /-- SBB AL/AX, imm (R395) -/
  | sbbAccImm (imm : Imm)
  /-- DEC r/m (R396) -/
  | decRm (w : Width) (rm : RM)
  /-- DEC reg16 (R397) -/
  | decReg (reg : RegNum)
  /-- CMP r/m, reg (R398) -/
  | cmpRmReg (w : Width) (rm : RM) (reg : RegNum)
  /-- CMP reg, r/m (R399) -/
  | cmpRegRm (w : Width) (reg : RegNum) (rm : RM)
  /-- CMP r/m, imm (R400) -/
  | cmpRmImm (rm : RM) (imm : GImm)
  /-- CMP AL/AX, imm (R401) -/
  | cmpAccImm (imm : Imm)
  /-- NEG r/m (R402) -/
  | neg (w : Width) (rm : RM)
  /-- AAA (R403) -/
  | aaa
  /-- DAA (R404) -/
  | daa
  /-- AAS (R405) -/
  | aas
  /-- DAS (R406) -/
  | das
  /-- MUL r/m (R407) -/
  | mul (w : Width) (rm : RM)
  /-- IMUL r/m (R408) -/
  | imulRm (w : Width) (rm : RM)
  /-- IMUL reg16, r/m16, imm (R409) -/
  | imulImm (reg : RegNum) (rm : RM) (imm : SImm)
  /-- DIV r/m (R410) -/
  | div (w : Width) (rm : RM)
  /-- IDIV r/m (R411) -/
  | idiv (w : Width) (rm : RM)
  /-- AAM (R412) -/
  | aam
  /-- AAD (R413) -/
  | aad
  /-- CBW (R414) -/
  | cbw
  /-- CWD (R415) -/
  | cwd
  /-- ROL r/m, 1 (R432) -/
  | rolOne (w : Width) (rm : RM)
  /-- ROL r/m, CL (R432) -/
  | rolCl (w : Width) (rm : RM)
  /-- ROL r/m, count (R432) -/
  | rolImm (w : Width) (rm : RM) (count : Byte)
  /-- ROR r/m, 1 (R433) -/
  | rorOne (w : Width) (rm : RM)
  /-- ROR r/m, CL (R433) -/
  | rorCl (w : Width) (rm : RM)
  /-- ROR r/m, count (R433) -/
  | rorImm (w : Width) (rm : RM) (count : Byte)
  /-- RCL r/m, 1 (R434) -/
  | rclOne (w : Width) (rm : RM)
  /-- RCL r/m, CL (R434) -/
  | rclCl (w : Width) (rm : RM)
  /-- RCL r/m, count (R434) -/
  | rclImm (w : Width) (rm : RM) (count : Byte)
  /-- RCR r/m, 1 (R435) -/
  | rcrOne (w : Width) (rm : RM)
  /-- RCR r/m, CL (R435) -/
  | rcrCl (w : Width) (rm : RM)
  /-- RCR r/m, count (R435) -/
  | rcrImm (w : Width) (rm : RM) (count : Byte)
  /-- SHL r/m, 1 (R436) -/
  | shlOne (w : Width) (rm : RM)
  /-- SHL r/m, CL (R436) -/
  | shlCl (w : Width) (rm : RM)
  /-- SHL r/m, count (R436) -/
  | shlImm (w : Width) (rm : RM) (count : Byte)
  /-- SHR r/m, 1 (R437) -/
  | shrOne (w : Width) (rm : RM)
  /-- SHR r/m, CL (R437) -/
  | shrCl (w : Width) (rm : RM)
  /-- SHR r/m, count (R437) -/
  | shrImm (w : Width) (rm : RM) (count : Byte)
  /-- SAR r/m, 1 (R438) -/
  | sarOne (w : Width) (rm : RM)
  /-- SAR r/m, CL (R438) -/
  | sarCl (w : Width) (rm : RM)
  /-- SAR r/m, count (R438) -/
  | sarImm (w : Width) (rm : RM) (count : Byte)
  /-- AND r/m, reg (toReg = false) or AND reg, r/m (toReg = true) (R440) -/
  | andRmReg (toReg : Bool) (w : Width) (rm : RM) (reg : RegNum)
  /-- AND r/m, imm (R441) -/
  | andRmImm (rm : RM) (imm : Imm)
  /-- AND AL/AX, imm (R442) -/
  | andAccImm (imm : Imm)
  /-- TEST r/m, reg (R443) -/
  | testRmReg (w : Width) (rm : RM) (reg : RegNum)
  /-- TEST r/m, imm (R444) -/
  | testRmImm (rm : RM) (imm : Imm)
  /-- TEST AL/AX, imm (R445) -/
  | testAccImm (imm : Imm)
  /-- OR r/m, reg (toReg = false) or OR reg, r/m (toReg = true) (R446) -/
  | orRmReg (toReg : Bool) (w : Width) (rm : RM) (reg : RegNum)
  /-- OR r/m, imm (R447) -/
  | orRmImm (rm : RM) (imm : Imm)
  /-- OR AL/AX, imm (R448) -/
  | orAccImm (imm : Imm)
  /-- XOR r/m, reg (toReg = false) or XOR reg, r/m (toReg = true) (R449) -/
  | xorRmReg (toReg : Bool) (w : Width) (rm : RM) (reg : RegNum)
  /-- XOR r/m, imm (R450) -/
  | xorRmImm (rm : RM) (imm : Imm)
  /-- XOR AL/AX, imm (R451) -/
  | xorAccImm (imm : Imm)
  /-- NOT r/m (R452) -/
  | not (w : Width) (rm : RM)
  /-- MOVS (R462) -/
  | movs (w : Width)
  /-- CMPS (R463) -/
  | cmps (w : Width)
  /-- SCAS (R464) -/
  | scas (w : Width)
  /-- LODS (R465) -/
  | lods (w : Width)
  /-- STOS (R466) -/
  | stos (w : Width)
  /-- INS (R467) -/
  | ins (w : Width)
  /-- OUTS (R469) -/
  | outs (w : Width)
  /-- the REP, REPE, REPZ prefix F3h (R302, R468) -/
  | rep
  /-- the REPNE, REPNZ prefix F2h (R302, R468) -/
  | repne
  /-- CALL near direct (R482) -/
  | callRel (disp : Word)
  /-- CALL near indirect (R483) -/
  | callRm (rm : RM)
  /-- CALL far direct (R484) -/
  | callFar (offset : Word) (selector : Word)
  /-- CALL far indirect (R485) -/
  | callFarMem (mem : Mem)
  /-- JMP short (R487) -/
  | jmpShort (disp : Byte)
  /-- JMP near direct (R488) -/
  | jmpRel (disp : Word)
  /-- JMP near indirect (R489) -/
  | jmpRm (rm : RM)
  /-- JMP far direct (R490) -/
  | jmpFar (offset : Word) (selector : Word)
  /-- JMP far indirect (R491) -/
  | jmpFarMem (mem : Mem)
  /-- RET near (R493) -/
  | ret
  /-- RET near, add imm to SP (R494) -/
  | retImm (imm : Word)
  /-- RET far (R495) -/
  | retFar
  /-- RET far, add imm to SP (R496) -/
  | retFarImm (imm : Word)
  /-- JO (R499) -/
  | jo (disp : Byte)
  /-- JNO (R500) -/
  | jno (disp : Byte)
  /-- JB (R501) -/
  | jb (disp : Byte)
  /-- JNB (R502) -/
  | jnb (disp : Byte)
  /-- JE (R503) -/
  | je (disp : Byte)
  /-- JNE (R504) -/
  | jne (disp : Byte)
  /-- JBE (R505) -/
  | jbe (disp : Byte)
  /-- JNBE (R506) -/
  | jnbe (disp : Byte)
  /-- JS (R507) -/
  | js (disp : Byte)
  /-- JNS (R508) -/
  | jns (disp : Byte)
  /-- JP (R509) -/
  | jp (disp : Byte)
  /-- JNP (R510) -/
  | jnp (disp : Byte)
  /-- JL (R511) -/
  | jl (disp : Byte)
  /-- JNL (R512) -/
  | jnl (disp : Byte)
  /-- JLE (R513) -/
  | jle (disp : Byte)
  /-- JNLE (R514) -/
  | jnle (disp : Byte)
  /-- LOOP (R515) -/
  | loop (disp : Byte)
  /-- LOOPZ (R516) -/
  | loopz (disp : Byte)
  /-- LOOPNZ (R517) -/
  | loopnz (disp : Byte)
  /-- JCXZ (R518) -/
  | jcxz (disp : Byte)
  /-- ENTER size, level (R540) -/
  | enter (size : Word) (level : Byte)
  /-- LEAVE (R541) -/
  | leave
  /-- BOUND reg16, mem32 (R542) -/
  | bound (reg : RegNum) (mem : Mem)
  /-- INT type (R543) -/
  | int (type : Byte)
  /-- INT 3 (R544) -/
  | int3
  /-- INTO (R545) -/
  | into
  /-- IRET (R546) -/
  | iret
  /-- CLC (R561) -/
  | clc
  /-- CMC (R562) -/
  | cmc
  /-- STC (R563) -/
  | stc
  /-- CLD (R564) -/
  | cld
  /-- STD (R565) -/
  | std
  /-- CLI (R566) -/
  | cli
  /-- STI (R567) -/
  | sti
  /-- HLT (R568) -/
  | hlt
  /-- WAIT (R571) -/
  | wait
  /-- the LOCK prefix (R572) -/
  | lock
  /-- the segment override prefix (R573) -/
  | seg (sreg : SReg)
  /-- CTS (R574) -/
  | cts
  /-- ESC opcode, r/m (R575) -/
  | esc (ttt : BitVec 3) (lll : BitVec 3) (rm : RM)
  /-- SLDT r/m16 (R597) -/
  | sldt (rm : RM)
  /-- STR r/m16 (R599) -/
  | str (rm : RM)
  /-- LLDT r/m16 (R596) -/
  | lldt (rm : RM)
  /-- LTR r/m16 (R598) -/
  | ltr (rm : RM)
  /-- VERR r/m16 (R610) -/
  | verr (rm : RM)
  /-- VERW r/m16 (R611) -/
  | verw (rm : RM)
  /-- SGDT mem48 (R593) -/
  | sgdt (mem : Mem)
  /-- SIDT mem48 (R595) -/
  | sidt (mem : Mem)
  /-- LGDT mem48 (R592) -/
  | lgdt (mem : Mem)
  /-- LIDT mem48 (R594) -/
  | lidt (mem : Mem)
  /-- SMSW r/m16 (R605) -/
  | smsw (rm : RM)
  /-- LMSW r/m16 (R604) -/
  | lmsw (rm : RM)
  /-- LAR reg16, r/m16 (R607) -/
  | lar (reg : RegNum) (rm : RM)
  /-- LSL reg16, r/m16 (R608) -/
  | lsl (reg : RegNum) (rm : RM)
  /-- ARPL r/m16, reg16 (R609) -/
  | arpl (rm : RM) (reg : RegNum)
deriving DecidableEq, Repr

end Sys2Proof
end

