-- ==== Sys2Proof/WellFormed.lean ====
section
/-! DEFINITION. Which instruction terms an encoding stands for: each check refuses a term no row of
the opcode table gives (spec 30_encoding.md). -/

namespace Sys2Proof

/-- A memory operand that has an encoding: register indirect through BP alone has none (R291). -/
def Mem.wellFormed : Mem → Bool
  | .ind .bp => false
  | _ => true

/-- An r/m operand that has an encoding. -/
def RM.wellFormed : RM → Bool
  | .reg _ => true
  | .mem m => m.wellFormed

/-- The operand named by the mod r/m byte of an instruction that has one (R289). -/
def Instr.rmOperand : Instr → Option RM
  | .movRmReg _ rm _ => some rm
  | .movRegRm _ _ rm => some rm
  | .movRmImm rm _ => some rm
  | .movSregRm _ rm => some rm
  | .movRmSreg rm _ => some rm
  | .pushRm rm => some rm
  | .popRm rm => some rm
  | .xchgRmReg _ rm _ => some rm
  | .addRmReg _ _ rm _ => some rm
  | .addRmImm rm _ => some rm
  | .adcRmReg _ _ rm _ => some rm
  | .adcRmImm rm _ => some rm
  | .incRm _ rm => some rm
  | .subRmReg _ _ rm _ => some rm
  | .subRmImm rm _ => some rm
  | .sbbRmReg _ _ rm _ => some rm
  | .sbbRmImm rm _ => some rm
  | .decRm _ rm => some rm
  | .cmpRmReg _ rm _ => some rm
  | .cmpRegRm _ _ rm => some rm
  | .cmpRmImm rm _ => some rm
  | .neg _ rm => some rm
  | .mul _ rm => some rm
  | .imulRm _ rm => some rm
  | .imulImm _ rm _ => some rm
  | .div _ rm => some rm
  | .idiv _ rm => some rm
  | .rolOne _ rm => some rm
  | .rolCl _ rm => some rm
  | .rolImm _ rm _ => some rm
  | .rorOne _ rm => some rm
  | .rorCl _ rm => some rm
  | .rorImm _ rm _ => some rm
  | .rclOne _ rm => some rm
  | .rclCl _ rm => some rm
  | .rclImm _ rm _ => some rm
  | .rcrOne _ rm => some rm
  | .rcrCl _ rm => some rm
  | .rcrImm _ rm _ => some rm
  | .shlOne _ rm => some rm
  | .shlCl _ rm => some rm
  | .shlImm _ rm _ => some rm
  | .shrOne _ rm => some rm
  | .shrCl _ rm => some rm
  | .shrImm _ rm _ => some rm
  | .sarOne _ rm => some rm
  | .sarCl _ rm => some rm
  | .sarImm _ rm _ => some rm
  | .andRmReg _ _ rm _ => some rm
  | .andRmImm rm _ => some rm
  | .testRmReg _ rm _ => some rm
  | .testRmImm rm _ => some rm
  | .orRmReg _ _ rm _ => some rm
  | .orRmImm rm _ => some rm
  | .xorRmReg _ _ rm _ => some rm
  | .xorRmImm rm _ => some rm
  | .not _ rm => some rm
  | .callRm rm => some rm
  | .jmpRm rm => some rm
  | .esc _ _ rm => some rm
  | .sldt rm => some rm
  | .str rm => some rm
  | .lldt rm => some rm
  | .ltr rm => some rm
  | .verr rm => some rm
  | .verw rm => some rm
  | .smsw rm => some rm
  | .lmsw rm => some rm
  | .lar _ rm => some rm
  | .lsl _ rm => some rm
  | .arpl rm _ => some rm
  | .lea _ mem => some (.mem mem)
  | .lds _ mem => some (.mem mem)
  | .les _ mem => some (.mem mem)
  | .callFarMem mem => some (.mem mem)
  | .jmpFarMem mem => some (.mem mem)
  | .bound _ mem => some (.mem mem)
  | .sgdt mem => some (.mem mem)
  | .sidt mem => some (.mem mem)
  | .lgdt mem => some (.mem mem)
  | .lidt mem => some (.mem mem)
  | .movRegImm _ _ => none
  | .movAccMem _ _ => none
  | .movMemAcc _ _ => none
  | .pushReg _ => none
  | .pushSreg _ => none
  | .pushImm _ => none
  | .pusha => none
  | .popReg _ => none
  | .popEs => none
  | .popSs => none
  | .popDs => none
  | .popa => none
  | .xchgAxReg _ => none
  | .nop => none
  | .inImm _ _ => none
  | .inDx _ => none
  | .outImm _ _ => none
  | .outDx _ => none
  | .xlat => none
  | .lahf => none
  | .sahf => none
  | .pushf => none
  | .popf => none
  | .addAccImm _ => none
  | .adcAccImm _ => none
  | .incReg _ => none
  | .subAccImm _ => none
  | .sbbAccImm _ => none
  | .decReg _ => none
  | .cmpAccImm _ => none
  | .aaa => none
  | .daa => none
  | .aas => none
  | .das => none
  | .aam => none
  | .aad => none
  | .cbw => none
  | .cwd => none
  | .andAccImm _ => none
  | .testAccImm _ => none
  | .orAccImm _ => none
  | .xorAccImm _ => none
  | .movs _ => none
  | .cmps _ => none
  | .scas _ => none
  | .lods _ => none
  | .stos _ => none
  | .ins _ => none
  | .outs _ => none
  | .rep => none
  | .repne => none
  | .callRel _ => none
  | .callFar _ _ => none
  | .jmpShort _ => none
  | .jmpRel _ => none
  | .jmpFar _ _ => none
  | .ret => none
  | .retImm _ => none
  | .retFar => none
  | .retFarImm _ => none
  | .jo _ => none
  | .jno _ => none
  | .jb _ => none
  | .jnb _ => none
  | .je _ => none
  | .jne _ => none
  | .jbe _ => none
  | .jnbe _ => none
  | .js _ => none
  | .jns _ => none
  | .jp _ => none
  | .jnp _ => none
  | .jl _ => none
  | .jnl _ => none
  | .jle _ => none
  | .jnle _ => none
  | .loop _ => none
  | .loopz _ => none
  | .loopnz _ => none
  | .jcxz _ => none
  | .enter _ _ => none
  | .leave => none
  | .int _ => none
  | .int3 => none
  | .into => none
  | .iret => none
  | .clc => none
  | .cmc => none
  | .stc => none
  | .cld => none
  | .std => none
  | .cli => none
  | .sti => none
  | .hlt => none
  | .wait => none
  | .lock => none
  | .seg _ => none
  | .cts => none

/-- MOV to CS is unlisted (R331); 90h is NOP, so XCHG AX, AX is written `nop` (R578). -/
def Instr.fieldsListed : Instr → Bool
  | .movSregRm .cs _ => false
  | .xchgAxReg n => n != 0#3
  | _ => true

/-- The terms that an encoding stands for. -/
def Instr.wellFormed (i : Instr) : Bool :=
  (match i.rmOperand with
    | some rm => rm.wellFormed
    | none => true) && i.fieldsListed

end Sys2Proof
end

