-- ==== Sys2Proof/Decode.lean ====
section
/-! DEFINITION. The decoder and, after it, the encoder (spec 30_encoding.md): total on any bytes. -/

namespace Sys2Proof

/-! ## Byte order and bit fields -/

/-- The low-order byte of a word (R120). -/
def loByte (v : Word) : Byte := v.setWidth 8

/-- The high-order byte of a word (R120). -/
def hiByte (v : Word) : Byte := (v >>> 8).setWidth 8

/-- The word whose low-order and high-order bytes are given (R120). -/
def mkWord (lo hi : Byte) : Word := hi ++ lo

/-- A byte sign-extended to a word (R13). -/
def sext16 (b : Byte) : Word := b.signExtend 16

/-- A byte zero-extended to a word (R13). -/
def zext16 (b : Byte) : Word := b.setWidth 16

/-- The width a w bit names (R283). -/
def widthOf (bit : Bool) : Width := if bit then .word else .byte

/-- Bits 2:0 of an opcode byte: a register number (R299), r/m (R289). -/
def lo3 (b : Byte) : BitVec 3 := b.extractLsb' 0 3

/-- Bits 5:3: the reg field of the mod r/m byte (R289). -/
def mid3 (b : Byte) : BitVec 3 := b.extractLsb' 3 3

/-- Bits 7:6: mod (R289). -/
def mod2 (b : Byte) : BitVec 2 := b.extractLsb' 6 2

/-- The segment register with this number (R288). -/
def sregOf (n : BitVec 2) : SReg :=
  match n.toNat with
  | 0 => .es
  | 1 => .cs
  | 2 => .ss
  | _ => .ds

/-- The base form with this r/m number (R290). -/
def baseOf (n : BitVec 3) : AddrBase :=
  match n.toNat with
  | 0 => .bxSi
  | 1 => .bxDi
  | 2 => .bpSi
  | 3 => .bpDi
  | 4 => .si
  | 5 => .di
  | 6 => .bp
  | _ => .bx

/-! ## The decoder -/

/-- What a byte sequence decodes to. -/
inductive Decoded where
  /-- an instruction, with the bytes after it -/
  | ok (i : Instr) (rest : List Byte)
  /-- an encoding no row of the opcode table matches (R330) -/
  | unlisted
  /-- the bytes end before the instruction does -/
  | truncated
deriving DecidableEq, Repr

/-- What follows the mod r/m byte once its reg field is known: the row of the opcode table. -/
inductive Tail where
  | rm (k : RM → Instr)
  /-- mod = 11 is unlisted (R313) -/
  | mem (k : Mem → Instr)
  | rmImm (w : Width) (k : RM → Imm → Instr)
  | rmGImm (s : Bool) (w : Width) (k : RM → GImm → Instr)
  | rmSImm (s : Bool) (k : RM → SImm → Instr)
  | rmByte (k : RM → Byte → Instr)
  | unlisted

/-- What follows the first opcode byte: the row or group of rows of the opcode table. -/
inductive Form where
  | fixed (i : Instr)
  | byte (k : Byte → Instr)
  | word (k : Word → Instr)
  | imm (w : Width) (k : Imm → Instr)
  | simm (s : Bool) (k : SImm → Instr)
  | wordByte (k : Word → Byte → Instr)
  | wordWord (k : Word → Word → Instr)
  | modrm (k : BitVec 3 → Tail)
  /-- a second byte that must be 0Ah (R298) -/
  | second0A (i : Instr)
  /-- the two-byte opcodes (R312) -/
  | escape0F
  | unlisted

/-- Rows `00ooo0dw` (R310). -/
def aluRmReg (op : BitVec 3) (toReg : Bool) (w : Width) (reg : RegNum) (rm : RM) : Instr :=
  match op.toNat with
  | 0 => .addRmReg toReg w rm reg
  | 1 => .orRmReg toReg w rm reg
  | 2 => .adcRmReg toReg w rm reg
  | 3 => .sbbRmReg toReg w rm reg
  | 4 => .andRmReg toReg w rm reg
  | 5 => .subRmReg toReg w rm reg
  | 6 => .xorRmReg toReg w rm reg
  | _ => if toReg then .cmpRegRm w reg rm else .cmpRmReg w rm reg

/-- Rows `00ooo10w` (R310). -/
def aluAccImm (op : BitVec 3) : Imm → Instr :=
  match op.toNat with
  | 0 => .addAccImm
  | 1 => .orAccImm
  | 2 => .adcAccImm
  | 3 => .sbbAccImm
  | 4 => .andAccImm
  | 5 => .subAccImm
  | 6 => .xorAccImm
  | _ => .cmpAccImm

/-- Group 1, 80h to 83h (R285, R311). -/
def group1 (s : Bool) (w : Width) (op : BitVec 3) : Tail :=
  match op.toNat with
  | 0 => .rmGImm s w .addRmImm
  | 1 => if s then .unlisted else .rmImm w .orRmImm
  | 2 => .rmGImm s w .adcRmImm
  | 3 => .rmGImm s w .sbbRmImm
  | 4 => if s then .unlisted else .rmImm w .andRmImm
  | 5 => .rmGImm s w .subRmImm
  | 6 => if s then .unlisted else .rmImm w .xorRmImm
  | _ => .rmGImm s w .cmpRmImm

/-- The shift group with a count byte, C0h and C1h (R311, R430). -/
def shiftImm (w : Width) (op : BitVec 3) : Tail :=
  match op.toNat with
  | 0 => .rmByte (.rolImm w)
  | 1 => .rmByte (.rorImm w)
  | 2 => .rmByte (.rclImm w)
  | 3 => .rmByte (.rcrImm w)
  | 4 => .rmByte (.shlImm w)
  | 5 => .rmByte (.shrImm w)
  | 6 => .unlisted
  | _ => .rmByte (.sarImm w)

/-- The shift group by 1, D0h and D1h (R311, R430). -/
def shiftOne (w : Width) (op : BitVec 3) : Tail :=
  match op.toNat with
  | 0 => .rm (.rolOne w)
  | 1 => .rm (.rorOne w)
  | 2 => .rm (.rclOne w)
  | 3 => .rm (.rcrOne w)
  | 4 => .rm (.shlOne w)
  | 5 => .rm (.shrOne w)
  | 6 => .unlisted
  | _ => .rm (.sarOne w)

/-- The shift group by CL, D2h and D3h (R311, R430). -/
def shiftCl (w : Width) (op : BitVec 3) : Tail :=
  match op.toNat with
  | 0 => .rm (.rolCl w)
  | 1 => .rm (.rorCl w)
  | 2 => .rm (.rclCl w)
  | 3 => .rm (.rcrCl w)
  | 4 => .rm (.shlCl w)
  | 5 => .rm (.shrCl w)
  | 6 => .unlisted
  | _ => .rm (.sarCl w)

/-- Group 3, F6h and F7h (R311). -/
def group3 (w : Width) (op : BitVec 3) : Tail :=
  match op.toNat with
  | 0 => .rmImm w .testRmImm
  | 1 => .unlisted
  | 2 => .rm (.not w)
  | 3 => .rm (.neg w)
  | 4 => .rm (.mul w)
  | 5 => .rm (.imulRm w)
  | 6 => .rm (.div w)
  | _ => .rm (.idiv w)

/-- Group 4, FEh (R311). -/
def group4 (op : BitVec 3) : Tail :=
  match op.toNat with
  | 0 => .rm (.incRm .byte)
  | 1 => .rm (.decRm .byte)
  | _ => .unlisted

/-- Group 5, FFh (R311). -/
def group5 (op : BitVec 3) : Tail :=
  match op.toNat with
  | 0 => .rm (.incRm .word)
  | 1 => .rm (.decRm .word)
  | 2 => .rm .callRm
  | 3 => .mem .callFarMem
  | 4 => .rm .jmpRm
  | 5 => .mem .jmpFarMem
  | 6 => .rm .pushRm
  | _ => .unlisted

/-- 0F 00 (R312). -/
def group0F00 (op : BitVec 3) : Tail :=
  match op.toNat with
  | 0 => .rm .sldt
  | 1 => .rm .str
  | 2 => .rm .lldt
  | 3 => .rm .ltr
  | 4 => .rm .verr
  | 5 => .rm .verw
  | _ => .unlisted

/-- 0F 01 (R312). -/
def group0F01 (op : BitVec 3) : Tail :=
  match op.toNat with
  | 0 => .mem .sgdt
  | 1 => .mem .sidt
  | 2 => .mem .lgdt
  | 3 => .mem .lidt
  | 4 => .rm .smsw
  | 5 => .unlisted
  | 6 => .rm .lmsw
  | _ => .unlisted

/-- 8Ch and 8Eh: bit 5 of the mod r/m byte is 0 (R288); MOV to CS is unlisted (R331). -/
def movSreg (toSreg : Bool) (field : BitVec 3) : Tail :=
  if field.getLsbD 2 then .unlisted
  else if toSreg then
    if sregOf (field.extractLsb' 0 2) = .cs then .unlisted
    else .rm (.movSregRm (sregOf (field.extractLsb' 0 2)))
  else .rm fun rm => .movRmSreg rm (sregOf (field.extractLsb' 0 2))

/-- A group of which only /0 is listed. -/
def only0 (t : Tail) (op : BitVec 3) : Tail := if op = 0#3 then t else .unlisted

/-- The conditional jumps, 70h to 7Fh (R498). -/
def jcc (b : Byte) : Byte → Instr :=
  match b.toNat % 16 with
  | 0 => .jo
  | 1 => .jno
  | 2 => .jb
  | 3 => .jnb
  | 4 => .je
  | 5 => .jne
  | 6 => .jbe
  | 7 => .jnbe
  | 8 => .js
  | 9 => .jns
  | 10 => .jp
  | 11 => .jnp
  | 12 => .jl
  | 13 => .jnl
  | 14 => .jle
  | _ => .jnle

/-- Rows 0 to 3 of the opcode map (R310). -/
def classify0 (b : Byte) : Form :=
  let w := widthOf (b.getLsbD 0)
  if b &&& 0xC4#8 = 0x00#8 then .modrm fun g => .rm (aluRmReg (mid3 b) (b.getLsbD 1) w g)
  else if b &&& 0xC6#8 = 0x04#8 then .imm w (aluAccImm (mid3 b))
  else if b = 0x0F#8 then .escape0F
  else if b &&& 0xE7#8 = 0x06#8 then .fixed (.pushSreg (sregOf (b.extractLsb' 3 2)))
  else if b &&& 0xE7#8 = 0x26#8 then .fixed (.seg (sregOf (b.extractLsb' 3 2)))
  else match b.toNat with
    | 0x07 => .fixed .popEs
    | 0x17 => .fixed .popSs
    | 0x1F => .fixed .popDs
    | 0x27 => .fixed .daa
    | 0x2F => .fixed .das
    | 0x37 => .fixed .aaa
    | 0x3F => .fixed .aas
    | _ => .unlisted

/-- Rows 4 to 7 of the opcode map (R310). -/
def classify4 (b : Byte) : Form :=
  let w := widthOf (b.getLsbD 0)
  if b &&& 0xF8#8 = 0x40#8 then .fixed (.incReg (lo3 b))
  else if b &&& 0xF8#8 = 0x48#8 then .fixed (.decReg (lo3 b))
  else if b &&& 0xF8#8 = 0x50#8 then .fixed (.pushReg (lo3 b))
  else if b &&& 0xF8#8 = 0x58#8 then .fixed (.popReg (lo3 b))
  else if b &&& 0xF0#8 = 0x70#8 then .byte (jcc b)
  else if b &&& 0xFD#8 = 0x68#8 then .simm (b.getLsbD 1) .pushImm
  else if b &&& 0xFD#8 = 0x69#8 then .modrm fun g => .rmSImm (b.getLsbD 1) (.imulImm g)
  else if b &&& 0xFE#8 = 0x6C#8 then .fixed (.ins w)
  else if b &&& 0xFE#8 = 0x6E#8 then .fixed (.outs w)
  else match b.toNat with
    | 0x60 => .fixed .pusha
    | 0x61 => .fixed .popa
    | 0x62 => .modrm fun g => .mem (.bound g)
    | 0x63 => .modrm fun g => .rm fun rm => .arpl rm g
    | _ => .unlisted

/-- Rows 8 to B of the opcode map (R310). -/
def classify8 (b : Byte) : Form :=
  let w := widthOf (b.getLsbD 0)
  if b &&& 0xF0#8 = 0xB0#8 then .imm (widthOf (b.getLsbD 3)) (.movRegImm (lo3 b))
  else if b &&& 0xFC#8 = 0x80#8 then .modrm (group1 (b.getLsbD 1) w)
  else if b &&& 0xFE#8 = 0x84#8 then .modrm fun g => .rm fun rm => .testRmReg w rm g
  else if b &&& 0xFE#8 = 0x86#8 then .modrm fun g => .rm fun rm => .xchgRmReg w rm g
  else if b &&& 0xFE#8 = 0x88#8 then .modrm fun g => .rm fun rm => .movRmReg w rm g
  else if b &&& 0xFE#8 = 0x8A#8 then .modrm fun g => .rm (.movRegRm w g)
  else if b = 0x90#8 then .fixed .nop
  else if b &&& 0xF8#8 = 0x90#8 then .fixed (.xchgAxReg (lo3 b))
  else if b &&& 0xFE#8 = 0xA0#8 then .word (.movAccMem w)
  else if b &&& 0xFE#8 = 0xA2#8 then .word (.movMemAcc w)
  else if b &&& 0xFE#8 = 0xA4#8 then .fixed (.movs w)
  else if b &&& 0xFE#8 = 0xA6#8 then .fixed (.cmps w)
  else if b &&& 0xFE#8 = 0xA8#8 then .imm w .testAccImm
  else if b &&& 0xFE#8 = 0xAA#8 then .fixed (.stos w)
  else if b &&& 0xFE#8 = 0xAC#8 then .fixed (.lods w)
  else if b &&& 0xFE#8 = 0xAE#8 then .fixed (.scas w)
  else match b.toNat with
    | 0x8C => .modrm (movSreg false)
    | 0x8D => .modrm fun g => .mem (.lea g)
    | 0x8E => .modrm (movSreg true)
    | 0x8F => .modrm (only0 (.rm .popRm))
    | 0x98 => .fixed .cbw
    | 0x99 => .fixed .cwd
    | 0x9A => .wordWord .callFar
    | 0x9B => .fixed .wait
    | 0x9C => .fixed .pushf
    | 0x9D => .fixed .popf
    | 0x9E => .fixed .sahf
    | _ => .fixed .lahf

/-- Rows C to F of the opcode map (R310). -/
def classifyC (b : Byte) : Form :=
  let w := widthOf (b.getLsbD 0)
  if b &&& 0xFE#8 = 0xC0#8 then .modrm (shiftImm w)
  else if b &&& 0xFE#8 = 0xC6#8 then .modrm (only0 (.rmImm w .movRmImm))
  else if b &&& 0xFE#8 = 0xD0#8 then .modrm (shiftOne w)
  else if b &&& 0xFE#8 = 0xD2#8 then .modrm (shiftCl w)
  else if b &&& 0xF8#8 = 0xD8#8 then .modrm fun g => .rm (.esc (lo3 b) g)
  else if b &&& 0xFE#8 = 0xE4#8 then .byte (.inImm w)
  else if b &&& 0xFE#8 = 0xE6#8 then .byte (.outImm w)
  else if b &&& 0xFE#8 = 0xEC#8 then .fixed (.inDx w)
  else if b &&& 0xFE#8 = 0xEE#8 then .fixed (.outDx w)
  else if b &&& 0xFE#8 = 0xF6#8 then .modrm (group3 w)
  else match b.toNat with
    | 0xC2 => .word .retImm
    | 0xC3 => .fixed .ret
    | 0xC4 => .modrm fun g => .mem (.les g)
    | 0xC5 => .modrm fun g => .mem (.lds g)
    | 0xC8 => .wordByte .enter
    | 0xC9 => .fixed .leave
    | 0xCA => .word .retFarImm
    | 0xCB => .fixed .retFar
    | 0xCC => .fixed .int3
    | 0xCD => .byte .int
    | 0xCE => .fixed .into
    | 0xCF => .fixed .iret
    | 0xD4 => .second0A .aam
    | 0xD5 => .second0A .aad
    | 0xD7 => .fixed .xlat
    | 0xE0 => .byte .loopnz
    | 0xE1 => .byte .loopz
    | 0xE2 => .byte .loop
    | 0xE3 => .byte .jcxz
    | 0xE8 => .word .callRel
    | 0xE9 => .word .jmpRel
    | 0xEA => .wordWord .jmpFar
    | 0xEB => .byte .jmpShort
    | 0xF0 => .fixed .lock
    | 0xF2 => .fixed .repne
    | 0xF3 => .fixed .rep
    | 0xF4 => .fixed .hlt
    | 0xF5 => .fixed .cmc
    | 0xF8 => .fixed .clc
    | 0xF9 => .fixed .stc
    | 0xFA => .fixed .cli
    | 0xFB => .fixed .sti
    | 0xFC => .fixed .cld
    | 0xFD => .fixed .std
    | 0xFE => .modrm group4
    | 0xFF => .modrm group5
    | _ => .unlisted

/-- The row or group of the first opcode byte (R310). -/
def classify (b : Byte) : Form :=
  match (mod2 b).toNat with
  | 0 => classify0 b
  | 1 => classify4 b
  | 2 => classify8 b
  | _ => classifyC b

/-- The row or group of the second byte after 0Fh (R312). -/
def classify0F (b : Byte) : Form :=
  match b.toNat with
  | 0x00 => .modrm group0F00
  | 0x01 => .modrm group0F01
  | 0x02 => .modrm fun g => .rm (.lar g)
  | 0x03 => .modrm fun g => .rm (.lsl g)
  | 0x06 => .fixed .cts
  | _ => .unlisted

/-- The r/m operand of a mod r/m byte with its displacement (R289, R290). -/
def parseRM (m : Byte) (rest : List Byte) : Option (RM × List Byte) :=
  match (mod2 m).toNat with
  | 0 =>
    if lo3 m = 6#3 then
      match rest with
      | lo :: hi :: rest => some (.mem (.direct (mkWord lo hi)), rest)
      | _ => none
    else some (.mem (.ind (baseOf (lo3 m))), rest)
  | 1 =>
    match rest with
    | d :: rest => some (.mem (.ind8 (baseOf (lo3 m)) d), rest)
    | [] => none
  | 2 =>
    match rest with
    | lo :: hi :: rest => some (.mem (.ind16 (baseOf (lo3 m)) (mkWord lo hi)), rest)
    | _ => none
  | _ => some (.reg (lo3 m), rest)

/-- One data byte. -/
def takeByte (rest : List Byte) (k : Byte → Instr) : Decoded :=
  match rest with
  | b :: rest => .ok (k b) rest
  | [] => .truncated

/-- Two data bytes, low byte first (R294). -/
def takeWord (rest : List Byte) (k : Word → Instr) : Decoded :=
  match rest with
  | lo :: hi :: rest => .ok (k (mkWord lo hi)) rest
  | _ => .truncated

/-- `data, data if w = 1` (R294). -/
def takeImm (w : Width) (rest : List Byte) (k : Imm → Instr) : Decoded :=
  match w with
  | .byte => takeByte rest fun b => k (.byte b)
  | .word => takeWord rest fun v => k (.word v)

/-- `data, data if s w = 01` (R285). -/
def takeGImm (s : Bool) (w : Width) (rest : List Byte) (k : GImm → Instr) : Decoded :=
  match s, w with
  | false, .byte => takeByte rest fun b => k (.byte b)
  | false, .word => takeWord rest fun v => k (.word v)
  | true, .byte => takeByte rest fun b => k (.byteS b)
  | true, .word => takeByte rest fun b => k (.wordS b)

/-- `data, data if s = 0` (R285). -/
def takeSImm (s : Bool) (rest : List Byte) (k : SImm → Instr) : Decoded :=
  match s with
  | false => takeWord rest fun v => k (.word v)
  | true => takeByte rest fun b => k (.byte b)

/-- The bytes after the mod r/m byte m of a row. DESIGN CHOICE: an encoding whose reg field no row has is
unlisted whether or not its later bytes lie in the code segment, where R680 (1) puts the exceptions 13
and 6 of fetching and decoding in one step; notes/assumptions/9.md. -/
def decodeTail (t : Tail) (m : Byte) (rest : List Byte) : Decoded :=
  match t with
  | .unlisted => .unlisted
  | .mem k =>
    match parseRM m rest with
    | some (.mem a, rest) => .ok (k a) rest
    | some (.reg _, _) => .unlisted
    | none => .truncated
  | .rm k =>
    match parseRM m rest with
    | some (rm, rest) => .ok (k rm) rest
    | none => .truncated
  | .rmImm w k =>
    match parseRM m rest with
    | some (rm, rest) => takeImm w rest (k rm)
    | none => .truncated
  | .rmGImm s w k =>
    match parseRM m rest with
    | some (rm, rest) => takeGImm s w rest (k rm)
    | none => .truncated
  | .rmSImm s k =>
    match parseRM m rest with
    | some (rm, rest) => takeSImm s rest (k rm)
    | none => .truncated
  | .rmByte k =>
    match parseRM m rest with
    | some (rm, rest) => takeByte rest (k rm)
    | none => .truncated

/-- The bytes after the opcode of a form, the two-byte opcodes apart. -/
def decodeForm (f : Form) (rest : List Byte) : Decoded :=
  match f with
  | .fixed i => .ok i rest
  | .byte k => takeByte rest k
  | .word k => takeWord rest k
  | .imm w k => takeImm w rest k
  | .simm s k => takeSImm s rest k
  | .wordByte k =>
    match rest with
    | lo :: hi :: b :: rest => .ok (k (mkWord lo hi) b) rest
    | _ => .truncated
  | .wordWord k =>
    match rest with
    | lo :: hi :: lo' :: hi' :: rest => .ok (k (mkWord lo hi) (mkWord lo' hi')) rest
    | _ => .truncated
  | .modrm k =>
    match rest with
    | m :: rest => decodeTail (k (mid3 m)) m rest
    | [] => .truncated
  | .second0A i =>
    match rest with
    | b :: rest => if b = 0x0A#8 then .ok i rest else .unlisted
    | [] => .truncated
  | .escape0F => .unlisted
  | .unlisted => .unlisted

/-- The instruction at the head of a byte sequence, with the bytes after it (R280). A prefix byte
is an instruction of its own here: the table lists it so. -/
def decode (bytes : List Byte) : Decoded :=
  match bytes with
  | [] => .truncated
  | b :: rest =>
    match classify b with
    | .escape0F =>
      match rest with
      | c :: rest => decodeForm (classify0F c) rest
      | [] => .truncated
    | f => decodeForm f rest

/-- The longest instruction without prefixes, in bytes (R281). -/
def maxLength : Nat := 6

/-- The `count` bytes of the number w, the most significant first: the numbering of
spec/opcode_table.json, in which the first byte of an encoding is the most significant. -/
def tableBytes : Nat → Nat → List Byte
  | 0, _ => []
  | n + 1, w => BitVec.ofNat 8 (w / 256 ^ n) :: tableBytes n w

/-- The instruction's bytes for the table's number w of nbits bits, followed by zero bytes up to
the longest instruction. DESIGN CHOICE, notes/assumptions/7.md: bit 0 is the least significant bit
of the LAST byte, as the table's own match, mask, fields and fixed columns have it. -/
def fetchBytes (nbits w : Nat) : List Byte :=
  tableBytes (nbits / 8) w ++ List.replicate (maxLength - nbits / 8) 0#8

/-- The instruction the decoder reads from a row's word (the host's question). -/
def decodeTableWord (nbits w : Nat) : Option Instr :=
  match decode (fetchBytes nbits w) with
  | .ok i _ => some i
  | _ => none

/-! ## The encoder -/

/-- The number of a segment register (R288). -/
def SReg.number : SReg → BitVec 2
  | .es => 0#2
  | .cs => 1#2
  | .ss => 2#2
  | .ds => 3#2

/-- The r/m number of a base form (R290). -/
def AddrBase.number : AddrBase → BitVec 3
  | .bxSi => 0#3
  | .bxDi => 1#3
  | .bpSi => 2#3
  | .bpDi => 3#3
  | .si => 4#3
  | .di => 5#3
  | .bp => 6#3
  | .bx => 7#3

/-- A bit at a place of a byte. -/
def bitAt (b : Bool) (place : Nat) : Byte := if b then 1#8 <<< place else 0#8

/-- The w bit, in bit 0 of an opcode byte (R283). -/
def wBit : Width → Byte
  | .byte => 0#8
  | .word => 1#8

/-- A word, low byte first (R120). -/
def encodeWord (v : Word) : List Byte := [loByte v, hiByte v]

/-- The mod r/m byte (R289). -/
def modrmByte (mod : BitVec 2) (g : BitVec 3) (rm : BitVec 3) : Byte := mod ++ g ++ rm

/-- The mod r/m byte and displacement of a memory operand (R290). -/
def encodeMem (g : BitVec 3) : Mem → List Byte
  | .direct o => modrmByte 0#2 g 6#3 :: encodeWord o
  | .ind b => [modrmByte 0#2 g b.number]
  | .ind8 b d => [modrmByte 1#2 g b.number, d]
  | .ind16 b d => modrmByte 2#2 g b.number :: encodeWord d

/-- The mod r/m byte and displacement of an operand (R289). -/
def encodeRM (g : BitVec 3) : RM → List Byte
  | .reg n => [modrmByte 3#2 g n]
  | .mem m => encodeMem g m

/-- The data bytes of an immediate (R294). -/
def Imm.bytes : Imm → List Byte
  | .byte v => [v]
  | .word v => encodeWord v

/-- The w bit an immediate stands with. -/
def Imm.width : Imm → Width
  | .byte _ => .byte
  | .word _ => .word

/-- The data bytes of a group 1 immediate (R285). -/
def GImm.bytes : GImm → List Byte
  | .byte v => [v]
  | .word v => encodeWord v
  | .byteS v => [v]
  | .wordS v => [v]

/-- The bits sw of a group 1 immediate (R285). -/
def GImm.sw : GImm → Byte
  | .byte _ => 0#8
  | .word _ => 1#8
  | .byteS _ => 2#8
  | .wordS _ => 3#8

/-- The data bytes of a PUSH or IMUL immediate (R285). -/
def SImm.bytes : SImm → List Byte
  | .word v => encodeWord v
  | .byte v => [v]

/-- The s bit of a PUSH or IMUL immediate, in bit 1 (R285). -/
def SImm.sBit : SImm → Byte
  | .word _ => 0#8
  | .byte _ => 2#8

/-- A three-bit field in bits 2:0 of an opcode byte (R299). -/
def low (n : BitVec 3) : Byte := n.setWidth 8

/-- The segment register number in bits 4:3 of an opcode byte (R288). -/
def sregBits (r : SReg) : Byte := r.number.setWidth 8 <<< 3

/-- Rows `00ooo0dw` (R310). -/
def encAlu (base : Byte) (toReg : Bool) (w : Width) (rm : RM) (reg : RegNum) : List Byte :=
  (base ||| bitAt toReg 1 ||| wBit w) :: encodeRM reg rm

/-- The words of an instruction, from the encodings of the opcode table. -/
def encode : Instr → List Byte
  | .movRmReg w rm reg => (0x88#8 ||| wBit w) :: encodeRM reg rm
  | .movRegRm w reg rm => (0x8A#8 ||| wBit w) :: encodeRM reg rm
  | .movRmImm rm imm => (0xC6#8 ||| wBit imm.width) :: (encodeRM 0#3 rm ++ imm.bytes)
  | .movRegImm reg imm => (0xB0#8 ||| wBit imm.width <<< 3 ||| low reg) :: imm.bytes
  | .movAccMem w offset => (0xA0#8 ||| wBit w) :: encodeWord offset
  | .movMemAcc w offset => (0xA2#8 ||| wBit w) :: encodeWord offset
  | .movSregRm sreg rm => 0x8E#8 :: encodeRM (sreg.number.setWidth 3) rm
  | .movRmSreg rm sreg => 0x8C#8 :: encodeRM (sreg.number.setWidth 3) rm
  | .pushRm rm => 0xFF#8 :: encodeRM 6#3 rm
  | .pushReg reg => [0x50#8 ||| low reg]
  | .pushSreg sreg => [0x06#8 ||| sregBits sreg]
  | .pushImm imm => (0x68#8 ||| imm.sBit) :: imm.bytes
  | .pusha => [0x60#8]
  | .popRm rm => 0x8F#8 :: encodeRM 0#3 rm
  | .popReg reg => [0x58#8 ||| low reg]
  | .popEs => [0x07#8]
  | .popSs => [0x17#8]
  | .popDs => [0x1F#8]
  | .popa => [0x61#8]
  | .xchgRmReg w rm reg => (0x86#8 ||| wBit w) :: encodeRM reg rm
  | .xchgAxReg reg => [0x90#8 ||| low reg]
  | .nop => [0x90#8]
  | .inImm w port => [0xE4#8 ||| wBit w, port]
  | .inDx w => [0xEC#8 ||| wBit w]
  | .outImm w port => [0xE6#8 ||| wBit w, port]
  | .outDx w => [0xEE#8 ||| wBit w]
  | .xlat => [0xD7#8]
  | .lea reg mem => 0x8D#8 :: encodeMem reg mem
  | .lds reg mem => 0xC5#8 :: encodeMem reg mem
  | .les reg mem => 0xC4#8 :: encodeMem reg mem
  | .lahf => [0x9F#8]
  | .sahf => [0x9E#8]
  | .pushf => [0x9C#8]
  | .popf => [0x9D#8]
  | .addRmReg toReg w rm reg => encAlu 0x00#8 toReg w rm reg
  | .addRmImm rm imm => (0x80#8 ||| imm.sw) :: (encodeRM 0#3 rm ++ imm.bytes)
  | .addAccImm imm => (0x04#8 ||| wBit imm.width) :: imm.bytes
  | .adcRmReg toReg w rm reg => encAlu 0x10#8 toReg w rm reg
  | .adcRmImm rm imm => (0x80#8 ||| imm.sw) :: (encodeRM 2#3 rm ++ imm.bytes)
  | .adcAccImm imm => (0x14#8 ||| wBit imm.width) :: imm.bytes
  | .incRm w rm => (0xFE#8 ||| wBit w) :: encodeRM 0#3 rm
  | .incReg reg => [0x40#8 ||| low reg]
  | .subRmReg toReg w rm reg => encAlu 0x28#8 toReg w rm reg
  | .subRmImm rm imm => (0x80#8 ||| imm.sw) :: (encodeRM 5#3 rm ++ imm.bytes)
  | .subAccImm imm => (0x2C#8 ||| wBit imm.width) :: imm.bytes
  | .sbbRmReg toReg w rm reg => encAlu 0x18#8 toReg w rm reg
  | .sbbRmImm rm imm => (0x80#8 ||| imm.sw) :: (encodeRM 3#3 rm ++ imm.bytes)
  | .sbbAccImm imm => (0x1C#8 ||| wBit imm.width) :: imm.bytes
  | .decRm w rm => (0xFE#8 ||| wBit w) :: encodeRM 1#3 rm
  | .decReg reg => [0x48#8 ||| low reg]
  | .cmpRmReg w rm reg => encAlu 0x38#8 false w rm reg
  | .cmpRegRm w reg rm => encAlu 0x38#8 true w rm reg
  | .cmpRmImm rm imm => (0x80#8 ||| imm.sw) :: (encodeRM 7#3 rm ++ imm.bytes)
  | .cmpAccImm imm => (0x3C#8 ||| wBit imm.width) :: imm.bytes
  | .neg w rm => (0xF6#8 ||| wBit w) :: encodeRM 3#3 rm
  | .aaa => [0x37#8]
  | .daa => [0x27#8]
  | .aas => [0x3F#8]
  | .das => [0x2F#8]
  | .mul w rm => (0xF6#8 ||| wBit w) :: encodeRM 4#3 rm
  | .imulRm w rm => (0xF6#8 ||| wBit w) :: encodeRM 5#3 rm
  | .imulImm reg rm imm => (0x69#8 ||| imm.sBit) :: (encodeRM reg rm ++ imm.bytes)
  | .div w rm => (0xF6#8 ||| wBit w) :: encodeRM 6#3 rm
  | .idiv w rm => (0xF6#8 ||| wBit w) :: encodeRM 7#3 rm
  | .aam => [0xD4#8, 0x0A#8]
  | .aad => [0xD5#8, 0x0A#8]
  | .cbw => [0x98#8]
  | .cwd => [0x99#8]
  | .rolOne w rm => (0xD0#8 ||| wBit w) :: encodeRM 0#3 rm
  | .rolCl w rm => (0xD2#8 ||| wBit w) :: encodeRM 0#3 rm
  | .rolImm w rm count => (0xC0#8 ||| wBit w) :: (encodeRM 0#3 rm ++ [count])
  | .rorOne w rm => (0xD0#8 ||| wBit w) :: encodeRM 1#3 rm
  | .rorCl w rm => (0xD2#8 ||| wBit w) :: encodeRM 1#3 rm
  | .rorImm w rm count => (0xC0#8 ||| wBit w) :: (encodeRM 1#3 rm ++ [count])
  | .rclOne w rm => (0xD0#8 ||| wBit w) :: encodeRM 2#3 rm
  | .rclCl w rm => (0xD2#8 ||| wBit w) :: encodeRM 2#3 rm
  | .rclImm w rm count => (0xC0#8 ||| wBit w) :: (encodeRM 2#3 rm ++ [count])
  | .rcrOne w rm => (0xD0#8 ||| wBit w) :: encodeRM 3#3 rm
  | .rcrCl w rm => (0xD2#8 ||| wBit w) :: encodeRM 3#3 rm
  | .rcrImm w rm count => (0xC0#8 ||| wBit w) :: (encodeRM 3#3 rm ++ [count])
  | .shlOne w rm => (0xD0#8 ||| wBit w) :: encodeRM 4#3 rm
  | .shlCl w rm => (0xD2#8 ||| wBit w) :: encodeRM 4#3 rm
  | .shlImm w rm count => (0xC0#8 ||| wBit w) :: (encodeRM 4#3 rm ++ [count])
  | .shrOne w rm => (0xD0#8 ||| wBit w) :: encodeRM 5#3 rm
  | .shrCl w rm => (0xD2#8 ||| wBit w) :: encodeRM 5#3 rm
  | .shrImm w rm count => (0xC0#8 ||| wBit w) :: (encodeRM 5#3 rm ++ [count])
  | .sarOne w rm => (0xD0#8 ||| wBit w) :: encodeRM 7#3 rm
  | .sarCl w rm => (0xD2#8 ||| wBit w) :: encodeRM 7#3 rm
  | .sarImm w rm count => (0xC0#8 ||| wBit w) :: (encodeRM 7#3 rm ++ [count])
  | .andRmReg toReg w rm reg => encAlu 0x20#8 toReg w rm reg
  | .andRmImm rm imm => (0x80#8 ||| wBit imm.width) :: (encodeRM 4#3 rm ++ imm.bytes)
  | .andAccImm imm => (0x24#8 ||| wBit imm.width) :: imm.bytes
  | .testRmReg w rm reg => (0x84#8 ||| wBit w) :: encodeRM reg rm
  | .testRmImm rm imm => (0xF6#8 ||| wBit imm.width) :: (encodeRM 0#3 rm ++ imm.bytes)
  | .testAccImm imm => (0xA8#8 ||| wBit imm.width) :: imm.bytes
  | .orRmReg toReg w rm reg => encAlu 0x08#8 toReg w rm reg
  | .orRmImm rm imm => (0x80#8 ||| wBit imm.width) :: (encodeRM 1#3 rm ++ imm.bytes)
  | .orAccImm imm => (0x0C#8 ||| wBit imm.width) :: imm.bytes
  | .xorRmReg toReg w rm reg => encAlu 0x30#8 toReg w rm reg
  | .xorRmImm rm imm => (0x80#8 ||| wBit imm.width) :: (encodeRM 6#3 rm ++ imm.bytes)
  | .xorAccImm imm => (0x34#8 ||| wBit imm.width) :: imm.bytes
  | .not w rm => (0xF6#8 ||| wBit w) :: encodeRM 2#3 rm
  | .movs w => [0xA4#8 ||| wBit w]
  | .cmps w => [0xA6#8 ||| wBit w]
  | .scas w => [0xAE#8 ||| wBit w]
  | .lods w => [0xAC#8 ||| wBit w]
  | .stos w => [0xAA#8 ||| wBit w]
  | .ins w => [0x6C#8 ||| wBit w]
  | .outs w => [0x6E#8 ||| wBit w]
  | .rep => [0xF3#8]
  | .repne => [0xF2#8]
  | .callRel disp => 0xE8#8 :: encodeWord disp
  | .callRm rm => 0xFF#8 :: encodeRM 2#3 rm
  | .callFar offset selector => 0x9A#8 :: (encodeWord offset ++ encodeWord selector)
  | .callFarMem mem => 0xFF#8 :: encodeMem 3#3 mem
  | .jmpShort disp => [0xEB#8, disp]
  | .jmpRel disp => 0xE9#8 :: encodeWord disp
  | .jmpRm rm => 0xFF#8 :: encodeRM 4#3 rm
  | .jmpFar offset selector => 0xEA#8 :: (encodeWord offset ++ encodeWord selector)
  | .jmpFarMem mem => 0xFF#8 :: encodeMem 5#3 mem
  | .ret => [0xC3#8]
  | .retImm imm => 0xC2#8 :: encodeWord imm
  | .retFar => [0xCB#8]
  | .retFarImm imm => 0xCA#8 :: encodeWord imm
  | .jo disp => [0x70#8, disp]
  | .jno disp => [0x71#8, disp]
  | .jb disp => [0x72#8, disp]
  | .jnb disp => [0x73#8, disp]
  | .je disp => [0x74#8, disp]
  | .jne disp => [0x75#8, disp]
  | .jbe disp => [0x76#8, disp]
  | .jnbe disp => [0x77#8, disp]
  | .js disp => [0x78#8, disp]
  | .jns disp => [0x79#8, disp]
  | .jp disp => [0x7A#8, disp]
  | .jnp disp => [0x7B#8, disp]
  | .jl disp => [0x7C#8, disp]
  | .jnl disp => [0x7D#8, disp]
  | .jle disp => [0x7E#8, disp]
  | .jnle disp => [0x7F#8, disp]
  | .loop disp => [0xE2#8, disp]
  | .loopz disp => [0xE1#8, disp]
  | .loopnz disp => [0xE0#8, disp]
  | .jcxz disp => [0xE3#8, disp]
  | .enter size level => 0xC8#8 :: (encodeWord size ++ [level])
  | .leave => [0xC9#8]
  | .bound reg mem => 0x62#8 :: encodeMem reg mem
  | .int type => [0xCD#8, type]
  | .int3 => [0xCC#8]
  | .into => [0xCE#8]
  | .iret => [0xCF#8]
  | .clc => [0xF8#8]
  | .cmc => [0xF5#8]
  | .stc => [0xF9#8]
  | .cld => [0xFC#8]
  | .std => [0xFD#8]
  | .cli => [0xFA#8]
  | .sti => [0xFB#8]
  | .hlt => [0xF4#8]
  | .wait => [0x9B#8]
  | .lock => [0xF0#8]
  | .seg sreg => [0x26#8 ||| sregBits sreg]
  | .cts => [0x0F#8, 0x06#8]
  | .esc ttt lll rm => (0xD8#8 ||| low ttt) :: encodeRM lll rm
  | .sldt rm => 0x0F#8 :: 0x00#8 :: encodeRM 0#3 rm
  | .str rm => 0x0F#8 :: 0x00#8 :: encodeRM 1#3 rm
  | .lldt rm => 0x0F#8 :: 0x00#8 :: encodeRM 2#3 rm
  | .ltr rm => 0x0F#8 :: 0x00#8 :: encodeRM 3#3 rm
  | .verr rm => 0x0F#8 :: 0x00#8 :: encodeRM 4#3 rm
  | .verw rm => 0x0F#8 :: 0x00#8 :: encodeRM 5#3 rm
  | .sgdt mem => 0x0F#8 :: 0x01#8 :: encodeMem 0#3 mem
  | .sidt mem => 0x0F#8 :: 0x01#8 :: encodeMem 1#3 mem
  | .lgdt mem => 0x0F#8 :: 0x01#8 :: encodeMem 2#3 mem
  | .lidt mem => 0x0F#8 :: 0x01#8 :: encodeMem 3#3 mem
  | .smsw rm => 0x0F#8 :: 0x01#8 :: encodeRM 4#3 rm
  | .lmsw rm => 0x0F#8 :: 0x01#8 :: encodeRM 6#3 rm
  | .lar reg rm => 0x0F#8 :: 0x02#8 :: encodeRM reg rm
  | .lsl reg rm => 0x0F#8 :: 0x03#8 :: encodeRM reg rm
  | .arpl rm reg => 0x63#8 :: encodeRM reg rm

end Sys2Proof
end

