-- ==== Sys2Proof/Machine/State.lean ====
section
/-! DEFINITION. The state of the machine: every piece of state spec 10_state.md names, as plain
data, and the state right after reset (10_state.md R70 to R75, 70_reset_and_hazards.md R760). -/

namespace Sys2Proof.Machine

/-- The eight general registers (R31). -/
structure Regs where
  ax : Word
  cx : Word
  dx : Word
  bx : Word
  sp : Word
  bp : Word
  si : Word
  di : Word
deriving DecidableEq, Repr

/-- The flags word by its fields (R41, R44, R45): bit 1 reads 1, bits 3, 5 and 15 read 0 (R42). -/
structure Flags where
  cf : Bool
  pf : Bool
  af : Bool
  zf : Bool
  sf : Bool
  tf : Bool
  intf : Bool
  df : Bool
  of : Bool
  iopl : BitVec 2
  nt : Bool
deriving DecidableEq, Repr

/-- The machine status word by its fields (R52): bits 15 to 4 read 1. -/
structure Msw where
  pe : Bool
  mp : Bool
  em : Bool
  ts : Bool
deriving DecidableEq, Repr

/-- A segment register with its descriptor cache (R38, R47). -/
structure SegReg where
  sel : Word
  base : Addr
  limit : Word
  ar : Byte
  valid : Bool
deriving DecidableEq, Repr

/-- GDTR and IDTR (R55, R56). -/
structure TableReg where
  base : Addr
  limit : Word
deriving DecidableEq, Repr

/-- LDTR with its hidden part (R57). -/
structure LdtReg where
  sel : Word
  base : Addr
  limit : Word
  usable : Bool
deriving DecidableEq, Repr

/-- TR with its hidden part (R58), and whether it was ever loaded (R260). -/
structure TaskReg where
  sel : Word
  base : Addr
  limit : Word
  loaded : Bool
deriving DecidableEq, Repr

/-- The run state (R62). -/
inductive RunState where
  | running
  | halted
  | shutdown
  | resetActive
  /-- a bus operation waits for a READY that never comes (R708, D24: `stuck`) -/
  | stuck
deriving DecidableEq, Repr

/-- The prefixes executed for the instruction being decoded (R300 to R303): one of each kind. The
repeat prefix is held as its z bit (R286). -/
structure Prefixes where
  seg : Option SReg
  lock : Bool
  rep : Option Bool
deriving DecidableEq, Repr

/-- The operand of the most recent ESC with a memory operand (R579): the descriptor of its segment,
the offset of the next word (not reduced modulo 2^16) and the direction, true for a write to
memory. -/
structure PxOperand where
  seg : SegReg
  offset : Nat
  write : Bool
deriving DecidableEq, Repr

/-- What is behind a physical address (R118, D6, D24). -/
inductive MemoryKind where
  /-- a byte that can be read and written -/
  | ram
  /-- a byte that can be read; a write to it is lost -/
  | rom
  /-- nothing drives the data lines, READY being given: a read answers a free value (R118, R746), a
  write is lost -/
  | undriven
  /-- nothing answers, READY never being given: an access waits for ever (R118, R708) -/
  | silent
deriving DecidableEq, Repr

/-- The physical addresses from first to last are of this kind. -/
structure Region where
  first : Nat
  last : Nat
  kind : MemoryKind
deriving DecidableEq, Repr

/-- The parameters of the system around the processor (R11, R21), which no step changes. -/
structure Platform where
  /-- PHYS_MEM: the regions that are not all RAM; the first that holds an address counts, and an
  address in none of them is RAM (D6) -/
  regions : List Region
  /-- the ports at which READY is never given (R708, D24); every other answers (R112) -/
  silentPorts : List Nat
  /-- A20_DECODED (R104, D6) -/
  a20Decoded : Bool
  /-- PX_PRESENT (R575, D19) -/
  pxPresent : Bool
  /-- OTHER_MASTERS: another bus master can write memory (R131, D27) -/
  otherMasters : Bool
  /-- PREFETCH_WINDOW (R135, D10) -/
  prefetchWindow : Nat
  /-- TSS_LIMIT_MIN (R252, D15) -/
  tssLimitMin : Nat
  /-- UNLISTED_OPCODE (R330, D7) -/
  unlistedOpcode : UnlistedTreatment
deriving DecidableEq, Repr

/-- A store another bus master makes (R131): a byte or a word, a word at an odd address being two bus
operations (R123, R125). -/
structure MasterStore where
  /-- the master gets the bus through HOLD (R735); else it is one on a shared system bus (R123) -/
  hold : Bool
  addr : Addr
  width : Width
  value : Word
deriving DecidableEq, Repr

/-- One bus operation of another master: the bytes it stores. -/
structure MasterOp where
  hold : Bool
  cells : List (Addr × Byte)
deriving DecidableEq, Repr

/-- A bus operation of the current step that stored to memory: a byte, or the two bytes of a word at an
even address, which are one operation (R125). -/
structure Store where
  cells : List (Addr × Byte)
  /-- how many bus operations had left the machine before it: its place among them (R132) -/
  events : Nat
  /-- the bus time of the operation: those of a step rise in the order it makes them (R132) -/
  time : Nat
  /-- the bus time since which no other master stores to these bytes: that of the locked read they
  were computed from or in whose sequence they are (R129), else the operation's own -/
  since : Nat
deriving DecidableEq, Repr

/-- Where the bus operations of a step stand (R128 to R132). -/
structure BusClock where
  /-- the bus time at which those of an instruction or of a delivery begin -/
  base : Nat
  /-- the bus time of the descriptor read that began the locked sequence in which the machine is
  (R129) -/
  held : Option Nat
  /-- the bus time from which a LOCK prefix is not active between two operand transfers (R130, R334
  comment 8) -/
  apart : Nat
deriving DecidableEq, Repr

/-- The bus time at which the first delivery of a step begins. -/
def BusClock.delivery : Nat := 0x10000

/-- The clock at the start of a step: LOCK is active over the whole of an instruction, and not over the
delivery of an exception, whose bus operations are those of an interrupt (R130, R543). -/
def BusClock.start : BusClock := { base := 0, held := none, apart := delivery }

/-- The inputs a step reads (R63): no step changes them but by serving a PEREQ word, by taking the
stores other bus masters make, and where RESET begins in the course of it. -/
structure Pins where
  intr : Bool
  /-- the byte of the interrupt acknowledge (R632) -/
  vector : Byte
  nmi : Bool
  busy : Bool
  error : Bool
  /-- one word for each operand transfer requested, the word the extension supplies where the
  transfer writes memory (R730) -/
  pereq : List Word
  /-- the stores other bus masters make in the course of the step, in order (R131, R735, D27) -/
  masterStores : List MasterStore
  reset : Bool
  /-- RESET becomes active in the course of this step (R761) -/
  resetDuring : Bool
deriving DecidableEq, Repr

/-- The memory operand of an ESC as the processor extension is told of it (R575, R730): its segment
register with the selector in it, its offset, and the direction, true for a write to memory. -/
structure EscOperand where
  reg : SReg
  selector : Word
  offset : Word
  write : Bool
deriving DecidableEq, Repr

/-- A bus operation that leaves the machine, memory apart (R701). -/
inductive Event where
  /-- a read at an I/O address, 10000h where a word at port FFFFh carries out of it (R361); a word at
  an odd port is two byte operations (R112, R707) -/
  | ioRead (port : Nat) (w : Width) (value : Word)
  | ioWrite (port : Nat) (w : Width) (value : Word)
  /-- the pair of interrupt acknowledge operations (R725) -/
  | intAck (vector : Byte)
  /-- the halt bus operation, A1 high (R706) -/
  | haltCycle
  /-- the shutdown bus operation, A1 low (R706) -/
  | shutdownCycle
  /-- an ESC handed to the processor extension: the instruction's bytes without its prefixes (DESIGN
  CHOICE, notes/assumptions/23.md) and its memory operand (R575, R730) -/
  | esc (code : List Byte) (operand : Option EscOperand)
deriving DecidableEq, Repr

/-- The state of the machine. -/
structure State where
  regs : Regs
  /-- IP (R35); while an instruction executes, the offset of the byte after it -/
  ip : Word
  /-- the carry out of IP: the bytes before IP reach offset FFFFh, and the next byte would lie past the
  end of the segment (R36, R136) -/
  ipCarry : Bool
  /-- the offset an exception of the current instruction saves (R36, R624) -/
  curIp : Word
  flags : Flags
  msw : Msw
  es : SegReg
  cs : SegReg
  ss : SegReg
  ds : SegReg
  /-- the current privilege level (R186), held apart from CS (R772, D41) -/
  cpl : BitVec 2
  gdtr : TableReg
  idtr : TableReg
  ldtr : LdtReg
  tr : TaskReg
  run : RunState
  /-- the NMI request latch (R61) -/
  nmiPending : Bool
  /-- set while an NMI is in service (R61) -/
  nmiInService : Bool
  /-- the NMI level last sampled, for the rising edge (R634) -/
  nmiLast : Bool
  /-- int_inhibit (R64) -/
  intInhibit : Bool
  /-- tf_at_start (R65), cleared once its trap is taken or an exception replaces it -/
  tfAtStart : Bool
  /-- INTR was high when the instruction before this boundary began (R630, D34) -/
  intrHeld : Bool
  /-- the last of the steps 2 to 5 of R637 taken at this boundary, 0 where none was -/
  boundaryStep : Nat
  /-- a processor extension segment overrun waits to be taken (R656) -/
  pxOverrun : Bool
  /-- the operand latched for processor extension transfers (R579) -/
  pxOperand : Option PxOperand
  /-- PEREQ is no longer served after an overrun during shutdown (R670, R766) -/
  pxInhibit : Bool
  /-- an LMSW has set PE and the near JMP has not run (R780) -/
  modeSwitch : Bool
  /-- the prefixes of the instruction being decoded (R300) -/
  pre : Prefixes
  /-- older values of code bytes stored to inside the prefetch window (R135, R138) -/
  stale : List Host.Cell
  /-- the stores made since the step began, newest first (R132): what RESET and other bus masters come
  between (R761, R785) -/
  stores : List Store
  /-- where the bus operations of the step stand (R128 to R132) -/
  clock : BusClock
  /-- the bus time at which the step last discarded what was prefetched, if it did (R134, R138) -/
  flushed : Option Nat
  /-- physical memory: addresses strictly rising, no byte 0 listed (R91) -/
  mem : List Host.Cell
  pins : Pins
  /-- the system around the processor (R11) -/
  platform : Platform
  /-- the bus operations that left the machine, newest first -/
  out : List Event
  /-- the counter free values are taken at (R19) -/
  draws : Nat
deriving DecidableEq, Repr

/-- The model's own stops that the spec calls faults: none. Whatever the spec calls a fault is an
exception the machine takes, so that no step ends in one. -/
inductive Fault where
deriving DecidableEq, Repr

/-- Where the model gives a step no meaning. -/
inductive Refusal where
  /-- an instruction without a meaning; raised by a refused arm of `exec`. Safe: the model stops. -/
  | notModelled (mnemonic : String)
  /-- an encoding outside the opcode table under UNLISTED_OPCODE = refuse (R330); raised by `step`.
  Safe: the model stops. -/
  | unlistedEncoding
  /-- a second prefix of one kind (R303, D17: "refuse"); raised by the prefix instructions. Safe:
  the model stops where the processor goes on. -/
  | repeatedPrefix
  /-- anything but a near JMP as the instruction right after LMSW sets PE (R780, D10: "refuse");
  raised by `step`. Safe: the model stops. -/
  | modeSwitchHazard
  /-- IN AX, DX with DX = FFFFh ("the model refuses it", R361); raised by IN. Safe: the model
  stops. -/
  | wordPortWrap
  /-- a task switch before TR was ever loaded ("a model refuses", R260); raised by task switches.
  Safe: the model stops. -/
  | taskRegisterNeverLoaded
deriving DecidableEq, Repr

/-- No prefix. -/
def Prefixes.none : Prefixes := { seg := Option.none, lock := false, rep := Option.none }

/-- Every input at its inactive level (R721: internal pull-ups; R63). -/
def Pins.quiet : Pins :=
  { intr := false, vector := 0#8, nmi := false, busy := false, error := false, pereq := [],
    masterStores := [], reset := false, resetDuring := false }

/-- The system around the processor at reset: RAM at every address and the defaults of Config.
DESIGN CHOICE, notes/assumptions/3.md and 34.md. -/
def Platform.default : Platform :=
  { regions := [], silentPorts := [], a20Decoded := Config.a20Decoded, pxPresent := Config.pxPresent
    otherMasters := Config.otherMasters, prefetchWindow := Config.prefetchWindow
    tssLimitMin := Config.tssLimitMin, unlistedOpcode := Config.unlistedOpcode }

/-- The cached rights of a segment in real address mode: present, DPL 0, data, expand up, writable
and readable (R48, R772). DEDUCED: 93h; notes/assumptions/4.md. -/
def realRights : Byte := 0x93#8

/-- A segment register as a real-mode load leaves it, but for its base (R48). -/
def realSeg (sel : Word) (base : Addr) : SegReg :=
  { sel := sel, base := base, limit := 0xFFFF#16, ar := realRights, valid := true }

/-- FLAGS after reset, 0002h (R70). -/
def Flags.reset : Flags :=
  { cf := false, pf := false, af := false, zf := false, sf := false, tf := false, intf := false,
    df := false, of := false, iopl := 0#2, nt := false }

/-- The machine right after reset (R70 to R75, R760), with nothing in memory, the inputs inactive
and no operation done. The general registers, GDTR, LDTR and TR have no reset value in the spec
(R73): DESIGN CHOICE zero, notes/assumptions/1.md and 2.md. -/
def State.reset : State :=
  { regs := { ax := 0, cx := 0, dx := 0, bx := 0, sp := 0, bp := 0, si := 0, di := 0 }
    ip := 0xFFF0#16
    ipCarry := false
    curIp := 0xFFF0#16
    flags := Flags.reset
    msw := { pe := false, mp := false, em := false, ts := false }
    es := realSeg 0#16 0#24
    cs := realSeg 0xF000#16 0xFF0000#24
    ss := realSeg 0#16 0#24
    ds := realSeg 0#16 0#24
    cpl := 0#2
    gdtr := { base := 0#24, limit := 0#16 }
    idtr := { base := 0#24, limit := 0x03FF#16 }
    ldtr := { sel := 0#16, base := 0#24, limit := 0#16, usable := false }
    tr := { sel := 0#16, base := 0#24, limit := 0#16, loaded := false }
    run := .running
    nmiPending := false
    nmiInService := false
    nmiLast := false
    intInhibit := false
    tfAtStart := false
    intrHeld := false
    boundaryStep := 0
    pxOverrun := false
    pxOperand := none
    pxInhibit := false
    modeSwitch := false
    pre := Prefixes.none
    stale := []
    stores := []
    clock := BusClock.start
    flushed := none
    mem := []
    pins := Pins.quiet
    platform := Platform.default
    out := []
    draws := 0 }

end Sys2Proof.Machine
end

