-- ==== Sys2Proof/Machine/Flags.lean ====
section
/-! DEFINITION. The flags word, the machine status word, and every flag computation of the spec
(00_scope.md R18, 41_arithmetic.md, 42_logic_shift.md). A byte value stands in the low eight bits
of a word whose high byte is 0. -/

namespace Sys2Proof

/-- N, the number of bits of an operand (R340). -/
def Width.bits : Width → Nat
  | .byte => 8
  | .word => 16

/-- n = N / 8, the number of bytes (R340). -/
def Width.bytes : Width → Nat
  | .byte => 1
  | .word => 2

end Sys2Proof

namespace Sys2Proof.Machine

/-! ## The words -/

/-- FLAGS as a word (R41, R42, R44, R45). -/
def Flags.toWord (f : Flags) : Word :=
  BitVec.ofBool false ++ BitVec.ofBool f.nt ++ f.iopl ++ BitVec.ofBool f.of ++ BitVec.ofBool f.df ++
  BitVec.ofBool f.intf ++ BitVec.ofBool f.tf ++ BitVec.ofBool f.sf ++ BitVec.ofBool f.zf ++
  BitVec.ofBool false ++ BitVec.ofBool f.af ++ BitVec.ofBool false ++ BitVec.ofBool f.pf ++
  BitVec.ofBool true ++ BitVec.ofBool f.cf

/-- FLAGS loaded from a word: the reserved bits of the word are ignored (R42). -/
def Flags.ofWord (v : Word) : Flags :=
  { cf := v.getLsbD 0, pf := v.getLsbD 2, af := v.getLsbD 4, zf := v.getLsbD 6,
    sf := v.getLsbD 7, tf := v.getLsbD 8, intf := v.getLsbD 9, df := v.getLsbD 10,
    of := v.getLsbD 11, iopl := v.extractLsb' 12 2, nt := v.getLsbD 14 }

/-- POPF and IRET in real address mode: IOPL and NT remain 0 (R46, R371, R546). -/
def Flags.loadReal (old : Flags) (v : Word) : Flags :=
  { Flags.ofWord v with iopl := old.iopl, nt := old.nt }

/-- POPF and IRET in protected mode (R216, R371): IF changes only if CPL <= IOPL, IOPL only if
CPL = 0, both read before the instruction. -/
def Flags.loadProt (old : Flags) (cpl : BitVec 2) (v : Word) : Flags :=
  { Flags.ofWord v with
    intf := if cpl ≤ old.iopl then v.getLsbD 9 else old.intf
    iopl := if cpl = 0#2 then v.extractLsb' 12 2 else old.iopl }

/-- MSW as a word (R52): bits 15 to 4 read 1. -/
def Msw.toWord (m : Msw) : Word :=
  0xFFF#12 ++ BitVec.ofBool m.ts ++ BitVec.ofBool m.em ++ BitVec.ofBool m.mp ++ BitVec.ofBool m.pe

/-- LMSW (R604): PE can be set and not cleared, bits 15 to 4 are ignored. -/
def Msw.load (m : Msw) (v : Word) : Msw :=
  { pe := m.pe || v.getLsbD 0, mp := v.getLsbD 1, em := v.getLsbD 2, ts := v.getLsbD 3 }

/-! ## Widths and readings -/

/-- trunc_N of a number (R12). -/
def truncTo (w : Width) (n : Nat) : Word := BitVec.ofNat 16 (n % 2 ^ w.bits)

/-- trunc_N of an integer (R12). -/
def truncInt (w : Width) (n : Int) : Word := truncTo w (n % 2 ^ w.bits).toNat

/-- The low-order N bits of a word. -/
def maskTo (w : Width) (v : Word) : Word :=
  match w with
  | .byte => v &&& 0x00FF#16
  | .word => v

/-- msb(x) = x[N-1] (R431). -/
def msb (w : Width) (v : Word) : Bool :=
  match w with
  | .byte => v.getLsbD 7
  | .word => v.getLsbD 15

/-- x[N-2]. -/
def msb2 (w : Width) (v : Word) : Bool :=
  match w with
  | .byte => v.getLsbD 6
  | .word => v.getLsbD 14

/-- signed_N (R13). -/
def signed (w : Width) (v : Word) : Int :=
  if msb w v then (v.toNat : Int) - 2 ^ w.bits else v.toNat

/-- A number lies in the signed range of N bits. -/
def fitsSigned (w : Width) (n : Int) : Bool :=
  decide (-(2 ^ (w.bits - 1) : Int) ≤ n) && decide (n < 2 ^ (w.bits - 1))

/-! ## The flag helpers of R18 -/

/-- PF_of: the low-order eight bits contain an even number of 1-bits. -/
def parityEven (v : Word) : Bool :=
  !(v.getLsbD 0 ^^ v.getLsbD 1 ^^ v.getLsbD 2 ^^ v.getLsbD 3 ^^ v.getLsbD 4 ^^ v.getLsbD 5 ^^
    v.getLsbD 6 ^^ v.getLsbD 7)

/-- SetSZP. -/
def Flags.setSZP (f : Flags) (w : Width) (r : Word) : Flags :=
  { f with zf := r == 0#16, sf := msb w r, pf := parityEven r }

/-- The value of a carry flag as a number. -/
def carryNat (c : Bool) : Nat := if c then 1 else 0

/-- Add(a, b, c) of R381: the result and the flags. -/
def addFlags (w : Width) (a b : Word) (c : Bool) (f : Flags) : Word × Flags :=
  let sum := a.toNat + b.toNat + carryNat c
  let r := truncTo w sum
  (r, { f.setSZP w r with
    cf := decide (2 ^ w.bits ≤ sum)
    af := decide (16 ≤ a.toNat % 16 + b.toNat % 16 + carryNat c)
    of := !fitsSigned w (signed w a + signed w b + carryNat c) })

/-- Sub(a, b, c) of R381: the result and the flags. -/
def subFlags (w : Width) (a b : Word) (c : Bool) (f : Flags) : Word × Flags :=
  let r := truncInt w ((a.toNat : Int) - b.toNat - carryNat c)
  (r, { f.setSZP w r with
    cf := decide (a.toNat < b.toNat + carryNat c)
    af := decide (a.toNat % 16 < b.toNat % 16 + carryNat c)
    of := !fitsSigned w (signed w a - signed w b - carryNat c) })

/-- INC: Add(a, 1, 0) with CF left unchanged (R388). -/
def incFlags (w : Width) (a : Word) (f : Flags) : Word × Flags :=
  let r := addFlags w a 1#16 false f
  (r.1, { r.2 with cf := f.cf })

/-- DEC: Sub(a, 1, 0) with CF left unchanged (R396). -/
def decFlags (w : Width) (a : Word) (f : Flags) : Word × Flags :=
  let r := subFlags w a 1#16 false f
  (r.1, { r.2 with cf := f.cf })

/-- NEG: Sub(0, a, 0) (R402). -/
def negFlags (w : Width) (a : Word) (f : Flags) : Word × Flags := subFlags w 0#16 a false f

/-! ## Free flags (R19) -/

/-- An undefined flag, fresh at the draw n. -/
def freeFlag (n : Nat) (slot : FreeSlot) : Bool := Config.freeBit n slot

/-- SF, ZF, AF and PF undefined (MUL, IMUL: R407 to R409). -/
def Flags.freeSZAP (f : Flags) (n : Nat) : Flags :=
  { f with sf := freeFlag n .sf, zf := freeFlag n .zf, af := freeFlag n .af, pf := freeFlag n .pf }

/-- All six undefined (DIV, IDIV: R410, R411). -/
def Flags.freeAll (f : Flags) (n : Nat) : Flags :=
  { f.freeSZAP n with cf := freeFlag n .cf, of := freeFlag n .of }

/-- Logic(r) of R439: AF undefined. -/
def logicFlags (w : Width) (r : Word) (f : Flags) (n : Nat) : Flags :=
  { f.setSZP w r with cf := false, of := false, af := freeFlag n .af }

/-! ## Decimal and ASCII adjust (R403 to R406) -/

/-- AL[3:0] > 9 or AF = 1. -/
def adjustLow (al : Byte) (f : Flags) : Bool := decide (9 < al.toNat % 16) || f.af

/-- AAA and AAS: AF and CF say whether the adjustment was taken, the rest is undefined. -/
def asciiFlags (taken : Bool) (f : Flags) (n : Nat) : Flags :=
  { f with
    af := taken, cf := taken, of := freeFlag n .of, sf := freeFlag n .sf, zf := freeFlag n .zf,
    pf := freeFlag n .pf }

/-- AAA (R403): AX and the flags. For AL >= FAh AH is a draw between AH + 1 and AH + 2. -/
def aaaFlags (ax : Word) (f : Flags) (n : Nat) : Word × Flags :=
  let al := loByte ax
  let ah := hiByte ax
  if adjustLow al f then
    let extra : Byte := if decide (0xFA ≤ al.toNat) && Config.freeBit n .ahCarry then 2#8 else 1#8
    (mkWord ((al + 6#8) &&& 0x0F#8) (ah + extra), asciiFlags true f n)
  else (mkWord (al &&& 0x0F#8) ah, asciiFlags false f n)

/-- AAS (R405): AX and the flags. For AL < 6 AH is a draw between AH - 1 and AH - 2. -/
def aasFlags (ax : Word) (f : Flags) (n : Nat) : Word × Flags :=
  let al := loByte ax
  let ah := hiByte ax
  if adjustLow al f then
    let extra : Byte := if decide (al.toNat < 6) && Config.freeBit n .ahCarry then 2#8 else 1#8
    (mkWord ((al - 6#8) &&& 0x0F#8) (ah - extra), asciiFlags true f n)
  else (mkWord (al &&& 0x0F#8) ah, asciiFlags false f n)

/-- The flags of DAA and DAS: OF undefined. -/
def decimalFlags (al : Byte) (low high : Bool) (f : Flags) (n : Nat) : Flags :=
  { f.setSZP .byte (zext16 al) with af := low, cf := high, of := freeFlag n .of }

/-- DAA (R404): AL and the flags. -/
def daaFlags (al : Byte) (f : Flags) (n : Nat) : Byte × Flags :=
  let low := adjustLow al f
  let high := decide (0x99 < al.toNat) || f.cf
  let al1 := if low then al + 6#8 else al
  let al2 := if high then al1 + 0x60#8 else al1
  (al2, decimalFlags al2 low high f n)

/-- DAS (R406): AL and the flags. -/
def dasFlags (al : Byte) (f : Flags) (n : Nat) : Byte × Flags :=
  let low := adjustLow al f
  let high := decide (0x99 < al.toNat) || f.cf
  let al1 := if low then al - 6#8 else al
  let al2 := if high then al1 - 0x60#8 else al1
  (al2, decimalFlags al2 low high f n)

/-- The flags of AAM and AAD (R412, R413): OF, AF and CF undefined. -/
def aamFlags (al : Byte) (f : Flags) (n : Nat) : Flags :=
  { f.setSZP .byte (zext16 al) with
    of := freeFlag n .of, af := freeFlag n .af, cf := freeFlag n .cf }

/-! ## Multiply (R407 to R409) -/

/-- The flags of a multiplication: CF = OF = `high`, SF, ZF, AF, PF undefined. -/
def mulFlags (high : Bool) (f : Flags) (n : Nat) : Flags :=
  { f.freeSZAP n with cf := high, of := high }

/-! ## Shift and rotate (R430 to R438) -/

/-- The seven operations, in the order of TTT. -/
inductive ShiftOp where
  | rol
  | ror
  | rcl
  | rcr
  | shl
  | shr
  | sar
deriving DecidableEq, Repr

/-- A bit as the lowest bit of a word. -/
def lowBit (b : Bool) : Word := if b then 1#16 else 0#16

/-- A bit as bit N-1 of a word. -/
def topBit (w : Width) (b : Bool) : Word :=
  if b then (match w with | .byte => 0x80#16 | .word => 0x8000#16) else 0#16

/-- One position: the value and CF after it (R432 to R438). -/
def shiftStep (op : ShiftOp) (w : Width) (x : Word) (cf : Bool) : Word × Bool :=
  match op with
  | .rol => (maskTo w (x <<< 1) ||| lowBit (msb w x), msb w x)
  | .ror => ((x >>> 1) ||| topBit w (x.getLsbD 0), x.getLsbD 0)
  | .rcl => (maskTo w (x <<< 1) ||| lowBit cf, msb w x)
  | .rcr => ((x >>> 1) ||| topBit w cf, x.getLsbD 0)
  | .shl => (maskTo w (x <<< 1), msb w x)
  | .shr => (x >>> 1, x.getLsbD 0)
  | .sar => ((x >>> 1) ||| topBit w (msb w x), x.getLsbD 0)

/-- The step repeated c times (R431). -/
def shiftTimes (op : ShiftOp) (w : Width) : Nat → Word → Bool → Word × Bool
  | 0, x, cf => (x, cf)
  | c + 1, x, cf =>
    let r := shiftStep op w x cf
    shiftTimes op w c r.1 r.2

/-- OF after a single-position operation on `orig` that gave r and cf (R432 to R438). -/
def shiftOverflow (op : ShiftOp) (w : Width) (orig r : Word) (cf : Bool) : Bool :=
  match op with
  | .rol | .rcl | .shl => msb w r ^^ cf
  | .ror | .rcr => msb w r ^^ msb2 w r
  | .shr => msb w orig
  | .sar => false

/-- Whether the operation is one of the shifts, which also set SF, ZF and PF and leave AF
undefined (R436 to R438). -/
def ShiftOp.isShift : ShiftOp → Bool
  | .shl | .shr | .sar => true
  | .rol | .ror | .rcl | .rcr => false

/-- The count used: its low five bits (R431, D8). -/
def shiftCount (raw : Byte) : Nat := raw.toNat % 32

/-- A shift or rotate by c positions, c not 0: the result and the flags. OF is undefined for c > 1
(R431). -/
def shiftFlags (op : ShiftOp) (w : Width) (x : Word) (c : Nat) (f : Flags) (n : Nat) :
    Word × Flags :=
  let r := shiftTimes op w c x f.cf
  let ovf := if c = 1 then shiftOverflow op w x r.1 r.2 else freeFlag n .of
  let g : Flags := { f with cf := r.2, of := ovf }
  (r.1, if op.isShift then { g.setSZP w r.1 with af := freeFlag n .af } else g)

/-! ## The conditions of the conditional jumps (R499 to R514) -/

/-- CF = 1 or ZF = 1. -/
def Flags.belowOrEqual (f : Flags) : Bool := f.cf || f.zf

/-- SF != OF. -/
def Flags.less (f : Flags) : Bool := f.sf ^^ f.of

/-- ZF = 1 or SF != OF. -/
def Flags.lessOrEqual (f : Flags) : Bool := f.zf || f.less

end Sys2Proof.Machine
end

