-- ==== Sys2Proof/Machine/Ops.lean ====
section
/-! DEFINITION. The named operations: registers, memory, segments, the stack, descriptors, control
transfers, task switches, and taking an exception with the return from one. -/

namespace Sys2Proof.Machine

/-! ## How an operation ends early -/

/-- What an exception leaves behind (R650). -/
inductive Left where
  /-- the state at the start of the instruction -/
  | unchanged
  /-- that state with the effects R650 lists as staying, the return address being the instruction -/
  | partly (t : State)
  /-- the state of the new task, the return address being its CS:IP (R249, D39) -/
  | inNewTask (t : State)
deriving DecidableEq, Repr

/-- Why an operation did not complete. -/
inductive Stop where
  /-- `raise E(code)` of R17 -/
  | exc (vector : Byte) (code : Word) (left : Left)
  /-- the processor enters shutdown from this state (R670, R671) -/
  | shutdown (t : State)
  /-- a bus operation waits for ever, t being the state reached (R708) -/
  | stuck (t : State)
  | refuse (r : Refusal)
deriving DecidableEq, Repr

/-- An operation that may raise. -/
abbrev Exec (α : Type) := Except Stop α

/-- `raise v(code)` before anything has changed (R17). -/
def raise {α : Type} (v : Nat) (code : Word) : Exec α :=
  .error (.exc (BitVec.ofNat 8 v) code .unchanged)

/-- `if not ok: raise v(code)`. -/
def require (ok : Bool) (v : Nat) (code : Word) : Exec Unit :=
  if ok then .ok () else raise v code

/-- A failure found after the new task t has been entered (R249, D39). -/
def inTask {α : Type} (t : State) (r : Exec α) : Exec α :=
  match r with
  | .error (.exc v c .unchanged) => .error (.exc v c (.inNewTask t))
  | r => r

/-- The state an exception is delivered in. -/
def Left.stateOr (l : Left) (s : State) : State :=
  match l with
  | .unchanged => s
  | .partly t => t
  | .inNewTask t => t

/-! ## General registers (R31, R32, R287) -/

/-- The word registers in the order of their numbers. -/
inductive Reg16 where
  | ax
  | cx
  | dx
  | bx
  | sp
  | bp
  | si
  | di
deriving DecidableEq, Repr

/-- reg16[n] (R287). -/
def reg16Of (n : RegNum) : Reg16 :=
  match n.toNat with
  | 0 => .ax
  | 1 => .cx
  | 2 => .dx
  | 3 => .bx
  | 4 => .sp
  | 5 => .bp
  | 6 => .si
  | _ => .di

/-- The word register a byte register is half of (R32): AL and AH are numbers 0 and 4. -/
def wordOfByteReg (n : RegNum) : Reg16 := reg16Of (n &&& 3#3)

/-- A word register's value. -/
def Regs.get (r : Regs) : Reg16 → Word
  | .ax => r.ax
  | .cx => r.cx
  | .dx => r.dx
  | .bx => r.bx
  | .sp => r.sp
  | .bp => r.bp
  | .si => r.si
  | .di => r.di

/-- A word register written. -/
def Regs.set (r : Regs) (n : Reg16) (v : Word) : Regs :=
  match n with
  | .ax => { r with ax := v }
  | .cx => { r with cx := v }
  | .dx => { r with dx := v }
  | .bx => { r with bx := v }
  | .sp => { r with sp := v }
  | .bp => { r with bp := v }
  | .si => { r with si := v }
  | .di => { r with di := v }

/-- A byte register's value (R32). -/
def Regs.getByte (r : Regs) (n : RegNum) : Byte :=
  if n.getLsbD 2 then hiByte (r.get (wordOfByteReg n)) else loByte (r.get (wordOfByteReg n))

/-- A byte register written: the other half of its word keeps its value (R32). -/
def Regs.setByte (r : Regs) (n : RegNum) (v : Byte) : Regs :=
  let x := r.get (wordOfByteReg n)
  r.set (wordOfByteReg n) (if n.getLsbD 2 then mkWord (loByte x) v else mkWord v (hiByte x))

/-- `reg8[n]` or `reg16[n]` by the width (R14, R340). -/
def State.getReg (s : State) (w : Width) (n : RegNum) : Word :=
  match w with
  | .byte => zext16 (s.regs.getByte n)
  | .word => s.regs.get (reg16Of n)

/-- `reg8[n] <- v` or `reg16[n] <- v`. -/
def State.setReg (s : State) (w : Width) (n : RegNum) (v : Word) : State :=
  match w with
  | .byte => { s with regs := s.regs.setByte n (loByte v) }
  | .word => { s with regs := s.regs.set (reg16Of n) v }

/-- The accumulator, AL or AX. -/
def State.acc (s : State) (w : Width) : Word := s.getReg w 0#3

/-- AL or AX written. -/
def State.setAcc (s : State) (w : Width) (v : Word) : State := s.setReg w 0#3 v

/-- AX written. -/
def State.setAx (s : State) (v : Word) : State := { s with regs := { s.regs with ax := v } }

/-- CX written. -/
def State.setCx (s : State) (v : Word) : State := { s with regs := { s.regs with cx := v } }

/-- DX written. -/
def State.setDx (s : State) (v : Word) : State := { s with regs := { s.regs with dx := v } }

/-- SP written. -/
def State.setSp (s : State) (v : Word) : State := { s with regs := { s.regs with sp := v } }

/-- BP written. -/
def State.setBp (s : State) (v : Word) : State := { s with regs := { s.regs with bp := v } }

/-- FLAGS written. -/
def State.setFlags (s : State) (f : Flags) : State := { s with flags := f }

/-- A register and the flags written: the result of a flag computation. -/
def State.setRegFlags (s : State) (w : Width) (n : RegNum) (r : Word × Flags) : State :=
  (s.setReg w n r.1).setFlags r.2

/-- ZF alone written. -/
def State.setZf (s : State) (z : Bool) : State := { s with flags := { s.flags with zf := z } }

/-! ## Physical memory (R91, R120) -/

/-- What a byte nothing has written reads as. DESIGN CHOICE, notes/assumptions/3.md. -/
def Memory.unlisted : Byte := 0#8

/-- One byte of memory. -/
def Memory.read : List Host.Cell → Nat → Byte
  | [], _ => Memory.unlisted
  | (a, b) :: t, k => if k = a then b else Memory.read t k

/-- A listed byte put in its place. -/
def Memory.insert : List Host.Cell → Nat → Byte → List Host.Cell
  | [], k, v => [(k, v)]
  | (a, b) :: t, k, v =>
    if k < a then (k, v) :: (a, b) :: t
    else if k = a then (k, v) :: t
    else (a, b) :: Memory.insert t k v

/-- One byte of memory written: writing what an unlisted address reads as removes the entry. -/
def Memory.write (m : List Host.Cell) (k : Nat) (v : Byte) : List Host.Cell :=
  if v = Memory.unlisted then m.filter (fun c => c.1 != k) else Memory.insert m k v

/-- The canonical form: addresses below 2^24, strictly rising, and no byte listed that an unlisted
address would read as. -/
def Memory.wf : List Host.Cell → Bool
  | [] => true
  | (a, b) :: t =>
    decide (a < 2 ^ 24) && b != Memory.unlisted &&
      (match t with
        | [] => true
        | (a', _) :: _ => decide (a < a')) && Memory.wf t

/-- The location a 24-bit address names: the address itself, or its low 20 bits where the system
does not decode A23 to A20 in real address mode (R104, D6). -/
def State.physAddr (s : State) (a : Addr) : Nat :=
  if !s.platform.a20Decoded && !s.msw.pe then a.toNat % 2 ^ 20 else a.toNat

/-- What is behind a location (R118, D6). -/
def Platform.kindAt (p : Platform) (k : Nat) : MemoryKind :=
  match p.regions.find? fun r => decide (r.first ≤ k) && decide (k ≤ r.last) with
  | some r => r.kind
  | none => .ram

/-- Every location answers. -/
def Platform.answers (p : Platform) : Bool := p.regions.all fun r => r.kind != .silent

/-- A location holds a byte that can be written. -/
def State.ramAt (s : State) (k : Nat) : Bool := s.platform.kindAt k == .ram

/-- What a location holds: the byte of memory, or a free value where nothing drives the data lines, that
of a code fetch (R118, D24). -/
def State.byteAt (s : State) (k : Nat) : Byte :=
  if s.platform.kindAt k = .undriven then loByte (Config.freeWord s.draws (.undrivenCode k))
  else Memory.read s.mem k

/-- The byte memory holds at an address, the stores of other bus masters apart that come in the course of
the step. -/
def State.readByte (s : State) (a : Addr) : Byte := s.byteAt (s.physAddr a)

/-- The word memory holds at an address, little endian (R120). -/
def State.readWord (s : State) (a : Addr) : Word := mkWord (s.readByte a) (s.readByte (a + 1))

/-- `trunc_24(seg.base + off)` (R103, R109). -/
def linear (base : Addr) (off : Word) : Addr := base + off.setWidth 24

/-- How many locations there are: 2^20 where the system does not decode A23 to A20 in real address
mode (R104). -/
def State.locations (s : State) : Nat :=
  if !s.platform.a20Decoded && !s.msw.pe then 2 ^ 20 else 2 ^ 24

/-- A location is one of n code bytes from an offset on. -/
def State.inCode (s : State) (off : Word) (n k : Nat) : Bool :=
  decide ((k + s.locations - s.physAddr (linear s.cs.base off)) % s.locations < n)

/-- The location lies in the code bytes that may already have left memory: from the current
instruction up to PREFETCH_WINDOW bytes beyond it (R135). -/
def State.inWindow (s : State) (k : Nat) : Bool :=
  s.inCode s.curIp ((s.ip - s.curIp).toNat + s.platform.prefetchWindow) k

/-- The record of older code bytes after v is stored at k (R138). -/
def State.staleAfter (s : State) (k : Nat) (v : Byte) : List Host.Cell :=
  let old := Memory.read s.mem k
  if s.ramAt k && s.inWindow k && old != v && !s.stale.contains (k, old) then (k, old) :: s.stale
  else s.stale

/-- The code fetch that brings the byte at an address is answered: that of a word, where the address is
even (R133, R137, R708). -/
def State.fetchAnswers (s : State) (a : Addr) : Bool :=
  s.platform.kindAt (s.physAddr a) != .silent &&
    (a.getLsbD 0 || s.platform.kindAt (s.physAddr (a + 1)) != .silent)

/-- The record of older code bytes where PE becomes set: where the system did not decode A23 to A20, the
code's addresses name other locations now, and what was prefetched is what the old ones held (R60, R104,
R133, R135). -/
def State.staleRemapped (s : State) : List Host.Cell :=
  if s.platform.a20Decoded || s.msw.pe then s.stale
  else
    (List.range ((s.ip - s.curIp).toNat + s.platform.prefetchWindow)).flatMap fun i =>
      let a := linear s.cs.base (s.curIp + BitVec.ofNat 16 i)
      let k := s.physAddr a
      (if a.toNat = k ∨ s.fetchAnswers a = false then [] else [(a.toNat, s.byteAt k)]) ++
        (s.stale.filter fun c => c.1 == k).map fun c => (a.toNat, c.2)

/-- Memory after v is stored at k: a store to what is not RAM is lost. -/
def State.memAfter (s : State) (k : Nat) (v : Byte) : List Host.Cell :=
  if s.ramAt k then Memory.write s.mem k v else s.mem

/-- The bus operations of a store, in order: a word at an odd address is two, the low byte first
(R123, R125). -/
def storeOps (a : Addr) (w : Width) (v : Word) : List (List (Addr × Byte)) :=
  match w with
  | .byte => [[(a, loByte v)]]
  | .word =>
    if a.getLsbD 0 then [[(a, loByte v)], [(a + 1, hiByte v)]]
    else [[(a, loByte v), (a + 1, hiByte v)]]

/-! ## The bus (R123 to R132, R735)

What the processor reads is what memory holds at that time of the step. The bus times of a step rise with
its operations: the reads between two stores have the times 0, 2, 4 and so on past the last store, the
store comes after them, and the second half of a word at an odd address one time after its first. Other
bus masters' operations fall between two times, and none into a locked sequence: all that is read in it
is what memory held at the time it began. -/

/-- The bus time of the i-th read after the last store: an odd-addressed word's second half has the next
one. -/
def State.time (s : State) (i : Nat) : Nat := s.clock.base + 128 * s.stores.length + 2 * i

/-- The time whose memory an operation at a bus time finds: the start of the locked sequence the machine
is in (R129), else its own. -/
def State.seen (s : State) (m : Nat) : Nat := s.clock.held.getD m

/-- The record of the step's stores with these operations added (R132). -/
def State.recorded (s : State) (ops : List (List (Addr × Byte))) : List Store :=
  (ops.zipIdx.map fun x =>
    { cells := x.1, events := s.out.length, time := s.time 63 + x.2, since := s.seen (s.time 63 + x.2)
      : Store }).reverse ++ s.stores

/-- The bus operations with which other masters store in the course of the step, in order: none where
there is no such master (OTHER_MASTERS), and none of a master that waits for HOLD where the processor's
own bus operation never ends. -/
def State.masterOps (s : State) : List MasterOp :=
  if s.platform.otherMasters then
    (s.pins.masterStores.filter fun x => !(x.hold && s.run == .stuck)).flatMap fun x =>
      (storeOps x.addr x.width x.value).map fun cells => { hold := x.hold, cells := cells }
  else []

/-- How many other masters' operations may come between bus time m and the next, n having been made: none
under a LOCK prefix (R130), but between two operand transfers where it "does not remain active" (R334
comment 8) and in a delivery; between the two halves of a word at an odd address those of masters that do
not use HOLD (R123, R145). DESIGN CHOICE: R735 and R785 let none come there, R123 lets one "that does not
use HOLD", and the model follows R123, the more special; notes/assumptions/31.md. -/
def State.gap (s : State) (m n : Nat) : Nat :=
  let left := s.masterOps.drop n
  if s.pre.lock && (decide (m < s.clock.apart) || m % 2 == 0 && decide (m < BusClock.delivery)) then 0
  else if m % 2 = 0 then (left.takeWhile fun op => !op.hold).length
  else left.length

/-- How many other masters' operations have been made at a bus time: a free number in every gap (R131,
D27). -/
def State.passedAt (s : State) : Nat → Nat
  | 0 => (Config.freeWord s.draws (.masterGap 0)).toNat % (s.masterOps.length + 1)
  | m + 1 =>
    let n := s.passedAt m
    n + (Config.freeWord s.draws (.masterGap (m + 1))).toNat % (s.gap m n + 1)

/-- How many other masters' operations have been made at a bus time. -/
def State.passed (s : State) (m : Nat) : Nat := if s.masterOps.isEmpty then 0 else s.passedAt m

/-- The last byte that a list of bus operations stores at a location. -/
def State.lastStored (s : State) (k : Nat) (ops : List MasterOp) : Option Byte :=
  (((ops.flatMap MasterOp.cells).filter fun c => s.physAddr c.1 == k).map fun c => c.2).getLast?

/-- The first of other masters' operations that comes after what the processor knows of a location: its
own last store to it, or the start of the step. -/
def State.knownAt (s : State) (k : Nat) : Nat :=
  match s.stores.find? fun x => x.cells.any fun c => s.physAddr c.1 == k with
  | some x => s.passed x.since
  | none => s.passed 0

/-- The byte a read of a location finds at a bus time: the last that the processor or another master has
stored there, or a value of its own for each read where nothing drives the data lines (R19, R118, D24,
R132). -/
def State.byteSeen (s : State) (m k : Nat) : Byte :=
  if s.platform.kindAt k = .undriven then loByte (Config.freeWord s.draws (.undriven k m))
  else if s.masterOps.isEmpty || !s.ramAt k then s.byteAt k
  else (s.lastStored k ((s.masterOps.take (s.passed (s.seen m))).drop (s.knownAt k))).getD (s.byteAt k)

/-- PhysRead(a, 1) (R15), as the i-th read after the last store. -/
def State.busByte (s : State) (i : Nat) (a : Addr) : Byte := s.byteSeen (s.time i) (s.physAddr a)

/-- PhysRead(a, 2), little endian (R15, R120): at an odd address two bus operations, the low byte first
(R123), at an even one a single operation (R125). -/
def State.busWord (s : State) (i : Nat) (a : Addr) : Word :=
  mkWord (s.byteSeen (s.time i) (s.physAddr a))
    (s.byteSeen (s.time i + if a.getLsbD 0 then 1 else 0) (s.physAddr (a + 1)))

/-- A word read within a locked sequence: nothing comes between its halves, nor between it and the other
reads of that time (R128, R129). -/
def State.lockedWord (s : State) (i : Nat) (a : Addr) : Word :=
  mkWord (s.busByte i a) (s.busByte i (a + 1))

/-- The locations of n bytes from an address on answer (R708). -/
def State.answersAt (s : State) (a : Addr) (n : Nat) : Bool :=
  (List.range n).all fun j => s.platform.kindAt (s.physAddr (a + BitVec.ofNat 24 j)) != .silent

/-- A read of n bytes waits for ever where a location of them never answers (R708, D24). -/
def State.await (s : State) (a : Addr) (n : Nat) : Exec Unit :=
  if s.answersAt a n then .ok () else .error (.stuck s)

/-- PhysWrite(a, 1, v) (R15). -/
def State.writeByte (s : State) (a : Addr) (v : Byte) : State :=
  { s with
    mem := s.memAfter (s.physAddr a) v
    stale := s.staleAfter (s.physAddr a) v
    stores := s.recorded [[(a, v)]] }

/-- The record of the step's stores replaced. -/
def State.setStores (s : State) (l : List Store) : State := { s with stores := l }

/-- PhysWrite(a, 2, v): the low byte first (R15, R120, R123), at an even address in one bus operation
(R125). -/
def State.writeWord (s : State) (a : Addr) (v : Word) : State :=
  ((s.writeByte a (loByte v)).writeByte (a + 1) (hiByte v)).setStores
    (s.recorded (storeOps a .word v))

/-- s, its stores since t marked as made in one locked sequence with the read, at a bus time, of what
they replace: XCHG, and the accessed and busy bits of descriptors (R129). -/
def State.lockedSince (s t : State) (time : Nat) : State :=
  s.setStores
    ((s.stores.take (s.stores.length - t.stores.length)).map (fun x => { x with since := time }) ++
      t.stores)

/-- Words stored at rising addresses. -/
def State.writeWords : List Word → State → Addr → State
  | [], s, _ => s
  | v :: vs, s, a => State.writeWords vs (s.writeWord a v) (a + 2)

/-! ## Segment registers and the check of every reference (R107, R210) -/

/-- A segment register. -/
def State.seg (s : State) : SReg → SegReg
  | .es => s.es
  | .cs => s.cs
  | .ss => s.ss
  | .ds => s.ds

/-- A segment register written with its cache. -/
def State.setSeg (s : State) (r : SReg) (v : SegReg) : State :=
  match r with
  | .es => { s with es := v }
  | .cs => { s with cs := v }
  | .ss => { s with ss := v }
  | .ds => { s with ds := v }

/-- P of an access rights byte (R156). -/
def arPresent (b : Byte) : Bool := b.getLsbD 7

/-- DPL of an access rights byte. -/
def arDpl (b : Byte) : BitVec 2 := b.extractLsb' 5 2

/-- S: a code or data segment. -/
def arSegment (b : Byte) : Bool := b.getLsbD 4

/-- E: executable, for S = 1. -/
def arExec (b : Byte) : Bool := b.getLsbD 3

/-- ED of a data segment, C of a code segment. -/
def arDirConf (b : Byte) : Bool := b.getLsbD 2

/-- W of a data segment, R of a code segment. -/
def arRw (b : Byte) : Bool := b.getLsbD 1

/-- A, accessed. -/
def arAccessed (b : Byte) : Bool := b.getLsbD 0

/-- The type field of a system or gate descriptor (R157): none for S = 1. -/
def arSystemType (b : Byte) : Option Nat := if arSegment b then none else some (b.toNat % 16)

/-- A code segment. -/
def arCode (b : Byte) : Bool := arSegment b && arExec b

/-- A writable data segment (R192). -/
def arWritable (b : Byte) : Bool := arSegment b && !arExec b && arRw b

/-- A reference to memory. -/
inductive Access where
  | read
  | write
deriving DecidableEq, Repr

/-- The protected-mode check of R210 and R211 on an n-byte operand: it fails through a null
selector, against the rights, or outside the limit, with no wrap inside the operand (R213). -/
def SegReg.permits (r : SegReg) (a : Access) (off : Word) (n : Nat) : Bool :=
  r.valid &&
  (match a with
    | .write => !arExec r.ar && arRw r.ar
    | .read => !arExec r.ar || arRw r.ar) &&
  (if arExec r.ar || !arDirConf r.ar then decide (off.toNat + n ≤ r.limit.toNat + 1)
    else decide (r.limit.toNat < off.toNat) && decide (off.toNat + n ≤ 0x10000))

/-- An n-byte operand (n is 1 or 2) may be accessed: R107 in real address mode, R210 in protected
mode. -/
def State.accessOk (s : State) (a : Access) (r : SReg) (off : Word) (n : Nat) : Bool :=
  if s.msw.pe then (s.seg r).permits a off n else !(n == 2 && off == 0xFFFF#16)

/-- The vector of a failed reference: 12 through SS in protected mode, else 13 (R212). -/
def State.refVector (s : State) (r : SReg) : Nat :=
  if s.msw.pe && r == .ss then 12 else 13

/-- The check of a reference, raised (R107, R210). -/
def State.check (s : State) (a : Access) (r : SReg) (off : Word) (n : Nat) : Exec Unit :=
  require (s.accessOk a r off n) (s.refVector r) 0#16

/-- An operand of k words may be accessed: as a whole in protected mode (R213), each word with its
offset modulo 2^16 in real address mode (R108, D32). -/
def State.wordsOk (s : State) (a : Access) (r : SReg) (off : Word) (k : Nat) : Bool :=
  if s.msw.pe then (s.seg r).permits a off (2 * k)
  else (List.range k).all fun i => s.accessOk a r (off + BitVec.ofNat 16 (2 * i)) 2

/-- That check, raised. -/
def State.checkWords (s : State) (a : Access) (r : SReg) (off : Word) (k : Nat) : Exec Unit :=
  require (s.wordsOk a r off k) (s.refVector r) 0#16

/-- The value a read at seg:off finds, the checks apart. -/
def State.load (s : State) (r : SReg) (off : Word) (w : Width) (i : Nat := 0) : Word :=
  match w with
  | .byte => zext16 (s.busByte i (linear (s.seg r).base off))
  | .word => s.busWord i (linear (s.seg r).base off)

/-- The value at seg:off read, its limit checked before. -/
def State.fetchAt (s : State) (r : SReg) (off : Word) (w : Width) (i : Nat := 0) : Exec Word := do
  s.await (linear (s.seg r).base off) w.bytes
  .ok (s.load r off w i)

/-- The state after a store at seg:off, the check apart. -/
def State.store (s : State) (r : SReg) (off : Word) (w : Width) (v : Word) : State :=
  match w with
  | .byte => s.writeByte (linear (s.seg r).base off) (loByte v)
  | .word => s.writeWord (linear (s.seg r).base off) v

/-- MemRead(seg, off, n) (R15). -/
def State.memRead (s : State) (r : SReg) (off : Word) (w : Width) (i : Nat := 0) : Exec Word := do
  s.check .read r off w.bytes
  s.fetchAt r off w i

/-- MemWrite(seg, off, n, v) (R15). -/
def State.memWrite (s : State) (r : SReg) (off : Word) (w : Width) (v : Word) : Exec State := do
  s.check .write r off w.bytes
  .ok (s.store r off w v)

/-- A pointer operand: its offset and its selector (R23, R121). -/
def State.readPointer (s : State) (r : SReg) (off : Word) : Exec (Word × Word) := do
  s.checkWords .read r off 2
  let lo ← s.fetchAt r off .word 0
  let hi ← s.fetchAt r (off + 2) .word 1
  .ok (lo, hi)

/-! ## The stack (R16, R372) -/

/-- A word written below SP, SP moved to it, the checks apart. -/
def State.pushRaw (s : State) (v : Word) : State :=
  (s.writeWord (linear s.ss.base (s.regs.sp - 2)) v).setSp (s.regs.sp - 2)

/-- Words pushed in order, the checks apart. -/
def State.pushAllRaw (s : State) : List Word → State
  | [] => s
  | v :: vs => (s.pushRaw v).pushAllRaw vs

/-- A word may be pushed in protected mode: it lies within the limit (R210), and SP does not wrap
from 0000h or 0001h, which is a limit violation whatever the limit (R372, R212). -/
def SegReg.pushAdmitted (r : SegReg) (sp : Word) : Bool :=
  decide (2 ≤ sp.toNat) && r.permits .write (sp - 2) 2

/-- Push16(v) (R16): in protected mode exception 12 outside the limit or where SP would wrap (R210,
R372); in real address mode SP = 0001h shuts the processor down and SP = 0000h wraps (R372, D25). -/
def State.push (s : State) (v : Word) : Exec State :=
  if s.msw.pe then
    if s.ss.pushAdmitted s.regs.sp then .ok (s.pushRaw v) else raise 12 0#16
  else if s.regs.sp = 1#16 then .error (.shutdown s)
  else .ok (s.pushRaw v)

/-- Several words pushed one after the other, the first failure ending it. -/
def State.pushAll (s : State) : List Word → Exec State
  | [] => .ok s
  | v :: vs => do
    let s ← s.push v
    s.pushAll vs

/-- A segment has room for n words below sp (R231, R236, R645): each may be pushed, so that the frame
does not wrap below offset 0000h even where the limit is FFFFh. DESIGN CHOICE: the spec says "room"
and leaves the wrap open, which is settled as R372 settles a push; notes/assumptions/13.md. -/
def SegReg.room (r : SegReg) (sp : Word) (n : Nat) : Bool :=
  decide (2 * n ≤ sp.toNat) &&
    (List.range n).all fun i => r.permits .write (sp - BitVec.ofNat 16 (2 * (i + 1))) 2

/-- A word may be popped at sp: it may be read, and in protected mode SP does not wrap past FFFEh,
which is a limit violation whatever the limit (R372, R212). -/
def State.popAdmitted (s : State) (sp : Word) : Bool :=
  s.accessOk .read .ss sp 2 && !(s.msw.pe && sp == 0xFFFE#16)

/-- The word a pop at sp takes (R16): exception 12 in protected mode, 13 in real address mode. -/
def State.popWord (s : State) (sp : Word) : Exec Word := do
  require (s.popAdmitted sp) (s.refVector .ss) 0#16
  s.fetchAt .ss sp .word

/-- The word at the top of the stack (R16). -/
def State.stackTop (s : State) : Exec Word := s.popWord s.regs.sp

/-! ## Near transfers (R480, R233) -/

/-- What was prefetched is discarded (R134), after every bus operation made so far. -/
def State.flushQueue (s : State) : State := { s with stale := [], flushed := some (s.time 63) }

/-- IP set by a control transfer: what was prefetched is discarded (R17, R134). -/
def State.jump (s : State) (target : Word) : State :=
  { s.flushQueue with ip := target, ipCarry := false }

/-- Comment 18: a near target within CS.limit in protected mode (R233). -/
def State.targetOk (s : State) (target : Word) : Bool :=
  !s.msw.pe || decide (target.toNat ≤ s.cs.limit.toNat)

/-- NearTarget(t) (R480). -/
def State.nearJump (s : State) (target : Word) : Exec State := do
  require (s.targetOk target) 13 0#16
  .ok (s.jump target)

/-- RealFar(seg, off) (R481). -/
def State.realFar (s : State) (sel off : Word) : State :=
  ({ s with cs := realSeg sel (sel.setWidth 24 <<< 4) } : State).jump off

/-- A segment register loaded in real address mode (R48). -/
def State.loadReal (s : State) (r : SReg) (sel : Word) : State :=
  s.setSeg r (realSeg sel (sel.setWidth 24 <<< 4))

/-! ## Selectors and descriptors (R150 to R160) -/

/-- A null selector: index 0 of the GDT (R152). -/
def isNull (sel : Word) : Bool := sel &&& 0xFFFC#16 == 0#16

/-- sel[1:0] (R150). -/
def rpl (sel : Word) : BitVec 2 := sel.extractLsb' 0 2

/-- A selector with its low two bits replaced. -/
def withRpl (sel : Word) (p : BitVec 2) : Word := (sel &&& 0xFFFC#16) ||| p.setWidth 16

/-- The selector form of the error code (R646). -/
def selCode (sel ext : Word) : Word := (sel &&& 0xFFFC#16) ||| ext

/-- Eight bytes of a descriptor table, the reserved last word left out (R154, R155). -/
structure Desc where
  w0 : Word
  w1 : Word
  w2 : Word
  /-- the bus time it was read at (R129) -/
  time : Nat
deriving DecidableEq, Repr

/-- The segment limit (R154). -/
def Desc.limit (d : Desc) : Word := d.w0

/-- The segment base (R154). -/
def Desc.base (d : Desc) : Addr := loByte d.w2 ++ d.w1

/-- The access rights byte (R156). -/
def Desc.ar (d : Desc) : Byte := hiByte d.w2

/-- A gate's destination offset (R155). -/
def Desc.gateOffset (d : Desc) : Word := d.w0

/-- A gate's destination selector (R155). -/
def Desc.gateSelector (d : Desc) : Word := d.w1

/-- A call gate's word count (R155): bits 7:5 are "don't care". -/
def Desc.gateCount (d : Desc) : Nat := d.w2.toNat % 32

/-- The descriptor memory holds at a physical address. -/
def State.readDesc (s : State) (a : Addr) : Desc :=
  { w0 := s.readWord a, w1 := s.readWord (a + 2), w2 := s.readWord (a + 4), time := 0 }

/-- The descriptor a read of a physical address finds: its bus operations are locked (R129, R153). -/
def State.busDesc (s : State) (i : Nat) (a : Addr) : Desc :=
  { w0 := s.lockedWord i a, w1 := s.lockedWord i (a + 2), w2 := s.lockedWord i (a + 4)
    time := s.seen (s.time i) }

/-- The descriptor at a physical address read, as the i-th read. -/
def State.fetchDesc (s : State) (i : Nat) (a : Addr) : Exec Desc := do
  s.await a 6
  .ok (s.busDesc i a)

/-- The locked sequence that the read of a descriptor began, up to the store of its accessed or busy bit
(R129). -/
def State.hold (s : State) (d : Desc) : State :=
  { s with clock := { s.clock with held := some d.time } }

/-- The same where the accessed bit is to be stored. DESIGN CHOICE: what is read before that store is
locked also where a later test raises an exception and it is not made; notes/assumptions/31.md. -/
def State.holdAccessed (s : State) (d : Desc) : State := if arAccessed d.ar then s else s.hold d

/-- s with the bus as free as it is in t. -/
def State.release (s t : State) : State := { s with clock := t.clock }

/-- A selector's index times 8. -/
def selOffset (sel : Word) : Word := sel &&& 0xFFF8#16

/-- A selector's place in the GDT, none outside its limit (R151). -/
def State.gdtAddr (s : State) (sel : Word) : Option Addr :=
  if (selOffset sel).toNat + 7 ≤ s.gdtr.limit.toNat then some (linear s.gdtr.base (selOffset sel))
  else none

/-- A selector's place in the LDT, none outside its limit or with LDTR unusable (R151). -/
def State.ldtAddr (s : State) (sel : Word) : Option Addr :=
  if s.ldtr.usable && decide ((selOffset sel).toNat + 7 ≤ s.ldtr.limit.toNat) then
    some (linear s.ldtr.base (selOffset sel))
  else none

/-- DescAddr(sel) (R151): none where it raises. -/
def State.descAddr (s : State) (sel : Word) : Option Addr :=
  if sel.getLsbD 2 then s.ldtAddr sel else s.gdtAddr sel

/-- The descriptor of a selector with its address, the i-th read, or `raise v(code)`. -/
def State.descriptor (s : State) (i : Nat) (sel : Word) (v : Nat) (code : Word) :
    Exec (Addr × Desc) :=
  match s.descAddr sel with
  | some a => do
    let d ← s.fetchDesc i a
    .ok (a, d)
  | none => raise v code

/-- The accessed bit of a descriptor set in memory (R160); it is written only where it was 0, one
of the two ways D35 admits. -/
def State.setAccessed (s : State) (a : Addr) (d : Desc) : State :=
  if arAccessed d.ar then s else (s.writeByte (a + 5) (d.ar ||| 1#8)).lockedSince s d.time

/-- The cache a descriptor loads (R191). -/
def SegReg.ofDesc (sel : Word) (d : Desc) : SegReg :=
  { sel := sel, base := d.base, limit := d.limit, ar := d.ar ||| 1#8, valid := true }

/-- A null selector loaded into DS or ES (R196). -/
def SegReg.loadNull (r : SegReg) (sel : Word) : SegReg := { r with sel := sel, valid := false }

/-- The larger of two privilege levels: EPL of R188. -/
def maxPl (a b : BitVec 2) : BitVec 2 := if a ≤ b then b else a

/-! ## Loading a segment register (R190 to R200) -/

/-- The tests of R191 for DS and ES at privilege cpl, with `bad` for 13 where a task switch raises
10 (R249): none for a null selector. -/
def State.dataDesc (s : State) (i : Nat) (cpl : BitVec 2) (sel : Word) (bad : Nat) (ext : Word) :
    Exec (Option (Addr × Desc)) :=
  if isNull sel then .ok none
  else do
    let d ← s.descriptor i sel bad (selCode sel ext)
    require (arSegment d.2.ar) bad (selCode sel ext)
    require (!arExec d.2.ar || arRw d.2.ar) bad (selCode sel ext)
    require ((arExec d.2.ar && arDirConf d.2.ar) || decide (maxPl cpl (rpl sel) ≤ arDpl d.2.ar))
      bad (selCode sel ext)
    require (arPresent d.2.ar) 11 (selCode sel ext)
    .ok (some d)

/-- The tests of R192 for SS at privilege cpl, with `bad` for 13 where R236 and R249 raise 10. -/
def State.stackDesc (s : State) (i : Nat) (cpl : BitVec 2) (sel : Word) (bad : Nat) (ext : Word) :
    Exec (Addr × Desc) := do
  require (!isNull sel) bad ext
  let d ← s.descriptor i sel bad (selCode sel ext)
  require (rpl sel == cpl) bad (selCode sel ext)
  require (arWritable d.2.ar) bad (selCode sel ext)
  require (arDpl d.2.ar == cpl) bad (selCode sel ext)
  require (arPresent d.2.ar) 12 (selCode sel ext)
  .ok d

/-- A segment register loaded from what `dataDesc` answered. -/
def State.putData (s : State) (r : SReg) (sel : Word) (d : Option (Addr × Desc)) : State :=
  match d with
  | none => s.setSeg r ((s.seg r).loadNull sel)
  | some d => (s.setAccessed d.1 d.2).setSeg r (SegReg.ofDesc sel d.2)

/-- SS loaded from what `stackDesc` answered. -/
def State.putStack (s : State) (sel : Word) (d : Addr × Desc) : State :=
  { s.setAccessed d.1 d.2 with ss := SegReg.ofDesc sel d.2 }

/-- A load of DS, ES or SS by MOV, POP, LDS or LES (R346): R48 in real address mode, R191 or R192
in protected mode, the descriptor read after at most two words. -/
def State.loadSeg (s : State) (r : SReg) (sel : Word) : Exec State :=
  if s.msw.pe then
    match r with
    | .ss => do
      let d ← s.stackDesc 2 s.cpl sel 13 0#16
      .ok (s.putStack sel d)
    | r => do
      let d ← s.dataDesc 2 s.cpl sel 13 0#16
      .ok (s.putData r sel d)
  else .ok (s.loadReal r sel)

/-- CS loaded with its cache, the privilege level becoming the selector's (R186). -/
def State.loadCs (s : State) (sel : Word) (d : Addr × Desc) : State :=
  { s.setAccessed d.1 d.2 with cs := SegReg.ofDesc sel d.2, cpl := rpl sel }

/-! ## Privilege (R214, R215) -/

/-- Table 13, first row: exception 13 if CPL != 0 (R214). In real address mode CPL is 0 (R226). -/
def State.checkCpl0 (s : State) : Exec Unit := require (!s.msw.pe || s.cpl == 0#2) 13 0#16

/-- Table 13, second row: exception 13 if CPL > IOPL (R215). -/
def State.checkIopl (s : State) : Exec Unit :=
  require (!s.msw.pe || decide (s.cpl ≤ s.flags.iopl)) 13 0#16

/-- Comment 1: exception 6 in real address mode (R590). -/
def State.checkProt (s : State) : Exec Unit := require s.msw.pe 6 0#16

/-! ## I/O (R110, R112) -/

/-- A bus operation that leaves the machine. -/
def State.emit (s : State) (e : Event) : State := { s with out := e :: s.out }

/-- What the device at a port answers: a free value (R112, D20). -/
def State.ioAnswer (s : State) (port : Nat) (w : Width) : Word :=
  maskTo w (Config.freeWord s.draws (.ioData port))

/-- The port of the second byte of a word: the next one, A23 to A16 being low in an I/O transfer (R110,
R712). DEDUCED: that of a word at port FFFFh is 0000h, of the two ports that R361 leaves open;
notes/assumptions/20.md. -/
def nextPort (port : Word) : Nat := (port + 1).toNat

/-- One bus operation that reads a port. -/
def State.portRead (s : State) (port : Nat) (w : Width) : Word × State :=
  (s.ioAnswer port w, s.emit (.ioRead port w (s.ioAnswer port w)))

/-- A bus operation at a port is answered: each of its bytes is at a port that gives READY (R708). -/
def State.portReady (s : State) (port : Nat) (w : Width) : Bool :=
  s.platform.silentPorts.all fun p => p != port && (w == .byte || p != port + 1)

/-- A bus operation at a port that never gives READY waits for ever (R708, D24). -/
def State.awaitPort (s : State) (port : Nat) (w : Width) : Exec Unit :=
  if s.portReady port w then .ok () else .error (.stuck s)

/-- The bus operations of an access to a port are answered. -/
def State.portAnswers (s : State) (port : Word) (w : Width) : Bool :=
  if w = .word ∧ port.getLsbD 0 = true then
    s.portReady port.toNat .byte && s.portReady (nextPort port) .byte
  else s.portReady port.toNat w

/-- IoRead(port, n) (R112), every operation answered: a word at an odd port is two byte operations, the
low byte first (R123, R707). -/
def State.ioRead (s : State) (port : Word) (w : Width) : Word × State :=
  if w = .word ∧ port.getLsbD 0 = true then
    let lo := s.portRead port.toNat .byte
    let hi := lo.2.portRead (nextPort port) .byte
    (mkWord (loByte lo.1) (loByte hi.1), hi.2)
  else s.portRead port.toNat w

/-- IoWrite(port, n, v) (R112), every operation answered: a word at an odd port is two byte operations,
the low byte first (R123, R707). -/
def State.ioWrite (s : State) (port : Word) (w : Width) (v : Word) : State :=
  if w = .word ∧ port.getLsbD 0 = true then
    (s.emit (.ioWrite port.toNat .byte (zext16 (loByte v)))).emit
      (.ioWrite (nextPort port) .byte (zext16 (hiByte v)))
  else s.emit (.ioWrite port.toNat w v)

/-- A port read, each of its bus operations waited for. -/
def State.readPort (s : State) (port : Word) (w : Width) : Exec (Word × State) :=
  if w = .word ∧ port.getLsbD 0 = true then do
    s.awaitPort port.toNat .byte
    (s.portRead port.toNat .byte).2.awaitPort (nextPort port) .byte
    .ok (s.ioRead port w)
  else do
    s.awaitPort port.toNat w
    .ok (s.ioRead port w)

/-- A port written, each of its bus operations waited for. -/
def State.writePort (s : State) (port : Word) (w : Width) (v : Word) : Exec State :=
  if w = .word ∧ port.getLsbD 0 = true then do
    s.awaitPort port.toNat .byte
    (s.emit (.ioWrite port.toNat .byte (zext16 (loByte v)))).awaitPort (nextPort port) .byte
    .ok (s.ioWrite port w v)
  else do
    s.awaitPort port.toNat w
    .ok (s.ioWrite port w v)

/-! ## Task switch (R245 to R258) -/

/-- What invoked a task switch (R248). -/
inductive SwitchKind where
  | jmp
  | call
  | int
  | iret
deriving DecidableEq, Repr

/-- The words of the dynamic part of a task state segment, offsets 14 to 41, in order (R245). -/
def State.taskImage (s : State) (retIp : Word) (flags : Flags) : List Word :=
  [retIp, flags.toWord, s.regs.ax, s.regs.cx, s.regs.dx, s.regs.bx, s.regs.sp, s.regs.bp,
    s.regs.si, s.regs.di, s.es.sel, s.cs.sel, s.ss.sel, s.ds.sel]

/-- What a read of a word of a task state segment finds: physical, through its base (R253), the words
in the order of their offsets. -/
def State.tssWord (s : State) (base : Addr) (off : Nat) : Word :=
  s.busWord (4 + off / 2) (base + BitVec.ofNat 24 off)

/-- The general registers of a task state segment (R245). -/
def State.tssRegs (s : State) (b : Addr) : Regs :=
  { ax := s.tssWord b 18, cx := s.tssWord b 20, dx := s.tssWord b 22, bx := s.tssWord b 24,
    sp := s.tssWord b 26, bp := s.tssWord b 28, si := s.tssWord b 30, di := s.tssWord b 32 }

/-- The outgoing task saved, with NT cleared if the switch is an IRET (R249 step 1). -/
def State.saveTask (s : State) (kind : SwitchKind) (retIp : Word) : State :=
  s.writeWords (s.taskImage retIp (if kind = .iret then { s.flags with nt := false } else s.flags))
    (s.tr.base + 14)

/-- Where the busy bit of the current task is. -/
def State.busyAddr (s : State) : Addr := linear s.gdtr.base (selOffset s.tr.sel) + 5

/-- The read of that byte, for JMP and IRET, is answered (R708). -/
def State.awaitBusy (s : State) (kind : SwitchKind) : Exec Unit :=
  if kind = .jmp ∨ kind = .iret then s.await s.busyAddr 1 else .ok ()

/-- The old task state segment made available by JMP and IRET (R249 step 2): type 3 to 1, in a locked
sequence. -/
def State.clearBusy (s : State) (kind : SwitchKind) : State :=
  if kind = .jmp ∨ kind = .iret then
    (s.writeByte s.busyAddr (s.busByte 0 s.busyAddr &&& 0xFD#8)).lockedSince s (s.seen (s.time 0))
  else s

/-- The new task state segment made busy, but for IRET (R249 step 3): type 1 to 3. -/
def State.markBusy (s : State) (kind : SwitchKind) (a : Addr) (d : Desc) : State :=
  if kind = .iret then s else (s.writeByte (a + 5) (d.ar ||| 2#8)).lockedSince s d.time

/-- The back link of the new task, for CALL and INT (R249 step 6). -/
def State.linkBack (s : State) (kind : SwitchKind) (base : Addr) (oldTr : Word) : State :=
  if kind = .call ∨ kind = .int then
    ({ s with flags := { s.flags with nt := true } } : State).writeWord base oldTr
  else s

/-- Steps 4 to 8 of R249: TR, the registers, FLAGS, the back link, MSW.TS, the raw selectors with
their caches not valid, and CPL. -/
def State.enterTask (s : State) (kind : SwitchKind) (tsel : Word) (t : Desc) : State :=
  let b := t.base
  let es := s.tssWord b 34
  let cs := s.tssWord b 36
  let ss := s.tssWord b 38
  let ds := s.tssWord b 40
  let ldt := s.tssWord b 42
  let r : State :=
    { s with
      tr := { sel := tsel, base := b, limit := t.limit, loaded := true }
      regs := s.tssRegs b
      flags := Flags.ofWord (s.tssWord b 16) }
  let r := (r.jump (s.tssWord b 14)).linkBack kind b s.tr.sel
  { r.flushQueue with
    msw := { r.msw with ts := true }
    es := { r.es with sel := es, valid := false }
    cs := { r.cs with sel := cs, valid := false }
    ss := { r.ss with sel := ss, valid := false }
    ds := { r.ds with sel := ds, valid := false }
    ldtr := { r.ldtr with sel := ldt, usable := false }
    cpl := rpl cs }

/-- LDTR of the new task (R249 step 9). -/
def State.taskLdt (s : State) (ext : Word) : Exec State :=
  let sel := s.ldtr.sel
  if isNull sel then .ok s
  else do
    require (!sel.getLsbD 2) 10 (selCode sel ext)
    let d ← s.descriptor 26 sel 10 (selCode sel ext)
    require (arSystemType d.2.ar == some 2) 10 (selCode sel ext)
    require (arPresent d.2.ar) 10 (selCode sel ext)
    .ok { s with ldtr := { sel := sel, base := d.2.base, limit := d.2.limit, usable := true } }

/-- CS of the new task (R249 step 9). -/
def State.taskCs (s : State) (ext : Word) : Exec State := do
  let sel := s.cs.sel
  require (!isNull sel) 10 (selCode sel ext)
  let d ← s.descriptor 27 sel 10 (selCode sel ext)
  require (arCode d.2.ar) 10 (selCode sel ext)
  require (if arDirConf d.2.ar then decide (arDpl d.2.ar ≤ rpl sel) else arDpl d.2.ar == rpl sel)
    10 (selCode sel ext)
  require (arPresent d.2.ar) 11 (selCode sel ext)
  .ok (s.loadCs sel d)

/-- SS of the new task (R249 step 9). -/
def State.taskSs (s : State) (ext : Word) : Exec State := do
  let d ← s.stackDesc 28 s.cpl s.ss.sel 10 ext
  .ok (s.putStack s.ss.sel d)

/-- DS or ES of the new task (R249 step 9), the i-th read. -/
def State.taskData (s : State) (i : Nat) (r : SReg) (ext : Word) : Exec State := do
  let d ← s.dataDesc i s.cpl (s.seg r).sel 10 ext
  .ok (s.putData r (s.seg r).sel d)

/-- Steps 9 and 10 of R249, each failure in the context of the new task. -/
def State.validateTask (s : State) (ext : Word) : Exec State := do
  let s ← inTask s (s.taskLdt ext)
  let s ← inTask s (s.taskCs ext)
  let s ← inTask s (s.taskSs ext)
  let s ← inTask s (s.taskData 29 .ds ext)
  let s ← inTask s (s.taskData 30 .es ext)
  inTask s (require (decide (s.ip.toNat ≤ s.cs.limit.toNat)) 13 ext)
  .ok s

/-- A selector with TI = 1 names a task state segment: the LDT holds a descriptor of one there. -/
def State.namesLocalTss (s : State) (sel : Word) : Exec Bool :=
  match if sel.getLsbD 2 then s.ldtAddr sel else none with
  | some a => do
    let d ← s.fetchDesc 3 a
    .ok (arSystemType d.ar == some 1 || arSystemType d.ar == some 3)
  | none => .ok false

/-- The exception that a task selector with TI = 1 is: that of every selector which names no task state
segment of the GDT, `bad`, so 13 in a JMP or CALL and 10 in an IRET (R248, R253, R255). A task gate whose
selector names a task state segment in the LDT is 10 (R253), and another with TI = 1 is 13 (R246). DESIGN
CHOICE: R171 says 13 for a task state segment in the LDT in every operation, and R246 for every such gate;
R253, which gives its number operation by operation, is followed; notes/assumptions/16.md. -/
def State.localTaskVector (s : State) (tsel : Word) (gate : Bool) (bad : Nat) : Exec Nat :=
  if gate then do
    let inLdt ← s.namesLocalTss tsel
    .ok (if inLdt then 10 else bad)
  else .ok bad

/-- The tests of R248 on the selector of the new task, `gate` where a task gate named it: its
descriptor. -/
def State.taskDesc (s : State) (tsel : Word) (kind : SwitchKind) (gate : Bool) (ext : Word) :
    Exec (Addr × Desc) := do
  let bad := if kind = .iret then 10 else 13
  require (!isNull tsel) bad ext
  let wrongTable ← s.localTaskVector tsel gate bad
  require (!tsel.getLsbD 2) wrongTable (selCode tsel ext)
  let d ← s.descriptor 3 tsel bad (selCode tsel ext)
  require (arSystemType d.2.ar == some (if kind = .iret then 3 else 1)) bad (selCode tsel ext)
  require (arPresent d.2.ar) 11 (selCode tsel ext)
  require (decide (s.platform.tssLimitMin ≤ d.2.limit.toNat)) 10 (selCode tsel ext)
  .ok d

/-- A task switch made before TR was ever loaded is refused (R260); the outgoing state must fit the
old task state segment (R248). -/
def State.checkTr (s : State) (ext : Word) : Exec Unit :=
  if s.tr.loaded then require (decide (41 ≤ s.tr.limit.toNat)) 10 (selCode s.tr.sel ext)
  else .error (.refuse .taskRegisterNeverLoaded)

/-- TaskSwitch(tsel, kind) (R248, R249): retIp is the IP saved for the outgoing task. The bus is locked
from the read of the new task's descriptor to the store of its busy bit (R129). -/
def State.taskSwitch (s : State) (tsel : Word) (kind : SwitchKind) (gate : Bool) (ext : Word)
    (retIp : Word) : Exec State := do
  let d ← s.taskDesc tsel kind gate ext
  s.checkTr ext
  let t := (if kind = .iret then s else s.hold d.2).saveTask kind retIp
  t.awaitBusy kind
  let t := ((t.clearBusy kind).markBusy kind d.1 d.2).release s
  t.await (d.2.base + 14) 30
  let t ← (t.enterTask kind tsel d.2).validateTask ext
  .ok t.flushQueue

/-! ## Code segments and gates (R231 to R241) -/

/-- The stack of an inner level from the task state segment (R236): its selector, its SP and its
descriptor. -/
def State.innerStack (s : State) (level : BitVec 2) (ext : Word) :
    Exec (Word × Word × Addr × Desc) := do
  require (decide (4 * level.toNat + 5 ≤ s.tr.limit.toNat)) 10 (selCode s.tr.sel ext)
  s.await (s.tr.base + BitVec.ofNat 24 (2 + 4 * level.toNat)) 4
  let sp := s.tssWord s.tr.base (2 + 4 * level.toNat)
  let ss := s.tssWord s.tr.base (4 + 4 * level.toNat)
  let d ← s.stackDesc 12 level ss 10 ext
  .ok (ss, sp, d)

/-- SS:SP switched to an inner stack. -/
def State.switchStack (s : State) (k : Word × Word × Addr × Desc) : State :=
  (s.putStack k.1 k.2.2).setSp k.2.1

/-- The target of a gate (R234, R645 step 7): a present code segment at the same or a more
privileged level. -/
def State.gateTarget (s : State) (csel ext : Word) : Exec (Addr × Desc) := do
  require (!isNull csel) 13 ext
  let c ← s.descriptor 3 csel 13 (selCode csel ext)
  require (arCode c.2.ar) 13 (selCode csel ext)
  require (decide (arDpl c.2.ar ≤ s.cpl)) 13 (selCode csel ext)
  require (arPresent c.2.ar) 11 (selCode csel ext)
  .ok c

/-- The gate's target is non-conforming and more privileged than CPL. -/
def State.goesInward (s : State) (c : Desc) : Bool :=
  !arDirConf c.ar && decide (arDpl c.ar < s.cpl)

/-- The code branch of R231 once its privilege tests have passed: room for the return address if
it is a CALL, the offset within the limit, the pushes, CS:IP. -/
def State.enterCode (s : State) (sel off : Word) (c : Addr × Desc) (call : Bool) : Exec State := do
  require (!call || s.ss.room s.regs.sp 2) 12 0#16
  require (decide (off.toNat ≤ c.2.limit.toNat)) 13 0#16
  let h := s.holdAccessed c.2
  let t := if call then h.pushAllRaw [s.cs.sel, s.ip] else h
  .ok (((t.loadCs (withRpl sel s.cpl) c).jump off).release s)

/-- The parameter words of an inter-level call (R236), n of them from an offset on, the i-th read first.
DESIGN CHOICE: the offset of the next word is taken modulo 2^16, so that the words wrap past FFFFh to
0000h of the old stack, each checked alone: R236 leaves that open (R12, R15, R372);
notes/assumptions/13.md. -/
def State.params (s : State) (i : Nat) : Nat → Word → Exec (List Word)
  | 0, _ => .ok []
  | n + 1, off => do
    let v ← s.memRead .ss off .word i
    let vs ← s.params (i + 1) n (off + 2)
    .ok (v :: vs)

/-- An inter-level CALL through the gate g to the code segment c (R236): the accessed bits are set before
the pushes. -/
def State.innerCall (s : State) (g : Desc) (c : Addr × Desc) : Exec State := do
  let level := arDpl c.2.ar
  let h := s.holdAccessed c.2
  let k ← h.innerStack level 0#16
  require ((SegReg.ofDesc k.1 k.2.2.2).room k.2.1 (4 + g.gateCount)) 12 0#16
  require (decide (g.gateOffset.toNat ≤ c.2.limit.toNat)) 13 0#16
  let h := h.holdAccessed k.2.2.2
  let ps ← h.params 13 g.gateCount s.regs.sp
  let t := ((h.switchStack k).loadCs (withRpl g.gateSelector level) c).release s
  .ok ((t.pushAllRaw ([s.ss.sel, s.regs.sp] ++ ps.reverse ++ [s.cs.sel, s.ip])).jump g.gateOffset)

/-- A gate may be used by JMP and CALL (R234, R246): its DPL is no more privileged than CPL and the
selector's RPL, and it is present. -/
def State.checkGate (s : State) (sel : Word) (g : Desc) : Exec Unit := do
  require (decide (maxPl s.cpl (rpl sel) ≤ arDpl g.ar)) 13 (selCode sel 0#16)
  require (arPresent g.ar) 11 (selCode sel 0#16)

/-- Use of the call gate g by CALL or JMP (R234): a transfer to the same level is the code branch of
R231 on the gate's selector, its RPL test included. -/
def State.useCallGate (s : State) (sel : Word) (g : Desc) (call : Bool) : Exec State := do
  s.checkGate sel g
  let c ← s.gateTarget g.gateSelector 0#16
  if s.goesInward c.2 then
    if call then s.innerCall g c else raise 13 (selCode g.gateSelector 0#16)
  else do
    require (arDirConf c.2.ar || decide (rpl g.gateSelector ≤ s.cpl)) 13 (selCode g.gateSelector 0#16)
    s.enterCode g.gateSelector g.gateOffset c call

/-- The kind of task switch a CALL or JMP makes. -/
def switchOf (call : Bool) : SwitchKind := if call then .call else .jmp

/-- TransferToCode(sel, off, kind) (R231), `call` for CALL. -/
def State.transferToCode (s : State) (sel off : Word) (call : Bool) : Exec State := do
  require (!isNull sel) 13 0#16
  let d ← s.descriptor 2 sel 13 (selCode sel 0#16)
  let ar := d.2.ar
  if arSegment ar then do
    require (arExec ar) 13 (selCode sel 0#16)
    require (if arDirConf ar then decide (arDpl ar ≤ s.cpl)
      else decide (rpl sel ≤ s.cpl) && arDpl ar == s.cpl) 13 (selCode sel 0#16)
    require (arPresent ar) 11 (selCode sel 0#16)
    s.enterCode sel off d call
  else
    match arSystemType ar with
    | some 1 => do
      require (decide (maxPl s.cpl (rpl sel) ≤ arDpl ar)) 13 (selCode sel 0#16)
      s.taskSwitch sel (switchOf call) false 0#16 s.ip
    | some 4 => s.useCallGate sel d.2 call
    | some 5 => do
      s.checkGate sel d.2
      s.taskSwitch d.2.gateSelector (switchOf call) true 0#16 s.ip
    | _ => raise 13 (selCode sel 0#16)

/-- DS or ES nulled after a return to an outer level (R239, D37). -/
def SegReg.nullOutward (r : SegReg) (cpl : BitVec 2) : SegReg :=
  if r.valid && !(arExec r.ar && arDirConf r.ar) && decide (arDpl r.ar < cpl) then
    r.loadNull 0#16
  else r

/-- The tests of R238 on the return code segment. -/
def State.returnDesc (s : State) (sel : Word) : Exec (Addr × Desc) := do
  require (!isNull sel) 13 0#16
  let c ← s.descriptor 3 sel 13 (selCode sel 0#16)
  require (arCode c.2.ar) 13 (selCode sel 0#16)
  require (decide (s.cpl ≤ rpl sel)) 13 (selCode sel 0#16)
  require (if arDirConf c.2.ar then decide (arDpl c.2.ar ≤ rpl sel) else arDpl c.2.ar == rpl sel)
    13 (selCode sel 0#16)
  require (arPresent c.2.ar) 11 (selCode sel 0#16)
  .ok c

/-- FarReturn(adj, kind) (R238): `iret` pops FLAGS too. DESIGN CHOICE: a frame that ends at offset FFFFh
within the limit is popped, SP wrapping to 0000h, as the pseudocode of R238 tests the limit alone, where
R372 makes a pop at FFFEh exception 12; notes/assumptions/13.md. -/
def State.farReturn (s : State) (adj : Word) (iret : Bool) : Exec State := do
  let k := if iret then 6 else 4
  let sp := s.regs.sp
  require (s.ss.permits .read sp k) 12 0#16
  let newIp ← s.fetchAt .ss sp .word 0
  let newCs ← s.fetchAt .ss (sp + 2) .word 1
  let newFl ← if iret then s.fetchAt .ss (sp + 4) .word 2 else .ok 0#16
  let flags := if iret then s.flags.loadProt s.cpl newFl else s.flags
  let c ← s.returnDesc newCs
  let top := sp + BitVec.ofNat 16 k + adj
  if rpl newCs = s.cpl then do
    require (decide (newIp.toNat ≤ c.2.limit.toNat)) 13 0#16
    .ok ((((s.loadCs newCs c).setSp top).setFlags flags).jump newIp)
  else do
    require (s.ss.permits .read sp (k + adj.toNat + 4)) 12 0#16
    let h := s.holdAccessed c.2
    let outSp ← h.fetchAt .ss top .word 4
    let outSs ← h.fetchAt .ss (top + 2) .word 5
    let d ← h.stackDesc 6 (rpl newCs) outSs 13 0#16
    require (decide (newIp.toNat ≤ c.2.limit.toNat)) 13 0#16
    let t := (((h.loadCs newCs c).putStack outSs d).release s).setSp (outSp + adj)
    .ok (({ t with
      flags := flags
      ds := t.ds.nullOutward (rpl newCs)
      es := t.es.nullOutward (rpl newCs) } : State).jump newIp)

/-! ## Taking an interrupt or an exception (R620 to R661) -/

/-- What is delivered (R645). -/
inductive IntKind where
  /-- INT n, INT 3, INTO -/
  | int
  /-- INTR, the single-step trap, vectors 9 and 16 -/
  | external
  /-- NMI: IF is cleared whatever the gate (R634, D14) -/
  | nmi
  /-- an exception of an instruction -/
  | exception
deriving DecidableEq, Repr

/-- EXT of R645: 0 for an INT instruction, else 1. -/
def IntKind.ext : IntKind → Word
  | .int => 0#16
  | _ => 1#16

/-- A return address. -/
structure RetAddr where
  cs : Word
  ip : Word
deriving DecidableEq, Repr

/-- The processor enters shutdown (R670): one bus operation with A1 low. -/
def State.enterShutdown (s : State) : State :=
  { s with
    run := .shutdown, tfAtStart := false, pre := Prefixes.none, out := .shutdownCycle :: s.out }

/-- The latches after an entry: the processor runs, no prefix is pending, and no single-step trap
follows, but after a taken INT, where both are admitted (R636, D34). -/
def State.afterEntry (s : State) (kind : IntKind) (n : Nat) : State :=
  { s with
    run := .running
    pre := Prefixes.none
    tfAtStart := (kind == .int) && s.tfAtStart && Config.freeBit n .intTrap }

/-- A bus operation never ends (R708): only RESET leaves this. -/
def State.enterStuck (s : State) : State := { s with run := .stuck }

/-- The real-mode entry through table entry n (R640), whose two words are read in one locked sequence
(R129, R543). -/
def State.realEntry (s : State) (n : Byte) (kind : IntKind) (ret : RetAddr) : Exec State := do
  let a := s.idtr.base + (n.setWidth 24 <<< 2)
  s.await a 4
  let newIp := s.lockedWord 0 a
  let newCs := s.lockedWord 0 (a + 2)
  let t ← s.push s.flags.toWord
  let t := t.setFlags { t.flags with intf := false, tf := false }
  let t ← t.push ret.cs
  let t ← t.push ret.ip
  .ok ((t.realFar newCs newIp).afterEntry kind s.draws)

/-- Table entry n lies within the table limit (R640, R643). -/
def State.vectorFits (s : State) (n : Byte) : Bool := decide (4 * n.toNat + 3 ≤ s.idtr.limit.toNat)

/-- The real-mode sequence (R640): exception 8 where the entry is outside the table (R643), and
shutdown where that cannot be delivered (R671). -/
def State.realInterrupt (s : State) (n : Byte) (kind : IntKind) (ret fail : RetAddr) : Exec State :=
  if s.vectorFits n then s.realEntry n kind ret
  else if n = 8#8 ∨ n = 13#8 ∨ !s.vectorFits 8#8 then .error (.shutdown s)
  else s.realEntry 8#8 .exception fail

/-- FLAGS after an entry through an interrupt or trap gate (R645 step 10, R634). -/
def gateFlags (f : Flags) (interruptGate : Bool) (kind : IntKind) : Flags :=
  { f with
    tf := false, nt := false,
    intf := if interruptGate || kind == .nmi then false else f.intf }

/-- The words an entry pushes (R645 step 8): FLAGS, CS, IP and the error code where there is one. -/
def State.entryFrame (s : State) (ret : RetAddr) (code : Option Word) : List Word :=
  [s.flags.toWord, ret.cs, ret.ip] ++ code.toList

/-- Step 10 of R645 through the gate g to the code segment c at a level, t being s with the frame
pushed. -/
def State.enterGate (s t : State) (g : Desc) (c : Addr × Desc) (level : BitVec 2) (kind : IntKind) :
    State :=
  (((t.loadCs (withRpl g.gateSelector level) c).jump g.gateOffset).setFlags
    (gateFlags s.flags (arSystemType g.ar == some 6) kind)).afterEntry kind s.draws

/-- Steps 7 to 10 of R645: an interrupt or trap gate. Where the offset is beyond the target's limit,
an entry to an inner level has changed nothing, and at the same level the words already pushed stay
in memory (R650 (f)). -/
def State.gateEntry (s : State) (g : Desc) (kind : IntKind) (ret : RetAddr) (code : Option Word) :
    Exec State := do
  let c ← s.gateTarget g.gateSelector kind.ext
  let frame := s.entryFrame ret code
  let h := s.holdAccessed c.2
  if s.goesInward c.2 then do
    let k ← h.innerStack (arDpl c.2.ar) kind.ext
    require ((SegReg.ofDesc k.1 k.2.2.2).room k.2.1 (2 + frame.length)) 12 kind.ext
    require (decide (g.gateOffset.toNat ≤ c.2.limit.toNat)) 13 kind.ext
    .ok ((s.enterGate ((h.switchStack k).pushAllRaw ([s.ss.sel, s.regs.sp] ++ frame)) g c
      (arDpl c.2.ar) kind).release s)
  else do
    require (arDirConf c.2.ar || arDpl c.2.ar == s.cpl) 13 (selCode g.gateSelector kind.ext)
    require (s.ss.room s.regs.sp frame.length) 12 kind.ext
    let t := h.pushAllRaw frame
    if g.gateOffset.toNat ≤ c.2.limit.toNat then .ok ((s.enterGate t g c s.cpl kind).release s)
    else .error (.exc 13#8 kind.ext (.partly { s with mem := t.mem, stale := t.stale, stores := t.stores }))

/-- Step 6 of R645: a task gate, and the error code pushed on the new task's stack (R257). -/
def State.taskEntry (s : State) (g : Desc) (kind : IntKind) (ret : RetAddr) (code : Option Word) :
    Exec State := do
  let t ← s.taskSwitch g.gateSelector .int true kind.ext ret.ip
  let t := if kind = .nmi then t.setFlags { t.flags with intf := false } else t
  let t ←
    match code with
    | none => .ok t
    | some c => inTask t (t.push c)
  .ok (t.flushQueue.afterEntry kind s.draws)

/-- Interrupt_prot of R645: one attempt at delivering vector n. -/
def State.protEntry (s : State) (n : Byte) (kind : IntKind) (ret : RetAddr) (code : Option Word) :
    Exec State := do
  let idtCode : Word := (n.setWidth 16 <<< 3) ||| 2#16 ||| kind.ext
  require (decide (8 * n.toNat + 7 ≤ s.idtr.limit.toNat)) 13 idtCode
  let g ← s.fetchDesc 2 (s.idtr.base + (n.setWidth 24 <<< 3))
  require (arSystemType g.ar == some 5 || arSystemType g.ar == some 6 || arSystemType g.ar == some 7)
    13 idtCode
  require (!(kind == .int) || decide (s.cpl ≤ arDpl g.ar)) 13 idtCode
  require (arPresent g.ar) 11 idtCode
  if arSystemType g.ar = some 5 then s.taskEntry g kind ret code
  else s.gateEntry g kind ret code

/-- The classes of R660: A of a double fault. -/
def firstOfDouble (v : Byte) : Bool := v == 0#8 || v == 10#8 || v == 11#8 || v == 12#8 || v == 13#8

/-- The classes of R660: B of a double fault. -/
def secondOfDouble (v : Byte) : Bool := v == 10#8 || v == 11#8 || v == 12#8 || v == 13#8

/-- The return address of a second exception: the first one's, or the new task's CS:IP (R660,
R657). -/
def Left.retOr (l : Left) (ret : RetAddr) : RetAddr :=
  match l with
  | .inNewTask t => { cs := t.cs.sel, ip := t.ip }
  | _ => ret

/-- The bus operations of a delivery begin: they come after those made before it in the step (R132). -/
def State.entering (s : State) : State :=
  { s with clock := { s.clock with base := s.clock.base + BusClock.delivery } }

/-- Protected-mode delivery with the exceptions raised inside it (R660). Each retry delivers one of
10 to 13, then 8, then shuts down, so that five attempts are enough. -/
def State.protInterrupt : Nat → State → Byte → IntKind → RetAddr → RetAddr → Option Word →
    Exec State
  | 0, s, _, _, _, _, _ => .error (.shutdown s)
  | fuel + 1, s, n, kind, ret, fail, code =>
    match s.protEntry n kind ret code with
    | .error (.exc v c left) =>
      let t := left.stateOr s
      let r := left.retOr fail
      if kind = .exception ∧ n = 8#8 then .error (.shutdown t)
      else if kind = .exception ∧ firstOfDouble n ∧ secondOfDouble v then
        protInterrupt fuel t.entering 8#8 .exception r r (some 0#16)
      else protInterrupt fuel t.entering v .exception r r (some c)
    | r => r

/-- Interrupt(n, kind) (R17): `ret` is the saved CS:IP, `fail` the one saved where the delivery
itself fails, `code` the error code of protected mode. -/
def State.interrupt (s : State) (n : Byte) (kind : IntKind) (ret fail : RetAddr)
    (code : Option Word) : Exec State :=
  if s.msw.pe then State.protInterrupt 5 s.entering n kind ret fail code
  else s.entering.realInterrupt n kind ret fail

/-- The outcome of a delivery. -/
def deliverOutcome (s : State) (r : Exec State) : Host.Outcome State Fault Refusal :=
  match r with
  | .ok t => .next (t.release s)
  | .error (.shutdown t) => .next (t.enterShutdown.release s)
  | .error (.stuck t) => .next (t.enterStuck.release s)
  | .error (.refuse why) => .refused why
  | .error (.exc _ _ left) => .next ((left.stateOr s).enterShutdown.release s)

/-- Interrupt(n, kind) as the end of a step. -/
def State.deliver (s : State) (n : Byte) (kind : IntKind) (ret fail : RetAddr)
    (code : Option Word) : Host.Outcome State Fault Refusal :=
  deliverOutcome s (s.interrupt n kind ret fail code)

/-- The vectors that push an error code in protected mode (R623, R646). -/
def hasCode (v : Byte) : Bool := v == 8#8 || v == 10#8 || v == 11#8 || v == 12#8 || v == 13#8

/-- The CS:IP an exception of the current instruction saves (R624 (a)). -/
def State.here (s : State) : RetAddr := { cs := s.cs.sel, ip := s.curIp }

/-- TAKING AN EXCEPTION: `raise v(code)` of R17, delivered by R640 or R645 in the state R650 leaves.
s is the state at the start of the instruction. The instruction is over, and the interrupt inhibit with it
(R64). -/
def State.takeException (s : State) (v : Byte) (code : Word) (left : Left) :
    Host.Outcome State Fault Refusal :=
  let t := left.stateOr s
  let ret := left.retOr s.here
  ({ t with tfAtStart := false, intInhibit := false } : State).deliver v .exception ret ret
    (if hasCode v then some code else none)

/-- The outcome of an instruction: its next state, or the exception it raised taken. -/
def State.finish (s : State) (r : Exec State) : Host.Outcome State Fault Refusal :=
  match r with
  | .ok t => .next t
  | .error (.exc v code left) => s.takeException v code left
  | .error (.shutdown t) => .next t.enterShutdown
  | .error (.stuck t) => .next (t.enterStuck.release s)
  | .error (.refuse why) => .refused why

/-- Interrupt(n, INT) of INT n, INT 3 and INTO (R543): the saved IP is next_IP, and where the
delivery fails the saved address is the instruction itself (R624). -/
def State.softInt (s : State) (n : Byte) : Host.Outcome State Fault Refusal :=
  s.deliver n .int { cs := s.cs.sel, ip := s.ip } s.here none

/-! ## Returning from one (R546) -/

/-- IRET in real address mode (R546): three words popped, IOPL and NT kept 0. Where a later word is
exception 13, SP keeps its value, as for `State.farRet`. -/
def State.realIret (s : State) : Exec State := do
  let sp := s.regs.sp
  s.checkWords .read .ss sp 3
  let newIp ← s.fetchAt .ss sp .word 0
  let newCs ← s.fetchAt .ss (sp + 2) .word 1
  let newFl ← s.fetchAt .ss (sp + 4) .word 2
  .ok (((s.setSp (sp + 6)).setFlags (s.flags.loadReal newFl)).realFar newCs newIp)

/-- The back link of the current task (R254): refused before TR was ever loaded (R260); a task state
segment that cannot hold it is invalid (R253). -/
def State.backLink (s : State) : Exec Word :=
  if s.tr.loaded then do
    require (decide (1 ≤ s.tr.limit.toNat)) 10 (selCode s.tr.sel 0#16)
    s.await s.tr.base 2
    .ok (s.busWord 0 s.tr.base)
  else .error (.refuse .taskRegisterNeverLoaded)

/-- IRET (R546): a task switch with NT = 1 (R254), a far return else; any completed IRET ends the
service of an NMI (R547). -/
def State.interruptReturn (s : State) : Exec State := do
  let t ←
    if s.msw.pe then
      if s.flags.nt then do
        let link ← s.backLink
        s.taskSwitch link .iret false 0#16 s.ip
      else s.farReturn 0#16 true
    else s.realIret
  .ok { t with nmiInService := false }

/-- RESET (R760, R761): what reset changes takes its reset value; memory, the inputs, the system
around the processor and the operations that have left the machine stay (R74), and the counter of
free values goes on. -/
def State.applyReset (s : State) : State :=
  { State.reset with
    nmiLast := s.pins.nmi
    run := .resetActive
    mem := s.mem
    pins := s.pins
    platform := s.platform
    out := s.out
    draws := s.draws }

end Sys2Proof.Machine
end

