-- ==== Sys2Proof/Machine/Operands.lean ====
section
/-! DEFINITION. The operand forms (30_encoding.md R289 to R298, 40_data_transfer.md R340) and what
instructions of one shape share: read, compute, write. -/

namespace Sys2Proof

/-- A base form that uses BP addresses the stack segment (R292). -/
def AddrBase.defaultSeg : AddrBase → SReg
  | .bpSi | .bpDi | .bp => .ss
  | .bxSi | .bxDi | .si | .di | .bx => .ds

/-- The default segment of a memory operand (R292). -/
def Mem.defaultSeg : Mem → SReg
  | .direct _ => .ds
  | .ind b | .ind8 b _ | .ind16 b _ => b.defaultSeg

/-! ## Immediates (R285, R294) -/

/-- The value of an immediate. -/
def Imm.value : Imm → Word
  | .byte v => zext16 v
  | .word v => v

/-- The width of a group 1 immediate's operation (R285). -/
def GImm.width : GImm → Width
  | .byte _ | .byteS _ => .byte
  | .word _ | .wordS _ => .word

/-- The value of a group 1 immediate (R285). -/
def GImm.value : GImm → Word
  | .byte v | .byteS v => zext16 v
  | .word v => v
  | .wordS v => sext16 v

/-- The value of a PUSH or IMUL immediate (R285). -/
def SImm.value : SImm → Word
  | .word v => v
  | .byte v => sext16 v

end Sys2Proof

namespace Sys2Proof.Machine

/-! ## Memory operands (R290, R292) -/

/-- The sum of the base registers of a form. -/
def Regs.baseSum (r : Regs) : AddrBase → Word
  | .bxSi => r.bx + r.si
  | .bxDi => r.bx + r.di
  | .bpSi => r.bp + r.si
  | .bpDi => r.bp + r.di
  | .si => r.si
  | .di => r.di
  | .bp => r.bp
  | .bx => r.bx

/-- The effective address, modulo 2^16 (R290). -/
def State.ea (s : State) : Mem → Word
  | .direct o => o
  | .ind b => s.regs.baseSum b
  | .ind8 b d => s.regs.baseSum b + sext16 d
  | .ind16 b d => s.regs.baseSum b + d

/-- The default segment or the override (R101, R300). -/
def State.overridden (s : State) (r : SReg) : SReg := s.pre.seg.getD r

/-- The segment of a memory operand. -/
def State.memSeg (s : State) (m : Mem) : SReg := s.overridden m.defaultSeg

/-! ## The r/m operand (R340) -/

/-- A register operand can always be accessed, a memory operand by its check. -/
def State.rmOk (s : State) (a : Access) (w : Width) : RM → Bool
  | .reg _ => true
  | .mem m => s.accessOk a (s.memSeg m) (s.ea m) w.bytes

/-- The value a read of an r/m operand finds, the check apart. -/
def State.rmValue (s : State) (w : Width) : RM → Word
  | .reg n => s.getReg w n
  | .mem m => s.load (s.memSeg m) (s.ea m) w

/-- The state after v is written to an r/m operand, the check apart. -/
def State.rmPut (s : State) (w : Width) (rm : RM) (v : Word) : State :=
  match rm with
  | .reg n => s.setReg w n v
  | .mem m => s.store (s.memSeg m) (s.ea m) w v

/-- The check of an r/m operand. -/
def State.checkRM (s : State) (a : Access) (w : Width) : RM → Exec Unit
  | .reg _ => .ok ()
  | .mem m => s.check a (s.memSeg m) (s.ea m) w.bytes

/-- A memory operand answers (R708). -/
def State.rmAnswers (s : State) (w : Width) : RM → Bool
  | .reg _ => true
  | .mem m => s.answersAt (linear (s.seg (s.memSeg m)).base (s.ea m)) w.bytes

/-- The value of an r/m operand read, checked for an access before: a memory operand that never answers
is waited for (R708). -/
def State.operand (s : State) (a : Access) (w : Width) (rm : RM) : Exec Word := do
  s.checkRM a w rm
  if s.rmAnswers w rm then .ok (s.rmValue w rm) else .error (.stuck s)

/-- ReadRM() (R340). -/
def State.readRM (s : State) (w : Width) (rm : RM) : Exec Word := s.operand .read w rm

/-- WriteRM(v) (R340). -/
def State.writeRM (s : State) (w : Width) (rm : RM) (v : Word) : Exec State := do
  s.checkRM .write w rm
  .ok (s.rmPut w rm v)

/-! ## Read, compute, write -/

/-- A two-operand computation: result and flags from the destination, the source and the flags. -/
abbrev BinOp := Word → Word → Flags → Word × Flags

/-- A result written to an r/m operand, with its flags. -/
def State.rmPutFlags (s : State) (w : Width) (rm : RM) (r : Word × Flags) : State :=
  (s.rmPut w rm r.1).setFlags r.2

/-- An r/m operand replaced by a function of it: it must be writable, and the check comes before
the read (R382). -/
def State.modifyRM (s : State) (w : Width) (rm : RM) (op : Word → Flags → Word × Flags) :
    Exec State := do
  let v ← s.operand .write w rm
  .ok (s.rmPutFlags w rm (op v s.flags))

/-- `RM <- op(RM, REG)` for d = 0 and `REG <- op(REG, RM)` for d = 1 (R382). -/
def State.binRmReg (s : State) (op : BinOp) (toReg : Bool) (w : Width) (rm : RM) (reg : RegNum) :
    Exec State :=
  if toReg then do
    let b ← s.readRM w rm
    .ok (s.setRegFlags w reg (op (s.getReg w reg) b s.flags))
  else s.modifyRM w rm fun a f => op a (s.getReg w reg) f

/-- `acc <- op(acc, imm)` (R384). -/
def State.binAcc (s : State) (op : BinOp) (w : Width) (v : Word) : State :=
  s.setRegFlags w 0#3 (op (s.acc w) v s.flags)

/-- The flags of a computation whose result is discarded (R398, R443). -/
def State.flagsRM (s : State) (w : Width) (rm : RM) (op : Word → Flags → Flags) : Exec State := do
  let a ← s.readRM w rm
  .ok (s.setFlags (op a s.flags))

/-- Add(a, b, 0). -/
def addOp (w : Width) : BinOp := fun a b f => addFlags w a b false f

/-- Add(a, b, CF). -/
def adcOp (w : Width) : BinOp := fun a b f => addFlags w a b f.cf f

/-- Sub(a, b, 0). -/
def subOp (w : Width) : BinOp := fun a b f => subFlags w a b false f

/-- Sub(a, b, CF). -/
def sbbOp (w : Width) : BinOp := fun a b f => subFlags w a b f.cf f

/-- a & b with Logic (R440). -/
def andOp (w : Width) (n : Nat) : BinOp := fun a b f => (a &&& b, logicFlags w (a &&& b) f n)

/-- a | b with Logic (R446). -/
def orOp (w : Width) (n : Nat) : BinOp := fun a b f => (a ||| b, logicFlags w (a ||| b) f n)

/-- a xor b with Logic (R449). -/
def xorOp (w : Width) (n : Nat) : BinOp := fun a b f => (a ^^^ b, logicFlags w (a ^^^ b) f n)

/-- A shift or rotate of an r/m operand by a raw count (R431): with a masked count of 0 the operand
is read and nothing changes. -/
def State.shiftRM (s : State) (op : ShiftOp) (w : Width) (rm : RM) (raw : Byte) : Exec State := do
  let c := shiftCount raw
  let v ← s.operand .write w rm
  .ok (if c = 0 then s else s.rmPutFlags w rm (shiftFlags op w v c s.flags s.draws))

/-- A short jump taken on a condition (R498). -/
def State.jumpIf (s : State) (cond : Bool) (disp : Byte) : Exec State :=
  if cond then s.nearJump (s.ip + sext16 disp) else .ok s

/-- LOOP, LOOPZ and LOOPNZ (R515 to R517): CX keeps its value where the target check fails. -/
def State.loopWhile (s : State) (cond : Bool) (disp : Byte) : Exec State :=
  let cx := s.regs.cx - 1
  if cx ≠ 0 ∧ cond then do
    let t ← s.nearJump (s.ip + sext16 disp)
    .ok (t.setCx cx)
  else .ok (s.setCx cx)

/-! ## String elements (R460) -/

/-- The index step: delta added, or subtracted with DF = 1 (R460). -/
def State.stepIndex (s : State) (w : Width) (x : Word) : Word :=
  if s.flags.df then x - BitVec.ofNat 16 w.bytes else x + BitVec.ofNat 16 w.bytes

/-- SI moved to the next element. -/
def State.stepSi (s : State) (w : Width) : State :=
  { s with regs := { s.regs with si := s.stepIndex w s.regs.si } }

/-- DI moved to the next element. -/
def State.stepDi (s : State) (w : Width) : State :=
  { s with regs := { s.regs with di := s.stepIndex w s.regs.di } }

/-- The segment of the SI operand: DS or the override (R460). -/
def State.srcSeg (s : State) : SReg := s.overridden .ds

/-- One element of a possibly repeated string instruction (R468, R470): with no repeat prefix the
element alone. With one, nothing for CX = 0; else one element, CX less 1, and IP back at the first
prefix while elements remain (each element is a boundary, R471). `compares` for CMPS and SCAS, which
also stop where ZF differs from z. -/
def State.repeated (s : State) (compares : Bool) (element : State → Exec State) : Exec State :=
  match s.pre.rep with
  | none => element s
  | some z =>
    if s.regs.cx = 0 then .ok s
    else do
      let t ← element s
      let t := t.setCx (t.regs.cx - 1)
      if t.regs.cx = 0 ∨ (compares ∧ t.flags.zf ≠ z) then .ok t
      else .ok { t with ip := t.curIp, ipCarry := false }

end Sys2Proof.Machine
end

