-- ==== Sys2Proof/Machine/Fetch.lean ====
section
/-! DEFINITION. Fetching and decoding the next instruction, and what happens at an instruction
boundary (20_memory.md R133 to R138, 60_exceptions.md R630 to R637). -/

namespace Sys2Proof.Machine

/-! ## Fetch -/

/-- The values a location has held since it may have been prefetched (R135, R138). -/
def State.staleAt (s : State) (k : Nat) : List Byte :=
  (s.stale.filter fun c => c.1 == k).map fun c => c.2

/-- The value of a code byte that is executed: the byte in memory, or, where it was stored to inside
the prefetch window since the last control transfer, any of the values it has held (R138, D10). -/
def State.codeByte (s : State) (off : Word) : Byte :=
  let a := linear s.cs.base off
  let k := s.physAddr a
  let now := s.byteAt k
  match s.staleAt k with
  | [] => now
  | old =>
    let values := if s.fetchAnswers a then now :: old else old
    values.getD ((Config.freeWord s.draws (.codeByte off.toNat)).toNat % values.length) now

/-- A code byte can be fetched: its location answers, and at an even address the next one too, which the
same word code fetch reads, be it past the end of the code segment (R137, R708, R786); or it was
prefetched from where the same address led before PE was set (R60). -/
def State.codeAnswers (s : State) (off : Word) : Bool :=
  let a := linear s.cs.base off
  s.fetchAnswers a || !(s.staleAt (s.physAddr a)).isEmpty

/-- An offset lies within the code segment: up to FFFFh in real address mode (R136), up to CS.limit
in protected mode (R137). -/
def State.fetchable (s : State) (off : Nat) : Bool :=
  decide (off ≤ 0xFFFF) && (!s.msw.pe || (s.cs.valid && decide (off ≤ s.cs.limit.toNat)))

/-- Up to n code bytes from an offset on, ending where the segment ends and at a location that never
answers. -/
def State.codeFrom (s : State) : Nat → Nat → List Byte
  | 0, _ => []
  | n + 1, off =>
    if s.fetchable off && s.codeAnswers (BitVec.ofNat 16 off) then
      s.codeByte (BitVec.ofNat 16 off) :: s.codeFrom n (off + 1)
    else []

/-- The offset of the next code byte: 10000h where an instruction or a prefix ended at offset FFFFh
(R36: IP does not wrap silently). -/
def State.codeOffset (s : State) : Nat := (if s.ipCarry then 0x10000 else 0) + s.ip.toNat

/-- The bytes at CS:IP, as many as the longest instruction has. -/
def State.codeBytes (s : State) : List Byte := s.codeFrom maxLength s.codeOffset

/-- The code byte after those at CS:IP lies in the segment, at a location that never answers (R708). -/
def State.codeSilent (s : State) : Bool :=
  let off := s.codeOffset + s.codeBytes.length
  s.fetchable off && !s.codeAnswers (BitVec.ofNat 16 off)

/-- The four prefix rows of the opcode table. -/
def isPrefix : Instr → Bool
  | .rep | .repne | .lock | .seg _ => true
  | _ => false

/-- The near JMPs: EBh, E9h, FFh /4 (R780). -/
def isNearJump : Instr → Bool
  | .jmpShort _ | .jmpRel _ | .jmpRm _ => true
  | _ => false

/-- The string primitives that compare (R470). -/
def isCompareString : Instr → Bool
  | .cmps _ | .scas _ => true
  | _ => false

/-- The string primitives (R468). -/
def isString : Instr → Bool
  | .movs _ | .cmps _ | .scas _ | .lods _ | .stos _ | .ins _ | .outs _ => true
  | _ => false

/-- A repeat prefix is listed only before a string primitive, F2h only before CMPS and SCAS (R302). -/
def prefixListed (pre : Prefixes) (i : Instr) : Bool :=
  match pre.rep with
  | none => true
  | some z => isPrefix i || (isString i && (z || isCompareString i))

/-- An instruction that the model runs right after LMSW sets PE: a near JMP, or a prefix of one
(R780). -/
def hazardFree (s : State) (i : Instr) : Bool := !s.modeSwitch || isNearJump i || isPrefix i

/-- The start of an instruction, its first prefix byte included (R36, R65, R630, R637): the address an
exception saves, tf_at_start, whether INTR is high through it, and the boundary after it not begun. -/
def State.begin (s : State) : State :=
  if s.pre = Prefixes.none then
    { s with curIp := s.ip, tfAtStart := s.flags.tf, intrHeld := s.pins.intr, boundaryStep := 0 }
  else s

/-- The state in which an instruction's own effects begin: IP is next_IP (R17); the interrupt
inhibit and the mode-switch hazard end with it unless it sets them again (R64, R780). So a near JMP
after the LMSW that itself raises an exception (its target beyond CS.limit, its memory word outside
the segment) has it delivered through the IDT. DESIGN CHOICE: R780 says only that an exception there
is outside the defined sequence; notes/assumptions/18.md. -/
def State.ready (s : State) (i : Instr) (length : Nat) : State :=
  let t : State :=
    { s with
      ip := s.ip + BitVec.ofNat 16 length
      ipCarry := decide (0x10000 ≤ s.codeOffset + length) }
  if isPrefix i then t else { t with intInhibit := false, modeSwitch := false }

/-- What the bytes at CS:IP are. -/
inductive Fetched where
  /-- the instruction to run, in the state its effects begin in -/
  | run (i : Instr) (t : State)
  /-- the segment ends before the instruction does: exception 13 (R136, R137) -/
  | overrun
  /-- an encoding outside the opcode table (R330) -/
  | unlisted
  /-- an instruction other than a near JMP where only that is defined (R780) -/
  | hazard
  /-- a byte of the instruction is never given: the fetch waits for ever (R708) -/
  | silent
deriving DecidableEq, Repr

/-- Fetch and decode at CS:IP, s being the state after `begin`. DESIGN CHOICE: an instruction of which the
segment ends before a byte does is exception 13 also where it is a protected-mode instruction in real
address mode with its opcode and mod r/m byte inside the segment and its displacement past offset FFFFh,
and waits where such a displacement byte is never given: D26 and R136 give 13 for the fetch, R590 raises 6
once opcode and mod r/m byte are decoded, and R680 (1) orders neither; notes/assumptions/36.md. -/
def State.fetch (s : State) : Fetched :=
  match decode s.codeBytes with
  | .ok i rest =>
    if !hazardFree s i then .hazard
    else if prefixListed s.pre i then .run i (s.ready i (s.codeBytes.length - rest.length))
    else if s.modeSwitch then .hazard
    else .unlisted
  | .unlisted => if s.modeSwitch then .hazard else .unlisted
  | .truncated => if s.codeSilent then .silent else if s.modeSwitch then .hazard else .overrun

/-- What an encoding outside the opcode table does (R330, D7). -/
def State.unlistedOutcome (s : State) : Host.Outcome State Fault Refusal :=
  match s.platform.unlistedOpcode with
  | .refuse => .refused .unlistedEncoding
  | .fault => s.takeException 6#8 0#16 .unchanged

/-- The prefixes are used up by the instruction they precede (R300). -/
def endInstr (i : Instr) (o : Host.Outcome State Fault Refusal) : Host.Outcome State Fault Refusal :=
  match o with
  | .next t => .next (if isPrefix i then t else { t with pre := Prefixes.none })
  | o => o

/-! ## Boundaries -/

/-- A rising edge of NMI sets the request latch (R634). -/
def State.sampleNmi (s : State) : State :=
  { s with nmiPending := s.nmiPending || (s.pins.nmi && !s.nmiLast), nmiLast := s.pins.nmi }

/-- What can be taken at a boundary (R637). -/
inductive BoundaryEvent where
  | trap
  | nmi
  | overrun
  | intr
deriving DecidableEq, Repr

/-- The interrupt shadow holds at this boundary: a draw (R64, D9). -/
def State.shadowed (s : State) : Bool := s.intInhibit && Config.freeBit s.draws .inhibit

/-- INTR is taken at this boundary: always in halt, and where it was high through the whole
instruction before; else a draw (R630, D34). -/
def State.intrDue (s : State) : Bool :=
  s.run == .halted || s.intrHeld || !Config.freeBit s.draws .intrDelay

/-- The step of R637 that takes an event. -/
def BoundaryEvent.order : BoundaryEvent → Nat
  | .trap => 2
  | .nmi => 3
  | .overrun => 4
  | .intr => 5

/-- The condition of an event (R637). -/
def State.due (s : State) : BoundaryEvent → Bool
  | .trap => s.tfAtStart && !s.shadowed
  | .nmi => s.nmiPending && !s.nmiInService && !s.shadowed
  | .overrun => s.pxOverrun && !s.nmiInService
  | .intr => s.pins.intr && s.flags.intf && !s.nmiInService && !s.shadowed && s.intrDue

/-- The event a step takes at a boundary: the first of R637 that is due and comes after those already
taken at this boundary, so that each of its steps 2 to 5 runs once before the next instruction. -/
def State.nextEvent (s : State) : Option BoundaryEvent :=
  [BoundaryEvent.trap, .nmi, .overrun, .intr].find? fun e =>
    decide (s.boundaryStep < e.order) && s.due e

/-- The CS:IP an interrupt between instructions saves (R624 (c)). -/
def State.nextAddr (s : State) : RetAddr := { cs := s.cs.sel, ip := s.ip }

/-- The request an event answers is taken off: the latch cleared, NMI in service, or the vector read
(R630, R634, R656); the boundary is past its step, and the hazard after LMSW ends, since the transfer
empties the queue (R134, R683). The interrupt inhibit lasts until the next instruction (R64). -/
def State.accept (s : State) (e : BoundaryEvent) : State :=
  let t : State := { s with boundaryStep := e.order, modeSwitch := false }
  match e with
  | .trap => t
  | .nmi => { t with nmiPending := false, nmiInService := true }
  | .overrun => { t with pxOverrun := false }
  | .intr => t.emit (.intAck s.pins.vector)

/-- The vector of an event. -/
def State.eventVector (s : State) : BoundaryEvent → Byte
  | .trap => 1#8
  | .nmi => 2#8
  | .overrun => 9#8
  | .intr => s.pins.vector

/-- How an event is delivered. -/
def BoundaryEvent.kind : BoundaryEvent → IntKind
  | .nmi => .nmi
  | _ => .external

/-- A boundary event delivered (R630, R634, R636, R656). -/
def State.deliverEvent (s : State) (e : BoundaryEvent) : Host.Outcome State Fault Refusal :=
  (s.accept e).deliver (s.eventVector e) e.kind s.nextAddr s.nextAddr none

/-- The memory word of an extension transfer may be accessed (R579, R656). -/
def State.pxOk (s : State) (p : PxOperand) : Bool :=
  decide (p.offset < 0x10000) &&
    (if s.msw.pe then
      p.seg.permits (if p.write then .write else .read) (BitVec.ofNat 16 p.offset) 2
    else decide (p.offset + 2 ≤ 0x10000))

/-- How many bytes the instructions at the head of a list have, up to the end of the first that is no
prefix. -/
def aheadLength : Nat → List Byte → Nat
  | 0, _ => 0
  | n + 1, bytes =>
    match decode bytes with
    | .ok i rest => (bytes.length - rest.length) + if isPrefix i then aheadLength n rest else 0
    | _ => bytes.length

/-- The code bytes that may already have left memory at a boundary, or while another agent stores: from
the first byte of the instruction the machine is at, its prefixes included, up to PREFETCH_WINDOW bytes
beyond its end (R135). An instruction that waits or repeats is still the one the machine is at. -/
def State.aheadOf (s : State) (k : Nat) : Bool :=
  let start := if s.pre = Prefixes.none then s.ip else s.curIp
  let bytes := s.codeFrom (maxLength + 3) s.codeOffset
  s.inCode start ((s.ip - start).toNat + aheadLength 4 bytes + s.platform.prefetchWindow) k

/-- The record of older code bytes where another agent stores these (R138, R781): what a byte of RAM was
before them and each value stored to it may be what is executed. -/
def State.staleAhead (s : State) (cells : List (Addr × Byte)) : List Host.Cell :=
  (cells.filter fun c => s.ramAt (s.physAddr c.1) && s.aheadOf (s.physAddr c.1)).flatMap
    (fun c => [(s.physAddr c.1, Memory.read s.mem (s.physAddr c.1)), (s.physAddr c.1, c.2)]) ++
    s.stale

/-- One operand word moved for the processor extension through port 00FAh (R579, R730), d being the
word the extension supplies; a memory word that never answers is waited for (R708). DESIGN CHOICE: the
port is always answered, the extension being there, whatever ports are silent;
notes/assumptions/27.md. -/
def State.pxMove (s : State) (p : PxOperand) (d : Word) : State :=
  let a := linear p.seg.base (BitVec.ofNat 16 p.offset)
  let next := some { p with offset := p.offset + 2 }
  if p.write then
    { (s.emit (.ioRead 0x00FA .word d)).writeWord a d with
      stale := s.staleAhead (storeOps a .word d).flatten
      pxOperand := next }
  else if s.answersAt a 2 then
    { s.emit (.ioWrite 0x00FA .word (s.busWord 0 a)) with pxOperand := next }
  else s.enterStuck

/-- One PEREQ request of an attached extension served, where a memory operand is latched and requests
are still served: the word moved, or the segment overrun latched (R656), which during shutdown ends
the service of PEREQ (R670). An overrun latched during shutdown stays pending, and is delivered as
interrupt 9 once an NMI has ended the shutdown and its service is over. DESIGN CHOICE: the spec is
silent on it; notes/assumptions/14.md. -/
def State.servePereq (s : State) : Option State :=
  match s.pins.pereq, s.pxOperand with
  | d :: rest, some p =>
    if s.pxInhibit || !s.platform.pxPresent then none
    else
      let t : State := { s with pins := { s.pins with pereq := rest } }
      if t.pxOk p then some (t.pxMove p d)
      else
        some { t with
          pxOverrun := true
          pxOperand := none
          pxInhibit := t.pxInhibit || t.run == .shutdown }
  | _, _ => none

/-- A boundary: a request of the extension served, which comes before any transfer the processor's own
work needs (R145), or an interrupt taken, or nothing. -/
def State.boundary (s : State) : Option (Host.Outcome State Fault Refusal) :=
  match s.servePereq with
  | some t => some (.next t)
  | none => s.nextEvent.map s.deliverEvent

/-- An NMI can end shutdown (R672). -/
def State.nmiEndsShutdown (s : State) : Bool :=
  s.nmiPending && !s.nmiInService &&
    (s.msw.pe || (decide (0x0F ≤ s.idtr.limit.toNat) && decide (5 < s.regs.sp.toNat)))

/-- The NMI that ends shutdown: the CS:IP it saves, on a stack or in the task state segment of the
outgoing task, is a draw (R670). Where its delivery fails the processor is in shutdown again (R672),
in the state the failure leaves: that of the new task where a task switch has been made (R650 (g)). -/
def State.leaveShutdown (s : State) : Host.Outcome State Fault Refusal :=
  let ret : RetAddr :=
    { cs := Config.freeWord s.draws .shutdownCs, ip := Config.freeWord s.draws .shutdownIp }
  let t := s.accept .nmi
  let t : State := { t with cs := { t.cs with sel := ret.cs } }
  match if t.msw.pe then t.protEntry 2#8 .nmi ret none else t.realEntry 2#8 .nmi ret with
  | .ok u => .next u
  | .error (.refuse why) => .refused why
  | .error (.shutdown u) => .next u.enterShutdown
  | .error (.stuck u) => .next (u.enterStuck.release s)
  | .error (.exc _ _ left) => .next (left.stateOr t).enterShutdown

/-- A step in shutdown: a request of the extension, NMI, or nothing (R145, R670, R672). -/
def State.shutdownStep (s : State) : Host.Outcome State Fault Refusal :=
  match s.servePereq with
  | some t => .next t
  | none => if s.nmiEndsShutdown then s.leaveShutdown else .next s

/-- A step in halt: an interrupt, a request of the extension, or nothing (R568, R673). -/
def State.haltStep (s : State) : Host.Outcome State Fault Refusal :=
  match s.boundary with
  | some o => o
  | none => .next s

/-! ## Memory at the two ends of a step (R131, R132, R735, R785) -/

/-- Memory m after a bus operation has stored its bytes: a store to what is not RAM is lost. -/
def State.storeCells (s : State) (m : List Host.Cell) (cells : List (Addr × Byte)) :
    List Host.Cell :=
  cells.foldl
    (fun m c => if s.ramAt (s.physAddr c.1) then Memory.write m (s.physAddr c.1) c.2 else m) m

/-- Memory m after bus operations of other masters. -/
def State.otherStores (s : State) (m : List Host.Cell) (ops : List MasterOp) : List Host.Cell :=
  (ops.map MasterOp.cells).foldl s.storeCells m

/-- A selector names a gate or a task state segment. -/
def State.namesSystem (s : State) (sel : Word) : Bool :=
  match s.descAddr sel with
  | some a => !arSegment (s.busDesc 2 a).ar
  | none => false

/-- The bus time from which a LOCK prefix does not remain active between two operand transfers of an
instruction: the start where its row has comment 8 in this mode (R334), the read of a descriptor that is
a gate's or a task state segment's in a direct far CALL or JMP (R486, R492), and else the first delivery.
DESIGN CHOICE: the spec does not say between which of them, so that any number of other masters'
operations may come between any two; notes/assumptions/31.md. -/
def State.apartFrom (s : State) : Instr → Nat
  | .callRm _ | .enter _ _ | .esc _ _ _ => 0
  | .callFarMem _ | .jmpFarMem _ | .ret | .retImm _ | .retFar | .retFarImm _ | .iret | .arpl _ _ =>
    if s.msw.pe then 0 else BusClock.delivery
  | .callFar _ sel | .jmpFar _ sel =>
    if s.msw.pe && s.namesSystem sel then 5 else BusClock.delivery
  | _ => BusClock.delivery

/-- The clock of a step, s being at its start. -/
def State.startClock (s : State) : BusClock :=
  if s.pre.lock then
    match decode s.codeBytes with
    | .ok i _ => { BusClock.start with apart := s.apartFrom i }
    | _ => BusClock.start
  else BusClock.start

/-- The inputs sampled at the start of a step, with a fresh draw and no store made yet; memory holds
what other masters have stored before the step's first bus operation. -/
def State.sampled (s : State) : State :=
  let t : State := { s.sampleNmi with draws := s.draws + 1, stores := [], clock := BusClock.start, flushed := none }
  { t with
    mem := t.otherStores t.mem (t.masterOps.take (t.passed 0))
    stale := t.staleAhead (t.masterOps.flatMap MasterOp.cells) }

/-- The state in which a step begins. -/
def State.sample (s : State) : State := { s.sampled with clock := s.sampled.startClock }

/-- What of other masters' operations goes to the bytes of one of the processor's stores. -/
def State.onto (s : State) (x : Store) (ops : List MasterOp) : List MasterOp :=
  ops.map fun op =>
    { op with
      cells := op.cells.filter fun c => x.cells.any fun d => s.physAddr d.1 == s.physAddr c.1 }

/-- Memory m after the processor's stores, the oldest first, each at its bus time among other masters'
operations, of which n are in m (R132, D27). No other master stores to the bytes of a store between the
locked read they were computed from and the store (R129): what it would have stored there comes after. -/
def State.merge (s : State) (m : List Host.Cell) (n : Nat) : List Store → List Host.Cell × Nat
  | [] => (m, n)
  | x :: xs =>
    let upTo := max n (s.passed x.time)
    let between := (s.masterOps.take upTo).drop (s.passed x.since)
    let before := s.otherStores m ((s.masterOps.take upTo).drop n)
    s.merge (s.otherStores (s.storeCells before x.cells) (s.onto x between)) upTo xs

/-- The other masters' operations of a step from the sampled state s to t that come after n of them: a
master that waits for HOLD makes none where the processor's bus operation never ends. -/
def State.remaining (s t : State) (n : Nat) : List MasterOp :=
  (s.masterOps.drop n).filter fun op => !(op.hold && t.run == .stuck)

/-- The record of older code bytes at the end of a step from the sampled state s to t, r being memory after
its own stores and how many of other masters' operations are in it. What those stored before a control
transfer is seen at its target: only those after it are missed by a prefetch (R134, R138). -/
def State.staleEnd (s t : State) (r : List Host.Cell × Nat) : List Host.Cell :=
  match t.flushed with
  | none => t.staleAhead ((s.masterOps.drop (s.passed 0)).flatMap MasterOp.cells)
  | some m =>
    let n := s.passed m
    ({ t with mem := s.otherStores r.1 ((s.masterOps.take n).drop r.2) } : State).staleAhead
      ((s.masterOps.drop n).flatMap MasterOp.cells)

/-- The end of a step that led from the sampled state s to t: other masters' operations in their order
with its own stores (D27). -/
def State.settle (s t : State) : State :=
  if s.masterOps.isEmpty then t
  else
    let r := s.merge s.mem (s.passed 0) t.stores.reverse
    { t with
      mem := s.otherStores r.1 (s.remaining t r.2)
      stale := s.staleEnd t r
      pins := { t.pins with masterStores := [] } }

/-- The outcome of a step from the sampled state s without RESET. -/
def State.settled (s : State) (o : Host.Outcome State Fault Refusal) :
    Host.Outcome State Fault Refusal :=
  match o with
  | .next t => .next (s.settle t)
  | o => o

/-! ## A step that does not reach its end (R708, R761) -/

/-- The part of a step from s to t with its first n stores, in their order, and the first `events` of the
bus operations that leave the machine. -/
def State.cutTo (s t : State) (n events : Nat) : State :=
  let made := t.stores.reverse.take n
  { s with
    stores := made.reverse
    mem := (made.map Store.cells).foldl s.storeCells s.mem
    out := t.out.drop (t.out.length - events)
    draws := t.draws }

/-- The part of a step from s to t that is done where it ends at any point: a free number of its stores,
the first ones in their order, and of the bus operations that leave the machine those before the last of
these stores and a free number of those between it and the next (R132, R761). -/
def State.cutAt (s t : State) (reset : Bool) : State :=
  let n := (Config.freeWord s.draws (.cutStores reset)).toNat % (t.stores.length + 1)
  let places := s.out.length :: (t.stores.reverse.map Store.events ++ [t.out.length])
  let first := places.getD n 0
  let between := places.getD (n + 1) 0 - first
  s.cutTo t n (first + (Config.freeWord s.draws (.cutEvents reset)).toNat % (between + 1))

/-- A store goes to a location that never answers. -/
def State.storesSilent (s : State) (x : Store) : Bool :=
  x.cells.any fun c => s.platform.kindAt (s.physAddr c.1) == .silent

/-- A step from s to t one of whose stores waits for ever: what comes before that store has been done
(R708). -/
def State.storesAnswered (s t : State) : State :=
  let made := t.stores.reverse
  match made.find? s.storesSilent with
  | none => t
  | some x => (s.cutTo t (made.takeWhile fun y => !s.storesSilent y).length x.events).enterStuck

/-- The control transfers, and HLT: prefetching stops where one is decoded (R133). DEDUCED: the transfers
are the instructions of 44_control_transfer.md, INT, INTO and IRET; notes/assumptions/19.md. -/
def stopsPrefetch : Instr → Bool
  | .callRel _ | .callRm _ | .callFar _ _ | .callFarMem _ => true
  | .jmpShort _ | .jmpRel _ | .jmpRm _ | .jmpFar _ _ | .jmpFarMem _ => true
  | .ret | .retImm _ | .retFar | .retFarImm _ => true
  | .jo _ | .jno _ | .jb _ | .jnb _ | .je _ | .jne _ | .jbe _ | .jnbe _ => true
  | .js _ | .jns _ | .jp _ | .jnp _ | .jl _ | .jnl _ | .jle _ | .jnle _ => true
  | .loop _ | .loopz _ | .loopnz _ | .jcxz _ => true
  | .int _ | .int3 | .into | .iret | .hlt => true
  | _ => false

/-- How many bytes instructions have up to the end of the first that stops prefetching. -/
def stopLength : Nat → List Byte → Option Nat
  | 0, _ => none
  | n + 1, bytes =>
    match decode bytes with
    | .ok i rest =>
      let k := bytes.length - rest.length
      if stopsPrefetch i then some k else (stopLength n rest).map (k + ·)
    | _ => none

/-- How many bytes from CS:IP on may be fetched while the instruction there is executed: PREFETCH_WINDOW
bytes beyond its end (R135), and six beyond the first control transfer or HLT (R136, R786), in both modes.
DEDUCED: R136 says six of real address mode, and the queue has six bytes (R60); notes/assumptions/19.md. -/
def State.prefetchReach (s : State) : Nat :=
  let bytes := s.codeFrom (maxLength + 3 + s.platform.prefetchWindow) s.codeOffset
  let ahead := aheadLength 4 bytes + s.platform.prefetchWindow
  match stopLength bytes.length bytes with
  | some k => min ahead (k + 6)
  | none => ahead

/-- The locations from which the code byte at an offset may be prefetched. In protected mode it lies in the
segment, or is the second of a word whose first does (R133, R137). In real address mode prefetching does
not stop at offset FFFFh (R136, R786). DESIGN CHOICE: the spec does not say where it goes on there, so that
it does at CS.base + 10000h or at offset 0000h, or not at all; notes/assumptions/19.md. -/
def State.prefetchedFrom (s : State) (off : Nat) : List Nat :=
  let a := s.cs.base + BitVec.ofNat 24 off
  if !s.msw.pe then [s.physAddr a, s.physAddr (linear s.cs.base (BitVec.ofNat 16 off))]
  else if s.fetchable off || (a.getLsbD 0 && s.fetchable (off - 1)) then [s.physAddr a]
  else []

/-- A location ahead in the code, one that may be prefetched while the instruction at CS:IP is executed,
never answers. -/
def State.silentAhead (s : State) : Bool :=
  s.run == .running &&
    (List.range s.prefetchReach).any fun j =>
      (s.prefetchedFrom (s.codeOffset + j)).any fun k =>
        s.platform.kindAt k == .silent && (s.staleAt k).isEmpty

/-- A step from the sampled state s that led to t, with what never answers: a store of its own, or a
prefetch, which may have begun at any point of it and keeps the bus (R133, R708). -/
def State.answered (s : State) (o : Host.Outcome State Fault Refusal) :
    Host.Outcome State Fault Refusal :=
  match o with
  | .next t =>
    if s.platform.answers then .next t
    else
      let u := s.storesAnswered t
      .next (if s.silentAhead && Config.freeBit s.draws .prefetch then (s.cutAt u false).enterStuck
        else u)
  | o => o

/-- RESET becomes active in the course of a step that would have led from the sampled state s to t (R761:
"ends an instruction in progress at any point", "memory writes already made stay made"); other masters
go on. RESET stays active. -/
def State.cutByReset (s t : State) : State :=
  let u := s.cutAt t true
  (s.settle { u with pins := { t.pins with reset := true, resetDuring := false } }).applyReset

/-- The outcome of a step from the sampled state s in the course of which RESET becomes active (R761):
what the model refuses is refused unless RESET came before it. -/
def State.resetOutcome (s : State) (o : Host.Outcome State Fault Refusal) :
    Host.Outcome State Fault Refusal :=
  match o with
  | .next t => .next (s.cutByReset t)
  | .refused why =>
    if Config.freeBit s.draws .resetFirst then .next (s.cutByReset s) else .refused why
  | o => o

end Sys2Proof.Machine
end

