-- ==== Sys2Proof/Machine/Arithmetic.lean ====
section
/-! DEFINITION. Arithmetic instructions (spec 41_arithmetic.md). -/

namespace Sys2Proof.Machine

/-- `RM <- op(RM, imm)` (R383). -/
def State.binRmImm (s : State) (op : BinOp) (w : Width) (rm : RM) (v : Word) : Exec State :=
  s.modifyRM w rm fun a f => op a v f

/-- ADD r/m, reg and ADD reg, r/m (R382). -/
def execAddRmReg (toReg : Bool) (w : Width) (rm : RM) (reg : RegNum) (s : State) :
    Host.Outcome State Fault Refusal :=
  s.finish (s.binRmReg (addOp w) toReg w rm reg)

/-- ADD r/m, immediate (R383). -/
def execAddRmImm (rm : RM) (imm : GImm) (s : State) : Host.Outcome State Fault Refusal :=
  s.finish (s.binRmImm (addOp imm.width) imm.width rm imm.value)

/-- ADD accumulator, immediate (R384). -/
def execAddAccImm (imm : Imm) (s : State) : Host.Outcome State Fault Refusal :=
  s.finish (.ok (s.binAcc (addOp imm.width) imm.width imm.value))

/-- ADC r/m, reg and ADC reg, r/m (R385). -/
def execAdcRmReg (toReg : Bool) (w : Width) (rm : RM) (reg : RegNum) (s : State) :
    Host.Outcome State Fault Refusal :=
  s.finish (s.binRmReg (adcOp w) toReg w rm reg)

/-- ADC r/m, immediate (R386). -/
def execAdcRmImm (rm : RM) (imm : GImm) (s : State) : Host.Outcome State Fault Refusal :=
  s.finish (s.binRmImm (adcOp imm.width) imm.width rm imm.value)

/-- ADC accumulator, immediate (R387). -/
def execAdcAccImm (imm : Imm) (s : State) : Host.Outcome State Fault Refusal :=
  s.finish (.ok (s.binAcc (adcOp imm.width) imm.width imm.value))

/-- INC r/m (R388): CF unchanged. -/
def execIncRm (w : Width) (rm : RM) (s : State) : Host.Outcome State Fault Refusal :=
  s.finish (s.modifyRM w rm (incFlags w))

/-- INC register (R389). -/
def execIncReg (reg : RegNum) (s : State) : Host.Outcome State Fault Refusal :=
  s.finish (.ok (s.setRegFlags .word reg (incFlags .word (s.getReg .word reg) s.flags)))

/-- SUB r/m, reg and SUB reg, r/m (R390). -/
def execSubRmReg (toReg : Bool) (w : Width) (rm : RM) (reg : RegNum) (s : State) :
    Host.Outcome State Fault Refusal :=
  s.finish (s.binRmReg (subOp w) toReg w rm reg)

/-- SUB r/m, immediate (R391). -/
def execSubRmImm (rm : RM) (imm : GImm) (s : State) : Host.Outcome State Fault Refusal :=
  s.finish (s.binRmImm (subOp imm.width) imm.width rm imm.value)

/-- SUB accumulator, immediate (R392). -/
def execSubAccImm (imm : Imm) (s : State) : Host.Outcome State Fault Refusal :=
  s.finish (.ok (s.binAcc (subOp imm.width) imm.width imm.value))

/-- SBB r/m, reg and SBB reg, r/m (R393). -/
def execSbbRmReg (toReg : Bool) (w : Width) (rm : RM) (reg : RegNum) (s : State) :
    Host.Outcome State Fault Refusal :=
  s.finish (s.binRmReg (sbbOp w) toReg w rm reg)

/-- SBB r/m, immediate (R394). -/
def execSbbRmImm (rm : RM) (imm : GImm) (s : State) : Host.Outcome State Fault Refusal :=
  s.finish (s.binRmImm (sbbOp imm.width) imm.width rm imm.value)

/-- SBB accumulator, immediate (R395). -/
def execSbbAccImm (imm : Imm) (s : State) : Host.Outcome State Fault Refusal :=
  s.finish (.ok (s.binAcc (sbbOp imm.width) imm.width imm.value))

/-- DEC r/m (R396): CF unchanged. -/
def execDecRm (w : Width) (rm : RM) (s : State) : Host.Outcome State Fault Refusal :=
  s.finish (s.modifyRM w rm (decFlags w))

/-- DEC register (R397). -/
def execDecReg (reg : RegNum) (s : State) : Host.Outcome State Fault Refusal :=
  s.finish (.ok (s.setRegFlags .word reg (decFlags .word (s.getReg .word reg) s.flags)))

/-- CMP r/m, reg (R398): the result is discarded. -/
def execCmpRmReg (w : Width) (rm : RM) (reg : RegNum) (s : State) :
    Host.Outcome State Fault Refusal :=
  s.finish (s.flagsRM w rm fun a f => (subFlags w a (s.getReg w reg) false f).2)

/-- CMP reg, r/m (R399): the register is the minuend. -/
def execCmpRegRm (w : Width) (reg : RegNum) (rm : RM) (s : State) :
    Host.Outcome State Fault Refusal :=
  s.finish (s.flagsRM w rm fun a f => (subFlags w (s.getReg w reg) a false f).2)

/-- CMP r/m, immediate (R400). -/
def execCmpRmImm (rm : RM) (imm : GImm) (s : State) : Host.Outcome State Fault Refusal :=
  s.finish (s.flagsRM imm.width rm fun a f => (subFlags imm.width a imm.value false f).2)

/-- CMP accumulator, immediate (R401). -/
def execCmpAccImm (imm : Imm) (s : State) : Host.Outcome State Fault Refusal :=
  s.finish
    (.ok (s.setFlags (subFlags imm.width (s.acc imm.width) imm.value false s.flags).2))

/-- NEG r/m (R402). -/
def execNeg (w : Width) (rm : RM) (s : State) : Host.Outcome State Fault Refusal :=
  s.finish (s.modifyRM w rm (negFlags w))

/-! ## Decimal and ASCII adjust -/

/-- AX and the flags written. -/
def State.setAxFlags (s : State) (r : Word × Flags) : State := (s.setAx r.1).setFlags r.2

/-- AL and the flags written. -/
def State.setAlFlags (s : State) (r : Byte × Flags) : State :=
  (s.setAcc .byte (zext16 r.1)).setFlags r.2

/-- AAA (R403). -/
def execAaa (s : State) : Host.Outcome State Fault Refusal :=
  s.finish (.ok (s.setAxFlags (aaaFlags s.regs.ax s.flags s.draws)))

/-- DAA (R404). -/
def execDaa (s : State) : Host.Outcome State Fault Refusal :=
  s.finish (.ok (s.setAlFlags (daaFlags (loByte s.regs.ax) s.flags s.draws)))

/-- AAS (R405). -/
def execAas (s : State) : Host.Outcome State Fault Refusal :=
  s.finish (.ok (s.setAxFlags (aasFlags s.regs.ax s.flags s.draws)))

/-- DAS (R406). -/
def execDas (s : State) : Host.Outcome State Fault Refusal :=
  s.finish (.ok (s.setAlFlags (dasFlags (loByte s.regs.ax) s.flags s.draws)))

/-! ## Multiply and divide -/

/-- DX:AX written. -/
def State.setDxAx (s : State) (hi lo : Word) : State := (s.setAx lo).setDx hi

/-- The result of MUL on the accumulator (R407): AX for bytes, DX:AX for words; CF = OF = the upper
half is not zero. -/
def State.mulResult (s : State) (w : Width) (v : Word) : State :=
  match w with
  | .byte =>
    let p := (loByte s.regs.ax).toNat * v.toNat
    (s.setAx (BitVec.ofNat 16 p)).setFlags (mulFlags (decide (0x100 ≤ p)) s.flags s.draws)
  | .word =>
    let p := s.regs.ax.toNat * v.toNat
    (s.setDxAx (BitVec.ofNat 16 (p / 0x10000)) (BitVec.ofNat 16 p)).setFlags
      (mulFlags (decide (0x10000 ≤ p)) s.flags s.draws)

/-- MUL r/m (R407). -/
def execMul (w : Width) (rm : RM) (s : State) : Host.Outcome State Fault Refusal :=
  s.finish do
    let v ← s.readRM w rm
    .ok (s.mulResult w v)

/-- The result of IMUL on the accumulator (R408): CF = OF = the product is not the sign extension of
its low half. -/
def State.imulResult (s : State) (w : Width) (v : Word) : State :=
  match w with
  | .byte =>
    let p := signed .byte (s.acc .byte) * signed .byte v
    (s.setAx (BitVec.ofInt 16 p)).setFlags (mulFlags (!fitsSigned .byte p) s.flags s.draws)
  | .word =>
    let p := signed .word s.regs.ax * signed .word v
    (s.setDxAx (BitVec.ofInt 16 (p / 0x10000)) (BitVec.ofInt 16 p)).setFlags
      (mulFlags (!fitsSigned .word p) s.flags s.draws)

/-- IMUL r/m (R408). -/
def execImulRm (w : Width) (rm : RM) (s : State) : Host.Outcome State Fault Refusal :=
  s.finish do
    let v ← s.readRM w rm
    .ok (s.imulResult w v)

/-- IMUL reg, r/m, immediate (R409). -/
def execImulImm (reg : RegNum) (rm : RM) (imm : SImm) (s : State) :
    Host.Outcome State Fault Refusal :=
  s.finish do
    let v ← s.readRM .word rm
    let p := signed .word v * signed .word imm.value
    .ok ((s.setReg .word reg (BitVec.ofInt 16 p)).setFlags
      (mulFlags (!fitsSigned .word p) s.flags s.draws))

/-- DX:AX as a number. -/
def State.dxAx (s : State) : Nat := s.regs.dx.toNat * 0x10000 + s.regs.ax.toNat

/-- The dividend: AX for a byte divisor, DX:AX for a word (R410). -/
def State.dividend (s : State) (w : Width) : Nat :=
  match w with
  | .byte => s.regs.ax.toNat
  | .word => s.dxAx

/-- Quotient and remainder written: AL and AH for bytes, AX and DX for words (R410). -/
def State.putQuotient (s : State) (w : Width) (q r : Word) : State :=
  match w with
  | .byte => s.setAx (mkWord (loByte q) (loByte r))
  | .word => s.setDxAx r q

/-- DIV (R410): exception 0 for a zero divisor or a quotient that does not fit. -/
def State.divResult (s : State) (w : Width) (v : Word) : Exec State :=
  let n := s.dividend w
  let d := v.toNat
  if d = 0 ∨ 2 ^ w.bits ≤ n / d then raise 0 0#16
  else
    .ok ((s.putQuotient w (BitVec.ofNat 16 (n / d)) (BitVec.ofNat 16 (n % d))).setFlags
      (s.flags.freeAll s.draws))

/-- DIV r/m (R410). -/
def execDiv (w : Width) (rm : RM) (s : State) : Host.Outcome State Fault Refusal :=
  s.finish do
    let v ← s.readRM w rm
    s.divResult w v

/-- The dividend read as signed (R411). -/
def State.signedDividend (s : State) (w : Width) : Int :=
  match w with
  | .byte => signed .word s.regs.ax
  | .word => if s.regs.dx.getLsbD 15 then (s.dxAx : Int) - 0x100000000 else s.dxAx

/-- IDIV (R411): truncating toward zero, the remainder with the sign of the dividend; the most
negative quotient fits. -/
def State.idivResult (s : State) (w : Width) (v : Word) : Exec State :=
  let n := s.signedDividend w
  let d := signed w v
  if d = 0 ∨ !fitsSigned w (n.tdiv d) then raise 0 0#16
  else
    .ok ((s.putQuotient w (BitVec.ofInt 16 (n.tdiv d)) (BitVec.ofInt 16 (n.tmod d))).setFlags
      (s.flags.freeAll s.draws))

/-- IDIV r/m (R411). -/
def execIdiv (w : Width) (rm : RM) (s : State) : Host.Outcome State Fault Refusal :=
  s.finish do
    let v ← s.readRM w rm
    s.idivResult w v

/-- AAM (R412). -/
def execAam (s : State) : Host.Outcome State Fault Refusal :=
  s.finish
    (let al := (loByte s.regs.ax).toNat
    let r := BitVec.ofNat 8 (al % 10)
    .ok (s.setAxFlags (mkWord r (BitVec.ofNat 8 (al / 10)), aamFlags r s.flags s.draws)))

/-- AAD (R413). -/
def execAad (s : State) : Host.Outcome State Fault Refusal :=
  s.finish
    (let r := BitVec.ofNat 8 ((hiByte s.regs.ax).toNat * 10 + (loByte s.regs.ax).toNat)
    .ok (s.setAxFlags (mkWord r 0#8, aamFlags r s.flags s.draws)))

/-- CBW (R414). -/
def execCbw (s : State) : Host.Outcome State Fault Refusal :=
  s.finish (.ok (s.setAx (sext16 (loByte s.regs.ax))))

/-- CWD (R415). -/
def execCwd (s : State) : Host.Outcome State Fault Refusal :=
  s.finish (.ok (s.setDx (if s.regs.ax.getLsbD 15 then 0xFFFF#16 else 0#16)))

end Sys2Proof.Machine
end

