-- ==== Sys2Proof/Machine/ControlTransfer.lean ====
section
/-! DEFINITION. Control transfer instructions (spec 44_control_transfer.md). -/

namespace Sys2Proof.Machine

/-! ## CALL -/

/-- A near call (R482, R483): the target is checked before the push. -/
def State.nearCall (s : State) (target : Word) : Exec State := do
  require (s.targetOk target) 13 0#16
  let t ← s.push s.ip
  .ok (t.jump target)

/-- A far call (R484). -/
def State.farCall (s : State) (sel off : Word) : Exec State :=
  if s.msw.pe then s.transferToCode sel off true
  else do
    let t ← s.pushAll [s.cs.sel, s.ip]
    .ok (t.realFar sel off)

/-- CALL, direct within segment (R482). -/
def execCallRel (disp : Word) (s : State) : Host.Outcome State Fault Refusal :=
  s.finish (s.nearCall (s.ip + disp))

/-- CALL, indirect within segment (R483). -/
def execCallRm (rm : RM) (s : State) : Host.Outcome State Fault Refusal :=
  s.finish do
    let target ← s.readRM .word rm
    s.nearCall target

/-- CALL, direct intersegment (R484). -/
def execCallFar (offset selector : Word) (s : State) : Host.Outcome State Fault Refusal :=
  s.finish (s.farCall selector offset)

/-- CALL, indirect intersegment (R485). -/
def execCallFarMem (mem : Mem) (s : State) : Host.Outcome State Fault Refusal :=
  s.finish do
    let p ← s.readPointer (s.memSeg mem) (s.ea mem)
    s.farCall p.2 p.1

/-! ## JMP -/

/-- A far jump (R490). -/
def State.farJump (s : State) (sel off : Word) : Exec State :=
  if s.msw.pe then s.transferToCode sel off false else .ok (s.realFar sel off)

/-- JMP short (R487). -/
def execJmpShort (disp : Byte) (s : State) : Host.Outcome State Fault Refusal :=
  s.finish (s.nearJump (s.ip + sext16 disp))

/-- JMP, direct within segment (R488). -/
def execJmpRel (disp : Word) (s : State) : Host.Outcome State Fault Refusal :=
  s.finish (s.nearJump (s.ip + disp))

/-- JMP, indirect within segment (R489). -/
def execJmpRm (rm : RM) (s : State) : Host.Outcome State Fault Refusal :=
  s.finish do
    let target ← s.readRM .word rm
    s.nearJump target

/-- JMP, direct intersegment (R490). -/
def execJmpFar (offset selector : Word) (s : State) : Host.Outcome State Fault Refusal :=
  s.finish (s.farJump selector offset)

/-- JMP, indirect intersegment (R491). -/
def execJmpFarMem (mem : Mem) (s : State) : Host.Outcome State Fault Refusal :=
  s.finish do
    let p ← s.readPointer (s.memSeg mem) (s.ea mem)
    s.farJump p.2 p.1

/-! ## RET -/

/-- A near return, adj added to SP after the pop (R493, R494). -/
def State.nearReturn (s : State) (adj : Word) : Exec State := do
  let target ← s.stackTop
  require (s.targetOk target) 13 0#16
  .ok ((s.setSp (s.regs.sp + 2 + adj)).jump target)

/-- A far return, adj added to SP after the pops (R495, R496). Where the second word is exception 13 in
real address mode (SP = FFFDh), SP keeps its value. DESIGN CHOICE: R16, R642 and R650 (a) keep it,
where D25 has a draw after "a multi-word push or pop"; notes/assumptions/35.md. -/
def State.farRet (s : State) (adj : Word) : Exec State :=
  if s.msw.pe then s.farReturn adj false
  else do
    let sp := s.regs.sp
    s.checkWords .read .ss sp 2
    let off ← s.fetchAt .ss sp .word 0
    let sel ← s.fetchAt .ss (sp + 2) .word 1
    .ok ((s.setSp (sp + 4 + adj)).realFar sel off)

/-- RET within segment (R493). -/
def execRet (s : State) : Host.Outcome State Fault Refusal := s.finish (s.nearReturn 0#16)

/-- RET within segment adding immediate to SP (R494). -/
def execRetImm (imm : Word) (s : State) : Host.Outcome State Fault Refusal :=
  s.finish (s.nearReturn imm)

/-- RET intersegment (R495, R497). -/
def execRetFar (s : State) : Host.Outcome State Fault Refusal := s.finish (s.farRet 0#16)

/-- RET intersegment adding immediate to SP (R496, R497). -/
def execRetFarImm (imm : Word) (s : State) : Host.Outcome State Fault Refusal :=
  s.finish (s.farRet imm)

/-! ## Conditional jumps (R498) -/

/-- JO (R499): OF = 1. -/
def execJo (disp : Byte) (s : State) : Host.Outcome State Fault Refusal :=
  s.finish (s.jumpIf s.flags.of disp)

/-- JNO (R500): OF = 0. -/
def execJno (disp : Byte) (s : State) : Host.Outcome State Fault Refusal :=
  s.finish (s.jumpIf (!s.flags.of) disp)

/-- JB (R501): CF = 1. -/
def execJb (disp : Byte) (s : State) : Host.Outcome State Fault Refusal :=
  s.finish (s.jumpIf s.flags.cf disp)

/-- JNB (R502): CF = 0. -/
def execJnb (disp : Byte) (s : State) : Host.Outcome State Fault Refusal :=
  s.finish (s.jumpIf (!s.flags.cf) disp)

/-- JE (R503): ZF = 1. -/
def execJe (disp : Byte) (s : State) : Host.Outcome State Fault Refusal :=
  s.finish (s.jumpIf s.flags.zf disp)

/-- JNE (R504): ZF = 0. -/
def execJne (disp : Byte) (s : State) : Host.Outcome State Fault Refusal :=
  s.finish (s.jumpIf (!s.flags.zf) disp)

/-- JBE (R505): CF = 1 or ZF = 1. -/
def execJbe (disp : Byte) (s : State) : Host.Outcome State Fault Refusal :=
  s.finish (s.jumpIf s.flags.belowOrEqual disp)

/-- JNBE (R506): CF = 0 and ZF = 0. -/
def execJnbe (disp : Byte) (s : State) : Host.Outcome State Fault Refusal :=
  s.finish (s.jumpIf (!s.flags.belowOrEqual) disp)

/-- JS (R507): SF = 1. -/
def execJs (disp : Byte) (s : State) : Host.Outcome State Fault Refusal :=
  s.finish (s.jumpIf s.flags.sf disp)

/-- JNS (R508): SF = 0. -/
def execJns (disp : Byte) (s : State) : Host.Outcome State Fault Refusal :=
  s.finish (s.jumpIf (!s.flags.sf) disp)

/-- JP (R509): PF = 1. -/
def execJp (disp : Byte) (s : State) : Host.Outcome State Fault Refusal :=
  s.finish (s.jumpIf s.flags.pf disp)

/-- JNP (R510): PF = 0. -/
def execJnp (disp : Byte) (s : State) : Host.Outcome State Fault Refusal :=
  s.finish (s.jumpIf (!s.flags.pf) disp)

/-- JL (R511): SF != OF. -/
def execJl (disp : Byte) (s : State) : Host.Outcome State Fault Refusal :=
  s.finish (s.jumpIf s.flags.less disp)

/-- JNL (R512): SF = OF. -/
def execJnl (disp : Byte) (s : State) : Host.Outcome State Fault Refusal :=
  s.finish (s.jumpIf (!s.flags.less) disp)

/-- JLE (R513): ZF = 1 or SF != OF. -/
def execJle (disp : Byte) (s : State) : Host.Outcome State Fault Refusal :=
  s.finish (s.jumpIf s.flags.lessOrEqual disp)

/-- JNLE (R514): ZF = 0 and SF = OF. -/
def execJnle (disp : Byte) (s : State) : Host.Outcome State Fault Refusal :=
  s.finish (s.jumpIf (!s.flags.lessOrEqual) disp)

/-! ## Iteration control -/

/-- LOOP (R515). -/
def execLoop (disp : Byte) (s : State) : Host.Outcome State Fault Refusal :=
  s.finish (s.loopWhile true disp)

/-- LOOPZ (R516). -/
def execLoopz (disp : Byte) (s : State) : Host.Outcome State Fault Refusal :=
  s.finish (s.loopWhile s.flags.zf disp)

/-- LOOPNZ (R517). -/
def execLoopnz (disp : Byte) (s : State) : Host.Outcome State Fault Refusal :=
  s.finish (s.loopWhile (!s.flags.zf) disp)

/-- JCXZ (R518). -/
def execJcxz (disp : Byte) (s : State) : Host.Outcome State Fault Refusal :=
  s.finish (s.jumpIf (s.regs.cx == 0#16) disp)

end Sys2Proof.Machine
end

