-- ==== Sys2Proof/Machine/DataTransfer.lean ====
section
/-! DEFINITION. Data transfer instructions (spec 40_data_transfer.md). -/

namespace Sys2Proof.Machine

/-! ## MOV -/

/-- MOV r/m, reg (R341). -/
def execMovRmReg (w : Width) (rm : RM) (reg : RegNum) (s : State) :
    Host.Outcome State Fault Refusal :=
  s.finish (s.writeRM w rm (s.getReg w reg))

/-- MOV reg, r/m (R342). -/
def execMovRegRm (w : Width) (reg : RegNum) (rm : RM) (s : State) :
    Host.Outcome State Fault Refusal :=
  s.finish do
    let v ← s.readRM w rm
    .ok (s.setReg w reg v)

/-- MOV r/m, immediate (R343). -/
def execMovRmImm (rm : RM) (imm : Imm) (s : State) : Host.Outcome State Fault Refusal :=
  s.finish (s.writeRM imm.width rm imm.value)

/-- MOV reg, immediate (R344). -/
def execMovRegImm (reg : RegNum) (imm : Imm) (s : State) : Host.Outcome State Fault Refusal :=
  s.finish (.ok (s.setReg imm.width reg imm.value))

/-- MOV accumulator, memory (R345): the direct offset in DS or the override (R292). -/
def execMovAccMem (w : Width) (offset : Word) (s : State) : Host.Outcome State Fault Refusal :=
  s.finish do
    let v ← s.memRead (s.overridden .ds) offset w
    .ok (s.setAcc w v)

/-- MOV memory, accumulator (R348). -/
def execMovMemAcc (w : Width) (offset : Word) (s : State) : Host.Outcome State Fault Refusal :=
  s.finish (s.memWrite (s.overridden .ds) offset w (s.acc w))

/-- The interrupt inhibit that a load of SS sets (R64, R346, R352). -/
def State.inhibitAfter (s : State) (r : SReg) : State :=
  { s with intInhibit := s.intInhibit || r == .ss }

/-- MOV segment register, r/m (R346). -/
def execMovSregRm (sreg : SReg) (rm : RM) (s : State) : Host.Outcome State Fault Refusal :=
  s.finish do
    let sel ← s.readRM .word rm
    let t ← s.loadSeg sreg sel
    .ok (t.inhibitAfter sreg)

/-- MOV r/m, segment register (R347). -/
def execMovRmSreg (rm : RM) (sreg : SReg) (s : State) : Host.Outcome State Fault Refusal :=
  s.finish (s.writeRM .word rm (s.seg sreg).sel)

/-! ## PUSH, POP, PUSHA, POPA -/

/-- PUSH r/m (R349): the operand is read before SP is decremented. -/
def execPushRm (rm : RM) (s : State) : Host.Outcome State Fault Refusal :=
  s.finish do
    let v ← s.readRM .word rm
    s.push v

/-- PUSH register (R350): PUSH SP pushes the value before the instruction. -/
def execPushReg (reg : RegNum) (s : State) : Host.Outcome State Fault Refusal :=
  s.finish (s.push (s.getReg .word reg))

/-- PUSH segment register (R351). -/
def execPushSreg (sreg : SReg) (s : State) : Host.Outcome State Fault Refusal :=
  s.finish (s.push (s.seg sreg).sel)

/-- PUSH immediate (R353). -/
def execPushImm (imm : SImm) (s : State) : Host.Outcome State Fault Refusal :=
  s.finish (s.push imm.value)

/-- The saved SP that marks a PUSHA or POPA that met the end of the stack segment in protected mode
(Table 14 note 1: R648, R650 (b)). -/
def wrapMark (sp : Word) : Bool :=
  sp == 0x0000#16 || sp == 0x0001#16 || sp == 0xFFFE#16 || sp == 0xFFFF#16

/-- The words PUSHA pushes, in order (R354). -/
def Regs.pushaWords (r : Regs) : List Word := [r.ax, r.cx, r.dx, r.bx, r.sp, r.bp, r.si, r.di]

/-- How many of n words a protected-mode push from sp on can write before its first violation. -/
def SegReg.pushable (r : SegReg) : Nat → Word → Nat
  | 0, _ => 0
  | n + 1, sp => if r.pushAdmitted sp then r.pushable n (sp - 2) + 1 else 0

/-- Stack words that a failed PUSHA may have written: each is written or not, a draw (R650, D25). -/
def State.partialPush (s : State) (sp : Word) : Nat → List Word → State
  | _, [] => s
  | i, v :: vs =>
    let t :=
      if Config.freeBit s.draws (.partialWord i) then s.writeWord (linear s.ss.base (sp - 2)) v
      else s
    t.partialPush (sp - 2) (i + 1) vs

/-- PUSHA (R354). In protected mode a violation at a saved SP of 0000h, 0001h, FFFEh or FFFFh is
exception 12 that is not restartable: SP is that value, and the words before it may be written
(R650 (b)); any other is exception 12 with nothing changed. -/
def execPusha (s : State) : Host.Outcome State Fault Refusal :=
  s.finish
    (if s.msw.pe then
      let words := s.regs.pushaWords
      let k := s.ss.pushable 8 s.regs.sp
      let sp := s.regs.sp - BitVec.ofNat 16 (2 * k)
      if k = 8 then .ok (s.pushAllRaw words)
      else if wrapMark sp then
        .error (.exc 12#8 0#16 (.partly ((s.partialPush s.regs.sp 0 (words.take k)).setSp sp)))
      else raise 12 0#16
    else s.pushAll s.regs.pushaWords)

/-- SP after a real-mode POP whose write failed: the old value or the one the pop gave, a draw
(R355, R650 (a)). -/
def State.partialPop (s : State) : State :=
  if s.msw.pe then s
  else s.setSp (if Config.freeBit s.draws .partialSp then s.regs.sp + 2 else s.regs.sp)

/-- A failure of POP's write (R355): in protected mode nothing has changed. -/
def popFailure (s : State) (r : Exec State) : Exec State :=
  match r with
  | .error (.exc v c .unchanged) => .error (.exc v c (.partly s.partialPop))
  | r => r

/-- POP r/m (R355). -/
def execPopRm (rm : RM) (s : State) : Host.Outcome State Fault Refusal :=
  s.finish do
    let v ← s.stackTop
    popFailure s ((s.setSp (s.regs.sp + 2)).writeRM .word rm v)

/-- POP register (R356): POP SP leaves the popped value. -/
def execPopReg (reg : RegNum) (s : State) : Host.Outcome State Fault Refusal :=
  s.finish do
    let v ← s.stackTop
    .ok ((s.setSp (s.regs.sp + 2)).setReg .word reg v)

/-- POP segment register (R352): SP changes only after the load succeeds. -/
def State.popSeg (s : State) (r : SReg) : Exec State := do
  let sel ← s.stackTop
  let t ← s.loadSeg r sel
  .ok ((t.setSp (s.regs.sp + 2)).inhibitAfter r)

/-- POP ES (R352). -/
def execPopEs (s : State) : Host.Outcome State Fault Refusal := s.finish (s.popSeg .es)

/-- POP SS (R352). -/
def execPopSs (s : State) : Host.Outcome State Fault Refusal := s.finish (s.popSeg .ss)

/-- POP DS (R352). -/
def execPopDs (s : State) : Host.Outcome State Fault Refusal := s.finish (s.popSeg .ds)

/-- The word a read finds i places above the top of the stack, the i-th read. -/
def State.stackWord (s : State) (i : Nat) : Word :=
  s.load .ss (s.regs.sp + BitVec.ofNat 16 (2 * i)) .word i

/-- The first k words of the stack answer (R708), but for the fourth, which POPA does not read (R357). -/
def State.awaitStack (s : State) (k : Nat) : Exec Unit :=
  if (List.range k).all fun i =>
      i == 3 || s.answersAt (linear s.ss.base (s.regs.sp + BitVec.ofNat 16 (2 * i))) 2 then .ok ()
  else .error (.stuck s)

/-- The registers POPA pops, in order, with the word that is skipped as SP (R357). -/
def popaOrder : List Reg16 := [.di, .si, .bp, .sp, .bx, .dx, .cx, .ax]

/-- SP may pass the word of POPA that is skipped: nothing is read there (R357), but in protected mode SP
does not wrap (R212, R648). -/
def State.skipAdmitted (s : State) (sp : Word) : Bool :=
  !(s.msw.pe && decide (0xFFFE ≤ sp.toNat))

/-- How many of the words of these registers POPA passes from sp on before the first violation. -/
def State.poppable (s : State) : List Reg16 → Word → Nat
  | [], _ => 0
  | r :: rs, sp =>
    if (if r = .sp then s.skipAdmitted sp else s.popAdmitted sp) then s.poppable rs (sp + 2) + 1
    else 0

/-- The registers after POPA (R357). -/
def State.popaRegs (s : State) : Regs :=
  { di := s.stackWord 0, si := s.stackWord 1, bp := s.stackWord 2, sp := s.regs.sp + 16,
    bx := s.stackWord 4, dx := s.stackWord 5, cx := s.stackWord 6, ax := s.stackWord 7 }

/-- Registers that a failed POPA may have popped: each keeps its value or has the popped one, a draw
(R650, D25). -/
def State.partialPopa (s : State) (t : State) : Nat → List Reg16 → State
  | _, [] => t
  | i, r :: rs =>
    let v := if Config.freeBit s.draws (.partialReg i) then s.stackWord i else t.regs.get r
    let u : State := if r = .sp then t else { t with regs := t.regs.set r v }
    s.partialPopa u (i + 1) rs

/-- SP after a failed POPA with k words popped: the marked value in protected mode (R650 (b)), a
draw between old and reached in real address mode (R650 (a)). -/
def State.popaSp (s : State) (k : Nat) : Word :=
  let reached := s.regs.sp + BitVec.ofNat 16 (2 * k)
  if s.msw.pe || Config.freeBit s.draws .partialSp then reached else s.regs.sp

/-- POPA (R357). A stack word outside the segment is exception 12 in protected mode and 13 in real
address mode; what it leaves is that of R650 (a) and (b). -/
def execPopa (s : State) : Host.Outcome State Fault Refusal :=
  s.finish do
    let k := s.poppable popaOrder s.regs.sp
    s.awaitStack k
    if k = 8 then .ok { s with regs := s.popaRegs }
    else if s.msw.pe && !wrapMark (s.regs.sp + BitVec.ofNat 16 (2 * k)) then raise 12 0#16
    else
      .error (.exc (BitVec.ofNat 8 (s.refVector .ss)) 0#16
        (.partly ((s.partialPopa s 0 (popaOrder.take k)).setSp (s.popaSp k))))

/-! ## XCHG, NOP -/

/-- The value a locked read of an r/m operand finds: nothing comes between the halves of a word (R128,
R129). -/
def State.lockedValue (s : State) (w : Width) : RM → Word
  | .reg n => s.getReg w n
  | .mem m =>
    let a := linear (s.seg (s.memSeg m)).base (s.ea m)
    match w with
    | .byte => zext16 (s.busByte 0 a)
    | .word => s.lockedWord 0 a

/-- XCHG r/m, reg (R358): the write check comes before the read, and read and write are one locked
sequence (R129). -/
def execXchgRmReg (w : Width) (rm : RM) (reg : RegNum) (s : State) :
    Host.Outcome State Fault Refusal :=
  s.finish do
    s.checkRM .write w rm
    if s.rmAnswers w rm then
      .ok (((s.rmPut w rm (s.getReg w reg)).lockedSince s (s.time 0)).setReg w reg
        (s.lockedValue w rm))
    else .error (.stuck s)

/-- XCHG AX, register (R359). -/
def execXchgAxReg (reg : RegNum) (s : State) : Host.Outcome State Fault Refusal :=
  s.finish (.ok ((s.setAx (s.getReg .word reg)).setReg .word reg s.regs.ax))

/-- NOP (R578): nothing but the advance of IP. -/
def execNop (s : State) : Host.Outcome State Fault Refusal := s.finish (.ok s)

/-! ## IN, OUT -/

/-- IN (R360, R361): "a word read at port FFFFh covers ports FFFFh and 0000h or 10000h; the source does
not say which; the model refuses it" (R361). -/
def State.input (s : State) (w : Width) (port : Word) : Exec State := do
  s.checkIopl
  if w = .word ∧ port = 0xFFFF#16 then .error (.refuse .wordPortWrap)
  else do
    let r ← s.readPort port w
    .ok (r.2.setAcc w r.1)

/-- OUT (R362, R363). -/
def State.output (s : State) (w : Width) (port : Word) : Exec State := do
  s.checkIopl
  s.writePort port w (s.acc w)

/-- IN accumulator, fixed port (R360). -/
def execInImm (w : Width) (port : Byte) (s : State) : Host.Outcome State Fault Refusal :=
  s.finish (s.input w (zext16 port))

/-- IN accumulator, DX (R361). -/
def execInDx (w : Width) (s : State) : Host.Outcome State Fault Refusal :=
  s.finish (s.input w s.regs.dx)

/-- OUT fixed port, accumulator (R362). -/
def execOutImm (w : Width) (port : Byte) (s : State) : Host.Outcome State Fault Refusal :=
  s.finish (s.output w (zext16 port))

/-- OUT DX, accumulator (R363). -/
def execOutDx (w : Width) (s : State) : Host.Outcome State Fault Refusal :=
  s.finish (s.output w s.regs.dx)

/-! ## XLAT, LEA, LDS, LES -/

/-- XLAT (R364). -/
def execXlat (s : State) : Host.Outcome State Fault Refusal :=
  s.finish do
    let v ← s.memRead (s.overridden .ds) (s.regs.bx + s.acc .byte) .byte
    .ok (s.setAcc .byte v)

/-- LEA (R365): no memory access. -/
def execLea (reg : RegNum) (mem : Mem) (s : State) : Host.Outcome State Fault Refusal :=
  s.finish (.ok (s.setReg .word reg (s.ea mem)))

/-- LDS and LES (R366, R367): the register is written only after the segment load succeeds. -/
def State.loadPointer (s : State) (r : SReg) (reg : RegNum) (mem : Mem) : Exec State := do
  let p ← s.readPointer (s.memSeg mem) (s.ea mem)
  let t ← s.loadSeg r p.2
  .ok (t.setReg .word reg p.1)

/-- LDS (R366). -/
def execLds (reg : RegNum) (mem : Mem) (s : State) : Host.Outcome State Fault Refusal :=
  s.finish (s.loadPointer .ds reg mem)

/-- LES (R367). -/
def execLes (reg : RegNum) (mem : Mem) (s : State) : Host.Outcome State Fault Refusal :=
  s.finish (s.loadPointer .es reg mem)

/-! ## Flag transfers -/

/-- LAHF (R368): AH <- FLAGS[7:0]. -/
def execLahf (s : State) : Host.Outcome State Fault Refusal :=
  s.finish (.ok (s.setReg .byte 4#3 (zext16 (loByte s.flags.toWord))))

/-- The flags after SAHF (R369). -/
def Flags.fromAh (f : Flags) (ah : Byte) : Flags :=
  { f with
    sf := ah.getLsbD 7, zf := ah.getLsbD 6, af := ah.getLsbD 4, pf := ah.getLsbD 2,
    cf := ah.getLsbD 0 }

/-- SAHF (R369). -/
def execSahf (s : State) : Host.Outcome State Fault Refusal :=
  s.finish (.ok (s.setFlags (s.flags.fromAh (s.regs.getByte 4#3))))

/-- PUSHF (R370). -/
def execPushf (s : State) : Host.Outcome State Fault Refusal :=
  s.finish (s.push s.flags.toWord)

/-- The flags after POPF (R371). -/
def State.popfFlags (s : State) (v : Word) : Flags :=
  if s.msw.pe then s.flags.loadProt s.cpl v else s.flags.loadReal v

/-- POPF (R371). -/
def execPopf (s : State) : Host.Outcome State Fault Refusal :=
  s.finish do
    let v ← s.stackTop
    .ok ((s.setSp (s.regs.sp + 2)).setFlags (s.popfFlags v))

end Sys2Proof.Machine
end

