-- ==== Sys2Proof/Machine/Interrupts.lean ====
section
/-! DEFINITION. High level instructions, software interrupts and interrupt return
(spec 45_highlevel_interrupt.md). -/

namespace Sys2Proof.Machine

/-! ## ENTER, LEAVE, BOUND -/

/-- A failure after part of an instruction's pushes: those words stay in memory and the registers
are those of s, the start of the instruction (R650 (e)). -/
def State.keepPushes {α : Type} (s t : State) (r : Exec α) : Exec α :=
  match r with
  | .error (.exc v c .unchanged) =>
    .error (.exc v c (.partly { s with mem := t.mem, stale := t.stale, stores := t.stores }))
  | r => r

/-- The frame pointers ENTER copies (R540): BP moved down and the word it addresses pushed, n
times, t being the state reached and s the start of the instruction. -/
def State.copyFrames (s : State) : Nat → State → Exec State
  | 0, t => .ok t
  | n + 1, t => do
    let u := t.setBp (t.regs.bp - 2)
    let v ← s.keepPushes u (u.memRead .ss u.regs.bp .word)
    let u ← s.keepPushes u (u.push v)
    s.copyFrames n u

/-- ENTER (R540): the level is L modulo 32. -/
def execEnter (size : Word) (level : Byte) (s : State) : Host.Outcome State Fault Refusal :=
  s.finish do
    let n := level.toNat % 32
    let t ← s.push s.regs.bp
    let frame := t.regs.sp
    let t ←
      if n = 0 then .ok t
      else do
        let u ← s.copyFrames (n - 1) t
        s.keepPushes u (u.push frame)
    .ok ((t.setBp frame).setSp (t.regs.sp - size))

/-- LEAVE (R541). -/
def execLeave (s : State) : Host.Outcome State Fault Refusal :=
  s.finish do
    let v ← s.popWord s.regs.bp
    .ok ((s.setSp (s.regs.bp + 2)).setBp v)

/-- BOUND (R542): both bounds are inclusive, the comparison is signed. -/
def execBound (reg : RegNum) (mem : Mem) (s : State) : Host.Outcome State Fault Refusal :=
  s.finish do
    let p ← s.readPointer (s.memSeg mem) (s.ea mem)
    let i := (s.getReg .word reg).toInt
    require (decide (p.1.toInt ≤ i) && decide (i ≤ p.2.toInt)) 5 0#16
    .ok s

/-! ## INT, INTO, IRET -/

/-- INT n (R543). -/
def execInt (type : Byte) (s : State) : Host.Outcome State Fault Refusal := s.softInt type

/-- INT 3 (R544). -/
def execInt3 (s : State) : Host.Outcome State Fault Refusal := s.softInt 3#8

/-- INTO (R545). -/
def execInto (s : State) : Host.Outcome State Fault Refusal :=
  if s.flags.of then s.softInt 4#8 else s.finish (.ok s)

/-- IRET (R546). -/
def execIret (s : State) : Host.Outcome State Fault Refusal := s.finish s.interruptReturn

end Sys2Proof.Machine
end

