-- ==== Sys2Proof/Machine/Logic.lean ====
section
/-! DEFINITION. Logic, shift and rotate instructions (spec 42_logic_shift.md). -/

namespace Sys2Proof.Machine

/-- ROL r/m, 1 (R432). -/
def execRolOne (w : Width) (rm : RM) (s : State) : Host.Outcome State Fault Refusal :=
  s.finish (s.shiftRM .rol w rm 1#8)

/-- ROL r/m, CL (R432). -/
def execRolCl (w : Width) (rm : RM) (s : State) : Host.Outcome State Fault Refusal :=
  s.finish (s.shiftRM .rol w rm (loByte s.regs.cx))

/-- ROL r/m, count (R432). -/
def execRolImm (w : Width) (rm : RM) (count : Byte) (s : State) :
    Host.Outcome State Fault Refusal :=
  s.finish (s.shiftRM .rol w rm count)

/-- ROR r/m, 1 (R433). -/
def execRorOne (w : Width) (rm : RM) (s : State) : Host.Outcome State Fault Refusal :=
  s.finish (s.shiftRM .ror w rm 1#8)

/-- ROR r/m, CL (R433). -/
def execRorCl (w : Width) (rm : RM) (s : State) : Host.Outcome State Fault Refusal :=
  s.finish (s.shiftRM .ror w rm (loByte s.regs.cx))

/-- ROR r/m, count (R433). -/
def execRorImm (w : Width) (rm : RM) (count : Byte) (s : State) :
    Host.Outcome State Fault Refusal :=
  s.finish (s.shiftRM .ror w rm count)

/-- RCL r/m, 1 (R434). -/
def execRclOne (w : Width) (rm : RM) (s : State) : Host.Outcome State Fault Refusal :=
  s.finish (s.shiftRM .rcl w rm 1#8)

/-- RCL r/m, CL (R434). -/
def execRclCl (w : Width) (rm : RM) (s : State) : Host.Outcome State Fault Refusal :=
  s.finish (s.shiftRM .rcl w rm (loByte s.regs.cx))

/-- RCL r/m, count (R434). -/
def execRclImm (w : Width) (rm : RM) (count : Byte) (s : State) :
    Host.Outcome State Fault Refusal :=
  s.finish (s.shiftRM .rcl w rm count)

/-- RCR r/m, 1 (R435). -/
def execRcrOne (w : Width) (rm : RM) (s : State) : Host.Outcome State Fault Refusal :=
  s.finish (s.shiftRM .rcr w rm 1#8)

/-- RCR r/m, CL (R435). -/
def execRcrCl (w : Width) (rm : RM) (s : State) : Host.Outcome State Fault Refusal :=
  s.finish (s.shiftRM .rcr w rm (loByte s.regs.cx))

/-- RCR r/m, count (R435). -/
def execRcrImm (w : Width) (rm : RM) (count : Byte) (s : State) :
    Host.Outcome State Fault Refusal :=
  s.finish (s.shiftRM .rcr w rm count)

/-- SHL r/m, 1 (R436). -/
def execShlOne (w : Width) (rm : RM) (s : State) : Host.Outcome State Fault Refusal :=
  s.finish (s.shiftRM .shl w rm 1#8)

/-- SHL r/m, CL (R436). -/
def execShlCl (w : Width) (rm : RM) (s : State) : Host.Outcome State Fault Refusal :=
  s.finish (s.shiftRM .shl w rm (loByte s.regs.cx))

/-- SHL r/m, count (R436). -/
def execShlImm (w : Width) (rm : RM) (count : Byte) (s : State) :
    Host.Outcome State Fault Refusal :=
  s.finish (s.shiftRM .shl w rm count)

/-- SHR r/m, 1 (R437). -/
def execShrOne (w : Width) (rm : RM) (s : State) : Host.Outcome State Fault Refusal :=
  s.finish (s.shiftRM .shr w rm 1#8)

/-- SHR r/m, CL (R437). -/
def execShrCl (w : Width) (rm : RM) (s : State) : Host.Outcome State Fault Refusal :=
  s.finish (s.shiftRM .shr w rm (loByte s.regs.cx))

/-- SHR r/m, count (R437). -/
def execShrImm (w : Width) (rm : RM) (count : Byte) (s : State) :
    Host.Outcome State Fault Refusal :=
  s.finish (s.shiftRM .shr w rm count)

/-- SAR r/m, 1 (R438). -/
def execSarOne (w : Width) (rm : RM) (s : State) : Host.Outcome State Fault Refusal :=
  s.finish (s.shiftRM .sar w rm 1#8)

/-- SAR r/m, CL (R438). -/
def execSarCl (w : Width) (rm : RM) (s : State) : Host.Outcome State Fault Refusal :=
  s.finish (s.shiftRM .sar w rm (loByte s.regs.cx))

/-- SAR r/m, count (R438). -/
def execSarImm (w : Width) (rm : RM) (count : Byte) (s : State) :
    Host.Outcome State Fault Refusal :=
  s.finish (s.shiftRM .sar w rm count)

/-- AND r/m, reg and AND reg, r/m (R440). -/
def execAndRmReg (toReg : Bool) (w : Width) (rm : RM) (reg : RegNum) (s : State) :
    Host.Outcome State Fault Refusal :=
  s.finish (s.binRmReg (andOp w s.draws) toReg w rm reg)

/-- AND r/m, immediate (R441). -/
def execAndRmImm (rm : RM) (imm : Imm) (s : State) : Host.Outcome State Fault Refusal :=
  s.finish (s.modifyRM imm.width rm fun a f => andOp imm.width s.draws a imm.value f)

/-- AND accumulator, immediate (R442). -/
def execAndAccImm (imm : Imm) (s : State) : Host.Outcome State Fault Refusal :=
  s.finish (.ok (s.binAcc (andOp imm.width s.draws) imm.width imm.value))

/-- TEST r/m, reg (R443): nothing is written but the flags. -/
def execTestRmReg (w : Width) (rm : RM) (reg : RegNum) (s : State) :
    Host.Outcome State Fault Refusal :=
  s.finish (s.flagsRM w rm fun a f => logicFlags w (a &&& s.getReg w reg) f s.draws)

/-- TEST r/m, immediate (R444). -/
def execTestRmImm (rm : RM) (imm : Imm) (s : State) : Host.Outcome State Fault Refusal :=
  s.finish (s.flagsRM imm.width rm fun a f => logicFlags imm.width (a &&& imm.value) f s.draws)

/-- TEST accumulator, immediate (R445). -/
def execTestAccImm (imm : Imm) (s : State) : Host.Outcome State Fault Refusal :=
  s.finish
    (.ok (s.setFlags
      (logicFlags imm.width (s.acc imm.width &&& imm.value) s.flags s.draws)))

/-- OR r/m, reg and OR reg, r/m (R446). -/
def execOrRmReg (toReg : Bool) (w : Width) (rm : RM) (reg : RegNum) (s : State) :
    Host.Outcome State Fault Refusal :=
  s.finish (s.binRmReg (orOp w s.draws) toReg w rm reg)

/-- OR r/m, immediate (R447). -/
def execOrRmImm (rm : RM) (imm : Imm) (s : State) : Host.Outcome State Fault Refusal :=
  s.finish (s.modifyRM imm.width rm fun a f => orOp imm.width s.draws a imm.value f)

/-- OR accumulator, immediate (R448). -/
def execOrAccImm (imm : Imm) (s : State) : Host.Outcome State Fault Refusal :=
  s.finish (.ok (s.binAcc (orOp imm.width s.draws) imm.width imm.value))

/-- XOR r/m, reg and XOR reg, r/m (R449). -/
def execXorRmReg (toReg : Bool) (w : Width) (rm : RM) (reg : RegNum) (s : State) :
    Host.Outcome State Fault Refusal :=
  s.finish (s.binRmReg (xorOp w s.draws) toReg w rm reg)

/-- XOR r/m, immediate (R450). -/
def execXorRmImm (rm : RM) (imm : Imm) (s : State) : Host.Outcome State Fault Refusal :=
  s.finish (s.modifyRM imm.width rm fun a f => xorOp imm.width s.draws a imm.value f)

/-- XOR accumulator, immediate (R451). -/
def execXorAccImm (imm : Imm) (s : State) : Host.Outcome State Fault Refusal :=
  s.finish (.ok (s.binAcc (xorOp imm.width s.draws) imm.width imm.value))

/-- NOT r/m (R452): no flag is written. -/
def execNot (w : Width) (rm : RM) (s : State) : Host.Outcome State Fault Refusal :=
  s.finish (s.modifyRM w rm fun a f => (maskTo w (~~~a), f))

end Sys2Proof.Machine
end

