-- ==== Sys2Proof/Machine/ProcessorControl.lean ====
section
/-! DEFINITION. Processor control instructions, the LOCK and segment override prefixes, and the
processor's side of the processor extension (spec 46_processor_control.md). -/

namespace Sys2Proof.Machine

/-! ## Flag operations -/

/-- CLC (R561). -/
def execClc (s : State) : Host.Outcome State Fault Refusal :=
  s.finish (.ok (s.setFlags { s.flags with cf := false }))

/-- CMC (R562). -/
def execCmc (s : State) : Host.Outcome State Fault Refusal :=
  s.finish (.ok (s.setFlags { s.flags with cf := !s.flags.cf }))

/-- STC (R563). -/
def execStc (s : State) : Host.Outcome State Fault Refusal :=
  s.finish (.ok (s.setFlags { s.flags with cf := true }))

/-- CLD (R564). -/
def execCld (s : State) : Host.Outcome State Fault Refusal :=
  s.finish (.ok (s.setFlags { s.flags with df := false }))

/-- STD (R565). -/
def execStd (s : State) : Host.Outcome State Fault Refusal :=
  s.finish (.ok (s.setFlags { s.flags with df := true }))

/-- CLI (R566). -/
def execCli (s : State) : Host.Outcome State Fault Refusal :=
  s.finish do
    s.checkIopl
    .ok (s.setFlags { s.flags with intf := false })

/-- STI (R567): the next instruction may be shielded from interrupts (R64). -/
def execSti (s : State) : Host.Outcome State Fault Refusal :=
  s.finish do
    s.checkIopl
    .ok { s.setFlags { s.flags with intf := true } with intInhibit := true }

/-! ## HLT, WAIT -/

/-- HLT (R568): the halt bus operation, A1 high (R706). -/
def execHlt (s : State) : Host.Outcome State Fault Refusal :=
  s.finish do
    s.checkCpl0
    .ok { s.emit .haltCycle with run := .halted }

/-- The instruction waits for BUSY: it is run again from its first prefix, and at the boundary
between an interrupt saves that address (R571, R633). No single-step trap follows: the instruction
has not been executed. -/
def State.stall (s : State) : State :=
  { s with ip := s.curIp, ipCarry := false, tfAtStart := false }

/-- Interrupt 16, its return address the ESC or WAIT that found ERROR active (R577, R662). -/
def State.extensionError (s : State) : Host.Outcome State Fault Refusal :=
  s.deliver 16#8 .external s.here s.here none

/-- BUSY is active: with no processor extension attached it is held inactive (R571). -/
def State.busyActive (s : State) : Bool := s.platform.pxPresent && s.pins.busy

/-- ERROR is active: with no processor extension attached it is held inactive (R571). -/
def State.errorActive (s : State) : Bool := s.platform.pxPresent && s.pins.error

/-- WAIT (R571, R576). DESIGN CHOICE: ERROR is examined only once BUSY is inactive, whatever it is while
BUSY is active: R571 says that this is not stated; notes/assumptions/27.md. -/
def execWait (s : State) : Host.Outcome State Fault Refusal :=
  if s.msw.ts && s.msw.mp then s.finish (raise 7 0#16)
  else if s.busyActive then .next s.stall
  else if s.errorActive then s.extensionError
  else s.finish (.ok s)

/-! ## Prefixes -/

/-- LOCK (R572): a second one is refused (R303, D17). DESIGN CHOICE: its privilege check comes before the
instruction after it is decoded, so that LOCK before an unlisted encoding at CPL > IOPL is exception 13:
R680 (1) puts decoding first, R572 has the check at the prefix; notes/assumptions/6.md. -/
def execLock (s : State) : Host.Outcome State Fault Refusal :=
  s.finish
    (if s.pre.lock then .error (.refuse .repeatedPrefix)
    else do
      s.checkIopl
      .ok { s with pre := { s.pre with lock := true } })

/-- A segment override (R300, R573): a second one is refused (R303, D17). -/
def execSeg (sreg : SReg) (s : State) : Host.Outcome State Fault Refusal :=
  s.finish
    (if s.pre.seg.isSome then .error (.refuse .repeatedPrefix)
    else .ok { s with pre := { s.pre with seg := some sreg } })

/-! ## CTS, ESC -/

/-- CTS (R574). -/
def execCts (s : State) : Host.Outcome State Fault Refusal :=
  s.finish do
    s.checkCpl0
    .ok { s with msw := { s.msw with ts := false } }

/-- The first word of an ESC operand may be used (comment 17, R575, R656): where a segment permits only
one direction, the direction is the attached part's. In real address mode there is no check. -/
def State.escStartOk (s : State) (op : BitVec 6) (m : Mem) : Bool :=
  let r := s.seg (s.memSeg m)
  let readable := r.permits .read (s.ea m) 2
  let writable := r.permits .write (s.ea m) 2
  !s.msw.pe || (if readable = writable then readable
    else if Config.escStores op then writable else readable)

/-- The check of an ESC operand, raised. -/
def State.checkEsc (s : State) (op : BitVec 6) : RM → Exec Unit
  | .reg _ => .ok ()
  | .mem m => require (s.escStartOk op m) (s.refVector (s.memSeg m)) 0#16

/-- The memory operand the extension is told of (R575, R730), the direction being a property of the
opcode. -/
def State.escOperand (s : State) (op : BitVec 6) (m : Mem) : EscOperand :=
  { reg := s.memSeg m, selector := (s.seg (s.memSeg m)).sel, offset := s.ea m
    write := Config.escStores op }

/-- An ESC handed to the processor extension (R575, R730): its bytes `code`, from the opcode byte on, the
operand's segment register, offset and direction leave the machine, and a memory operand is latched
for the extension's transfers (R579). DESIGN CHOICE: its I/O operations never wait for READY, whatever
ports are silent; notes/assumptions/27.md. DESIGN CHOICE: the operand's address is the ESC's own, so that
the condition of the erratum of R731 and the command delays of R732 are taken as never met, as platform
preconditions; notes/assumptions/37.md. -/
def State.handOver (s : State) (op : BitVec 6) (code : List Byte) : RM → State
  | .reg _ => s.emit (.esc code none)
  | .mem m =>
    { s.emit (.esc code (some (s.escOperand op m))) with
      pxOperand :=
        some { seg := s.seg (s.memSeg m), offset := (s.ea m).toNat, write := Config.escStores op } }

/-- ESC (R575, R576). DESIGN CHOICE: of ERROR as for WAIT, `execWait`; notes/assumptions/27.md. DESIGN
CHOICE: the "instruction bytes" the extension is handed (R730) begin at the opcode byte D8h to DFh of
R575, without the prefix bytes before it, which R280 counts as part of an instruction;
notes/assumptions/23.md. -/
def execEsc (ttt lll : BitVec 3) (rm : RM) (s : State) : Host.Outcome State Fault Refusal :=
  let op : BitVec 6 := ttt ++ lll
  if s.msw.em || s.msw.ts then s.finish (raise 7 0#16)
  else
    match s.checkEsc op rm with
    | .error e => s.finish (.error e)
    | .ok _ =>
      if s.busyActive && Config.escWaits op then .next s.stall
      else if s.errorActive && Config.escWaits op then s.extensionError
      else s.finish (.ok (s.handOver op (encode (.esc ttt lll rm)) rm))

end Sys2Proof.Machine
end

