-- ==== Sys2Proof/Machine/Protection.lean ====
section
/-! DEFINITION. Protection control instructions (spec 47_protection_control.md). -/

namespace Sys2Proof.Machine

/-! ## GDTR and IDTR -/

/-- The six bytes LGDT and LIDT load (R592): limit, base low word, base high byte. DESIGN CHOICE: the sixth
byte is read, as half of the third word, so that the read waits where it never answers: R592 leaves open
whether it "is read or not"; notes/assumptions/11.md. -/
def State.readTable (s : State) (m : Mem) : Exec TableReg := do
  let r := s.memSeg m
  let off := s.ea m
  s.checkWords .read r off 3
  let limit ← s.fetchAt r off .word 0
  let lo ← s.fetchAt r (off + 2) .word 1
  let hi ← s.fetchAt r (off + 4) .word 2
  .ok { limit := limit, base := loByte hi ++ lo }

/-- The three words SGDT and SIDT store (R593): the sixth byte is open, a free value (D36). -/
def State.tableWords (s : State) (t : TableReg) : List Word :=
  [t.limit, t.base.extractLsb' 0 16,
    mkWord (t.base.extractLsb' 16 8) (loByte (Config.freeWord s.draws .tableByte))]

/-- Words stored at off, off + 2, ... of a segment (R108), the checks apart. -/
def State.storeWords (s : State) (r : SReg) (off : Word) : List Word → State
  | [] => s
  | v :: vs => (s.store r off .word v).storeWords r (off + 2) vs

/-- SGDT and SIDT (R593, R595). -/
def State.storeTable (s : State) (m : Mem) (t : TableReg) : Exec State := do
  s.checkWords .write (s.memSeg m) (s.ea m) 3
  .ok (s.storeWords (s.memSeg m) (s.ea m) (s.tableWords t))

/-- LGDT (R592). -/
def execLgdt (mem : Mem) (s : State) : Host.Outcome State Fault Refusal :=
  s.finish do
    s.checkCpl0
    let t ← s.readTable mem
    .ok { s with gdtr := t }

/-- SGDT (R593). -/
def execSgdt (mem : Mem) (s : State) : Host.Outcome State Fault Refusal :=
  s.finish (s.storeTable mem s.gdtr)

/-- LIDT (R594). -/
def execLidt (mem : Mem) (s : State) : Host.Outcome State Fault Refusal :=
  s.finish do
    s.checkCpl0
    let t ← s.readTable mem
    .ok { s with idtr := t }

/-- SIDT (R595). -/
def execSidt (mem : Mem) (s : State) : Host.Outcome State Fault Refusal :=
  s.finish (s.storeTable mem s.idtr)

/-! ## LDTR and TR -/

/-- A present system descriptor of one type in the GDT (R596, R598). -/
def State.systemDesc (s : State) (sel : Word) (type : Nat) : Exec (Addr × Desc) := do
  require (!sel.getLsbD 2) 13 (selCode sel 0#16)
  let d ← s.descriptor 2 sel 13 (selCode sel 0#16)
  require (arSystemType d.2.ar == some type) 13 (selCode sel 0#16)
  require (arPresent d.2.ar) 11 (selCode sel 0#16)
  .ok d

/-- LLDT (R596): a null selector makes LDTR unusable. -/
def execLldt (rm : RM) (s : State) : Host.Outcome State Fault Refusal :=
  s.finish do
    s.checkProt
    s.checkCpl0
    let sel ← s.readRM .word rm
    if isNull sel then .ok { s with ldtr := { s.ldtr with sel := sel, usable := false } }
    else do
      let d ← s.systemDesc sel 2
      .ok { s with ldtr := { sel := sel, base := d.2.base, limit := d.2.limit, usable := true } }

/-- SLDT (R597). -/
def execSldt (rm : RM) (s : State) : Host.Outcome State Fault Refusal :=
  s.finish do
    s.checkProt
    s.writeRM .word rm s.ldtr.sel

/-- LTR (R598): the descriptor becomes busy, type 3. -/
def execLtr (rm : RM) (s : State) : Host.Outcome State Fault Refusal :=
  s.finish do
    s.checkProt
    s.checkCpl0
    let sel ← s.readRM .word rm
    require (!isNull sel) 13 0#16
    let d ← s.systemDesc sel 1
    .ok { (s.writeByte (d.1 + 5) (d.2.ar ||| 2#8)).lockedSince s d.2.time with
          tr := { sel := sel, base := d.2.base, limit := d.2.limit, loaded := true } }

/-- STR (R599). -/
def execStr (rm : RM) (s : State) : Host.Outcome State Fault Refusal :=
  s.finish do
    s.checkProt
    s.writeRM .word rm s.tr.sel

/-! ## The machine status word -/

/-- LMSW (R604): where PE goes from 0 to 1 the next instruction must be a near JMP (R780), whose bytes may
have been prefetched before (R60). -/
def execLmsw (rm : RM) (s : State) : Host.Outcome State Fault Refusal :=
  s.finish do
    s.checkCpl0
    let v ← s.readRM .word rm
    .ok { s with
      msw := s.msw.load v
      modeSwitch := !s.msw.pe && v.getLsbD 0
      stale := if v.getLsbD 0 then s.staleRemapped else s.stale }

/-- SMSW (R605). -/
def execSmsw (rm : RM) (s : State) : Host.Outcome State Fault Refusal :=
  s.finish (s.writeRM .word rm s.msw.toWord)

/-! ## Pointer testing -/

/-- The descriptor Probe finds (R606): none for a null selector and for one outside its table. -/
def State.probe (s : State) (sel : Word) : Exec (Option (Addr × Desc)) :=
  if isNull sel then .ok none
  else
    match s.descAddr sel with
    | none => .ok none
    | some a => do
      let d ← s.fetchDesc 2 a
      .ok (some (a, d))

/-- visible(d) (R606). -/
def State.visible (s : State) (sel : Word) (d : Desc) : Bool :=
  (arCode d.ar && arDirConf d.ar) || decide (maxPl s.cpl (rpl sel) ≤ arDpl d.ar)

/-- The accessed bit after a selector test: a draw where it was 0 (R160, D35). -/
def State.probeAccessed (s : State) (d : Addr × Desc) : State :=
  if arSegment d.2.ar && !arAccessed d.2.ar && Config.freeBit s.draws .accessed then
    (s.writeByte (d.1 + 5) (d.2.ar ||| 1#8)).lockedSince s d.2.time
  else s

/-- A selector test (R606): ZF, and where the test succeeds what `found` makes of the state. -/
def State.selectorTest (s : State) (sel : Word) (ok : Desc → Bool) (found : State → Desc → State) :
    Exec State := do
  match ← s.probe sel with
  | none => .ok (s.setZf false)
  | some d =>
    let t := s.probeAccessed d
    .ok (if ok d.2 then (found t d.2).setZf true else t.setZf false)

/-- The descriptor types LAR accepts (R607, D38). -/
def larType (d : Desc) : Bool :=
  arSegment d.ar || (decide (1 ≤ d.ar.toNat % 16) && decide (d.ar.toNat % 16 ≤ 5))

/-- The descriptor types LSL accepts (R608, D38). -/
def lslType (d : Desc) : Bool :=
  arSegment d.ar || (decide (1 ≤ d.ar.toNat % 16) && decide (d.ar.toNat % 16 ≤ 3))

/-- A descriptor of a segment that can be read (R610). -/
def verrType (d : Desc) : Bool := arSegment d.ar && (!arExec d.ar || arRw d.ar)

/-- LAR (R607). -/
def execLar (reg : RegNum) (rm : RM) (s : State) : Host.Outcome State Fault Refusal :=
  s.finish do
    s.checkProt
    let sel ← s.readRM .word rm
    s.selectorTest sel (fun d => larType d && s.visible sel d)
      fun t d => t.setReg .word reg (mkWord 0#8 d.ar)

/-- LSL (R608). -/
def execLsl (reg : RegNum) (rm : RM) (s : State) : Host.Outcome State Fault Refusal :=
  s.finish do
    s.checkProt
    let sel ← s.readRM .word rm
    s.selectorTest sel (fun d => lslType d && s.visible sel d)
      fun t d => t.setReg .word reg d.limit

/-- VERR (R610). -/
def execVerr (rm : RM) (s : State) : Host.Outcome State Fault Refusal :=
  s.finish do
    s.checkProt
    let sel ← s.readRM .word rm
    s.selectorTest sel (fun d => verrType d && s.visible sel d) fun t _ => t

/-- VERW (R611). -/
def execVerw (rm : RM) (s : State) : Host.Outcome State Fault Refusal :=
  s.finish do
    s.checkProt
    let sel ← s.readRM .word rm
    s.selectorTest sel
      (fun d => arWritable d.ar && decide (maxPl s.cpl (rpl sel) ≤ arDpl d.ar)) fun t _ => t

/-- ARPL (R609): the memory form needs a writable segment even where nothing changes. -/
def execArpl (rm : RM) (reg : RegNum) (s : State) : Host.Outcome State Fault Refusal :=
  s.finish do
    s.checkProt
    let a ← s.operand .write .word rm
    let b := s.getReg .word reg
    if rpl a < rpl b then .ok ((s.rmPut .word rm (withRpl a (rpl b))).setZf true)
    else .ok (s.setZf false)

end Sys2Proof.Machine
end

