-- ==== Sys2Proof/Machine/Strings.lean ====
section
/-! DEFINITION. String instructions and the repeat prefix (spec 43_string.md). -/

namespace Sys2Proof.Machine

/-- One element of MOVS (R462). -/
def State.movsElement (s : State) (w : Width) : Exec State := do
  let v ← s.memRead s.srcSeg s.regs.si w
  let t ← s.memWrite .es s.regs.di w v
  .ok ((t.stepSi w).stepDi w)

/-- MOVS (R462). -/
def execMovs (w : Width) (s : State) : Host.Outcome State Fault Refusal :=
  s.finish (s.repeated false fun t => t.movsElement w)

/-- One element of CMPS (R463): the SI element is the minuend. -/
def State.cmpsElement (s : State) (w : Width) : Exec State := do
  let a ← s.memRead s.srcSeg s.regs.si w
  let b ← s.memRead .es s.regs.di w 1
  .ok (((s.stepSi w).stepDi w).setFlags (subFlags w a b false s.flags).2)

/-- CMPS (R463). -/
def execCmps (w : Width) (s : State) : Host.Outcome State Fault Refusal :=
  s.finish (s.repeated true fun t => t.cmpsElement w)

/-- One element of SCAS (R464): the accumulator is the minuend. -/
def State.scasElement (s : State) (w : Width) : Exec State := do
  let b ← s.memRead .es s.regs.di w
  .ok ((s.stepDi w).setFlags (subFlags w (s.acc w) b false s.flags).2)

/-- SCAS (R464). -/
def execScas (w : Width) (s : State) : Host.Outcome State Fault Refusal :=
  s.finish (s.repeated true fun t => t.scasElement w)

/-- One element of LODS (R465). -/
def State.lodsElement (s : State) (w : Width) : Exec State := do
  let v ← s.memRead s.srcSeg s.regs.si w
  .ok ((s.stepSi w).setAcc w v)

/-- LODS (R465). -/
def execLods (w : Width) (s : State) : Host.Outcome State Fault Refusal :=
  s.finish (s.repeated false fun t => t.lodsElement w)

/-- One element of STOS (R466). -/
def State.stosElement (s : State) (w : Width) : Exec State := do
  let t ← s.memWrite .es s.regs.di w (s.acc w)
  .ok (t.stepDi w)

/-- STOS (R466). -/
def execStos (w : Width) (s : State) : Host.Outcome State Fault Refusal :=
  s.finish (s.repeated false fun t => t.stosElement w)

/-- One element of INS (R467): the destination is checked before the port is read (D31). -/
def State.insElement (s : State) (w : Width) : Exec State := do
  s.checkIopl
  s.check .write .es s.regs.di w.bytes
  let r ← s.readPort s.regs.dx w
  .ok ((r.2.store .es s.regs.di w r.1).stepDi w)

/-- INS (R467). -/
def execIns (w : Width) (s : State) : Host.Outcome State Fault Refusal :=
  s.finish (s.repeated false fun t => t.insElement w)

/-- One element of OUTS (R469): the source is read before the port is written. -/
def State.outsElement (s : State) (w : Width) : Exec State := do
  s.checkIopl
  let v ← s.memRead s.srcSeg s.regs.si w
  let t ← s.writePort s.regs.dx w v
  .ok (t.stepSi w)

/-- OUTS (R469). -/
def execOuts (w : Width) (s : State) : Host.Outcome State Fault Refusal :=
  s.finish (s.repeated false fun t => t.outsElement w)

/-- A repeat prefix recorded with its z bit; a second one is refused (R303, D17). -/
def State.repeatWith (s : State) (z : Bool) : Exec State :=
  if s.pre.rep.isSome then .error (.refuse .repeatedPrefix)
  else .ok { s with pre := { s.pre with rep := some z } }

/-- The REP, REPE, REPZ prefix, z = 1 (R302, R468). -/
def execRep (s : State) : Host.Outcome State Fault Refusal := s.finish (s.repeatWith true)

/-- The REPNE, REPNZ prefix, z = 0 (R302, R468). -/
def execRepne (s : State) : Host.Outcome State Fault Refusal := s.finish (s.repeatWith false)

end Sys2Proof.Machine
end

