-- ==== Sys2Proof/Machine/Dispatch.lean ====
section
/-! DEFINITION. One arm per instruction: a direct call of its meaning. -/

namespace Sys2Proof.Machine

def exec (i : Instr) (s : State) : Host.Outcome State Fault Refusal :=
  match i with
  | .movRmReg w rm reg => Sys2Proof.Machine.execMovRmReg w rm reg s
  | .movRegRm w reg rm => Sys2Proof.Machine.execMovRegRm w reg rm s
  | .movRmImm rm imm => Sys2Proof.Machine.execMovRmImm rm imm s
  | .movRegImm reg imm => Sys2Proof.Machine.execMovRegImm reg imm s
  | .movAccMem w offset => Sys2Proof.Machine.execMovAccMem w offset s
  | .movMemAcc w offset => Sys2Proof.Machine.execMovMemAcc w offset s
  | .movSregRm sreg rm => Sys2Proof.Machine.execMovSregRm sreg rm s
  | .movRmSreg rm sreg => Sys2Proof.Machine.execMovRmSreg rm sreg s
  | .pushRm rm => Sys2Proof.Machine.execPushRm rm s
  | .pushReg reg => Sys2Proof.Machine.execPushReg reg s
  | .pushSreg sreg => Sys2Proof.Machine.execPushSreg sreg s
  | .pushImm imm => Sys2Proof.Machine.execPushImm imm s
  | .pusha => Sys2Proof.Machine.execPusha s
  | .popRm rm => Sys2Proof.Machine.execPopRm rm s
  | .popReg reg => Sys2Proof.Machine.execPopReg reg s
  | .popEs => Sys2Proof.Machine.execPopEs s
  | .popSs => Sys2Proof.Machine.execPopSs s
  | .popDs => Sys2Proof.Machine.execPopDs s
  | .popa => Sys2Proof.Machine.execPopa s
  | .xchgRmReg w rm reg => Sys2Proof.Machine.execXchgRmReg w rm reg s
  | .xchgAxReg reg => Sys2Proof.Machine.execXchgAxReg reg s
  | .nop => Sys2Proof.Machine.execNop s
  | .inImm w port => Sys2Proof.Machine.execInImm w port s
  | .inDx w => Sys2Proof.Machine.execInDx w s
  | .outImm w port => Sys2Proof.Machine.execOutImm w port s
  | .outDx w => Sys2Proof.Machine.execOutDx w s
  | .xlat => Sys2Proof.Machine.execXlat s
  | .lea reg mem => Sys2Proof.Machine.execLea reg mem s
  | .lds reg mem => Sys2Proof.Machine.execLds reg mem s
  | .les reg mem => Sys2Proof.Machine.execLes reg mem s
  | .lahf => Sys2Proof.Machine.execLahf s
  | .sahf => Sys2Proof.Machine.execSahf s
  | .pushf => Sys2Proof.Machine.execPushf s
  | .popf => Sys2Proof.Machine.execPopf s
  | .addRmReg toReg w rm reg => Sys2Proof.Machine.execAddRmReg toReg w rm reg s
  | .addRmImm rm imm => Sys2Proof.Machine.execAddRmImm rm imm s
  | .addAccImm imm => Sys2Proof.Machine.execAddAccImm imm s
  | .adcRmReg toReg w rm reg => Sys2Proof.Machine.execAdcRmReg toReg w rm reg s
  | .adcRmImm rm imm => Sys2Proof.Machine.execAdcRmImm rm imm s
  | .adcAccImm imm => Sys2Proof.Machine.execAdcAccImm imm s
  | .incRm w rm => Sys2Proof.Machine.execIncRm w rm s
  | .incReg reg => Sys2Proof.Machine.execIncReg reg s
  | .subRmReg toReg w rm reg => Sys2Proof.Machine.execSubRmReg toReg w rm reg s
  | .subRmImm rm imm => Sys2Proof.Machine.execSubRmImm rm imm s
  | .subAccImm imm => Sys2Proof.Machine.execSubAccImm imm s
  | .sbbRmReg toReg w rm reg => Sys2Proof.Machine.execSbbRmReg toReg w rm reg s
  | .sbbRmImm rm imm => Sys2Proof.Machine.execSbbRmImm rm imm s
  | .sbbAccImm imm => Sys2Proof.Machine.execSbbAccImm imm s
  | .decRm w rm => Sys2Proof.Machine.execDecRm w rm s
  | .decReg reg => Sys2Proof.Machine.execDecReg reg s
  | .cmpRmReg w rm reg => Sys2Proof.Machine.execCmpRmReg w rm reg s
  | .cmpRegRm w reg rm => Sys2Proof.Machine.execCmpRegRm w reg rm s
  | .cmpRmImm rm imm => Sys2Proof.Machine.execCmpRmImm rm imm s
  | .cmpAccImm imm => Sys2Proof.Machine.execCmpAccImm imm s
  | .neg w rm => Sys2Proof.Machine.execNeg w rm s
  | .aaa => Sys2Proof.Machine.execAaa s
  | .daa => Sys2Proof.Machine.execDaa s
  | .aas => Sys2Proof.Machine.execAas s
  | .das => Sys2Proof.Machine.execDas s
  | .mul w rm => Sys2Proof.Machine.execMul w rm s
  | .imulRm w rm => Sys2Proof.Machine.execImulRm w rm s
  | .imulImm reg rm imm => Sys2Proof.Machine.execImulImm reg rm imm s
  | .div w rm => Sys2Proof.Machine.execDiv w rm s
  | .idiv w rm => Sys2Proof.Machine.execIdiv w rm s
  | .aam => Sys2Proof.Machine.execAam s
  | .aad => Sys2Proof.Machine.execAad s
  | .cbw => Sys2Proof.Machine.execCbw s
  | .cwd => Sys2Proof.Machine.execCwd s
  | .rolOne w rm => Sys2Proof.Machine.execRolOne w rm s
  | .rolCl w rm => Sys2Proof.Machine.execRolCl w rm s
  | .rolImm w rm count => Sys2Proof.Machine.execRolImm w rm count s
  | .rorOne w rm => Sys2Proof.Machine.execRorOne w rm s
  | .rorCl w rm => Sys2Proof.Machine.execRorCl w rm s
  | .rorImm w rm count => Sys2Proof.Machine.execRorImm w rm count s
  | .rclOne w rm => Sys2Proof.Machine.execRclOne w rm s
  | .rclCl w rm => Sys2Proof.Machine.execRclCl w rm s
  | .rclImm w rm count => Sys2Proof.Machine.execRclImm w rm count s
  | .rcrOne w rm => Sys2Proof.Machine.execRcrOne w rm s
  | .rcrCl w rm => Sys2Proof.Machine.execRcrCl w rm s
  | .rcrImm w rm count => Sys2Proof.Machine.execRcrImm w rm count s
  | .shlOne w rm => Sys2Proof.Machine.execShlOne w rm s
  | .shlCl w rm => Sys2Proof.Machine.execShlCl w rm s
  | .shlImm w rm count => Sys2Proof.Machine.execShlImm w rm count s
  | .shrOne w rm => Sys2Proof.Machine.execShrOne w rm s
  | .shrCl w rm => Sys2Proof.Machine.execShrCl w rm s
  | .shrImm w rm count => Sys2Proof.Machine.execShrImm w rm count s
  | .sarOne w rm => Sys2Proof.Machine.execSarOne w rm s
  | .sarCl w rm => Sys2Proof.Machine.execSarCl w rm s
  | .sarImm w rm count => Sys2Proof.Machine.execSarImm w rm count s
  | .andRmReg toReg w rm reg => Sys2Proof.Machine.execAndRmReg toReg w rm reg s
  | .andRmImm rm imm => Sys2Proof.Machine.execAndRmImm rm imm s
  | .andAccImm imm => Sys2Proof.Machine.execAndAccImm imm s
  | .testRmReg w rm reg => Sys2Proof.Machine.execTestRmReg w rm reg s
  | .testRmImm rm imm => Sys2Proof.Machine.execTestRmImm rm imm s
  | .testAccImm imm => Sys2Proof.Machine.execTestAccImm imm s
  | .orRmReg toReg w rm reg => Sys2Proof.Machine.execOrRmReg toReg w rm reg s
  | .orRmImm rm imm => Sys2Proof.Machine.execOrRmImm rm imm s
  | .orAccImm imm => Sys2Proof.Machine.execOrAccImm imm s
  | .xorRmReg toReg w rm reg => Sys2Proof.Machine.execXorRmReg toReg w rm reg s
  | .xorRmImm rm imm => Sys2Proof.Machine.execXorRmImm rm imm s
  | .xorAccImm imm => Sys2Proof.Machine.execXorAccImm imm s
  | .not w rm => Sys2Proof.Machine.execNot w rm s
  | .movs w => Sys2Proof.Machine.execMovs w s
  | .cmps w => Sys2Proof.Machine.execCmps w s
  | .scas w => Sys2Proof.Machine.execScas w s
  | .lods w => Sys2Proof.Machine.execLods w s
  | .stos w => Sys2Proof.Machine.execStos w s
  | .ins w => Sys2Proof.Machine.execIns w s
  | .outs w => Sys2Proof.Machine.execOuts w s
  | .rep => Sys2Proof.Machine.execRep s
  | .repne => Sys2Proof.Machine.execRepne s
  | .callRel disp => Sys2Proof.Machine.execCallRel disp s
  | .callRm rm => Sys2Proof.Machine.execCallRm rm s
  | .callFar offset selector => Sys2Proof.Machine.execCallFar offset selector s
  | .callFarMem mem => Sys2Proof.Machine.execCallFarMem mem s
  | .jmpShort disp => Sys2Proof.Machine.execJmpShort disp s
  | .jmpRel disp => Sys2Proof.Machine.execJmpRel disp s
  | .jmpRm rm => Sys2Proof.Machine.execJmpRm rm s
  | .jmpFar offset selector => Sys2Proof.Machine.execJmpFar offset selector s
  | .jmpFarMem mem => Sys2Proof.Machine.execJmpFarMem mem s
  | .ret => Sys2Proof.Machine.execRet s
  | .retImm imm => Sys2Proof.Machine.execRetImm imm s
  | .retFar => Sys2Proof.Machine.execRetFar s
  | .retFarImm imm => Sys2Proof.Machine.execRetFarImm imm s
  | .jo disp => Sys2Proof.Machine.execJo disp s
  | .jno disp => Sys2Proof.Machine.execJno disp s
  | .jb disp => Sys2Proof.Machine.execJb disp s
  | .jnb disp => Sys2Proof.Machine.execJnb disp s
  | .je disp => Sys2Proof.Machine.execJe disp s
  | .jne disp => Sys2Proof.Machine.execJne disp s
  | .jbe disp => Sys2Proof.Machine.execJbe disp s
  | .jnbe disp => Sys2Proof.Machine.execJnbe disp s
  | .js disp => Sys2Proof.Machine.execJs disp s
  | .jns disp => Sys2Proof.Machine.execJns disp s
  | .jp disp => Sys2Proof.Machine.execJp disp s
  | .jnp disp => Sys2Proof.Machine.execJnp disp s
  | .jl disp => Sys2Proof.Machine.execJl disp s
  | .jnl disp => Sys2Proof.Machine.execJnl disp s
  | .jle disp => Sys2Proof.Machine.execJle disp s
  | .jnle disp => Sys2Proof.Machine.execJnle disp s
  | .loop disp => Sys2Proof.Machine.execLoop disp s
  | .loopz disp => Sys2Proof.Machine.execLoopz disp s
  | .loopnz disp => Sys2Proof.Machine.execLoopnz disp s
  | .jcxz disp => Sys2Proof.Machine.execJcxz disp s
  | .enter size level => Sys2Proof.Machine.execEnter size level s
  | .leave => Sys2Proof.Machine.execLeave s
  | .bound reg mem => Sys2Proof.Machine.execBound reg mem s
  | .int type => Sys2Proof.Machine.execInt type s
  | .int3 => Sys2Proof.Machine.execInt3 s
  | .into => Sys2Proof.Machine.execInto s
  | .iret => Sys2Proof.Machine.execIret s
  | .clc => Sys2Proof.Machine.execClc s
  | .cmc => Sys2Proof.Machine.execCmc s
  | .stc => Sys2Proof.Machine.execStc s
  | .cld => Sys2Proof.Machine.execCld s
  | .std => Sys2Proof.Machine.execStd s
  | .cli => Sys2Proof.Machine.execCli s
  | .sti => Sys2Proof.Machine.execSti s
  | .hlt => Sys2Proof.Machine.execHlt s
  | .wait => Sys2Proof.Machine.execWait s
  | .lock => Sys2Proof.Machine.execLock s
  | .seg sreg => Sys2Proof.Machine.execSeg sreg s
  | .cts => Sys2Proof.Machine.execCts s
  | .esc ttt lll rm => Sys2Proof.Machine.execEsc ttt lll rm s
  | .sldt rm => Sys2Proof.Machine.execSldt rm s
  | .str rm => Sys2Proof.Machine.execStr rm s
  | .lldt rm => Sys2Proof.Machine.execLldt rm s
  | .ltr rm => Sys2Proof.Machine.execLtr rm s
  | .verr rm => Sys2Proof.Machine.execVerr rm s
  | .verw rm => Sys2Proof.Machine.execVerw rm s
  | .sgdt mem => Sys2Proof.Machine.execSgdt mem s
  | .sidt mem => Sys2Proof.Machine.execSidt mem s
  | .lgdt mem => Sys2Proof.Machine.execLgdt mem s
  | .lidt mem => Sys2Proof.Machine.execLidt mem s
  | .smsw rm => Sys2Proof.Machine.execSmsw rm s
  | .lmsw rm => Sys2Proof.Machine.execLmsw rm s
  | .lar reg rm => Sys2Proof.Machine.execLar reg rm s
  | .lsl reg rm => Sys2Proof.Machine.execLsl reg rm s
  | .arpl rm reg => Sys2Proof.Machine.execArpl rm reg s

end Sys2Proof.Machine
end

