-- ==== Sys2Proof/Machine/Step.lean ====
section
/-! DEFINITION. One step of the machine: an instruction, a prefix, an element of a repeated string
instruction, one interrupt entry, one operand word for the processor extension, or nothing while the
machine waits. -/

namespace Sys2Proof.Machine

/-- The instruction at CS:IP run. -/
def State.runNext (s : State) : Host.Outcome State Fault Refusal :=
  match s.begin.fetch with
  | .run i t => endInstr i (exec i t)
  | .overrun => s.begin.takeException 13#8 0#16 .unchanged
  | .silent => .next s.begin.enterStuck
  | .unlisted => s.begin.unlistedOutcome
  | .hazard => .refused .modeSwitchHazard

/-- A step while running: no boundary lies between a prefix and its instruction (R633). -/
def State.runStep (s : State) : Host.Outcome State Fault Refusal :=
  if s.pre = Prefixes.none then
    match s.boundary with
    | some o => o
    | none => s.runNext
  else s.runNext

/-- What the processor itself does in a step, from the sampled state on. -/
def State.act (s : State) : Host.Outcome State Fault Refusal :=
  match s.run with
  | .resetActive => .next { s with run := .running }
  | .shutdown => s.shutdownStep
  | .halted => s.haltStep
  | .running => s.runStep
  | .stuck => .next s

/-- What happens in a step without RESET and other bus masters, from the sampled state on. -/
def State.work (s : State) : Host.Outcome State Fault Refusal := s.answered s.act

/-- One step. RESET comes before everything, also in the course of the step (R761). -/
def step (s : State) : Host.Outcome State Fault Refusal :=
  if s.pins.reset then .next s.applyReset
  else if s.pins.resetDuring then s.sample.resetOutcome s.sample.work
  else s.sample.settled s.sample.work

/-- Bytes stored in memory from an offset of the code segment on. -/
def State.withCode (s : State) (off : Word) : List Byte → State
  | [] => s
  | b :: bs =>
    ({ s with mem := Memory.write s.mem (s.physAddr (linear s.cs.base off)) b } : State).withCode
      (off + 1) bs

/-- s with the instruction of the opcode table's word w stored at CS:IP, where step fetches, and
nothing in the way of fetching it: no older code byte, no carry out of IP. -/
def State.withFetchWord (s : State) (nbits w : Nat) : State :=
  { s.withCode s.ip (fetchBytes nbits w) with stale := [], ipCarry := false }

end Sys2Proof.Machine
end

