-- ==== Sys2Proof/Safety.lean ====
section
/-! DEFINITION. The terms statements use: the invariant of the machine, what stays the same, and the
results the spec gives, said in numbers. -/

namespace Sys2Proof.Machine

/-! ## The invariant -/

/-- A segment register as real address mode has it: 64K bytes, read, written or executed (R48,
R105). -/
def SegReg.isReal (r : SegReg) : Bool :=
  r.limit == 0xFFFF#16 && r.ar == realRights && r.valid

/-- The invariant every step keeps: memory is in its canonical form, and in real address mode CPL is
0, IOPL and NT are 0 (R46, R226) and every segment is a 64K-byte one (R48). -/
def State.inv (s : State) : Bool :=
  Memory.wf s.mem &&
    (s.msw.pe ||
      (s.cpl == 0#2 && s.flags.iopl == 0#2 && !s.flags.nt && s.es.isReal && s.cs.isReal &&
        s.ss.isReal && s.ds.isReal))

/-! ## What stays the same -/

/-- Everything but the general registers, FLAGS and memory is as it was: IP, MSW, the segment
registers, every system register, the latches, the prefixes, the inputs and outputs. -/
def State.sameElse (s t : State) : Prop :=
  t = { s with regs := t.regs, flags := t.flags, mem := t.mem, stale := t.stale, stores := t.stores }

/-- Every byte of memory reads as it did. -/
def State.sameMemory (s t : State) : Prop :=
  (∀ a : Addr, t.readByte a = s.readByte a) ∧ t.mem = s.mem ∧ t.stale = s.stale ∧ t.stores = s.stores

/-- The n bytes from a on are RAM, so that what is stored there is kept (R118). -/
def State.isRam (s : State) (a : Addr) (n : Nat) : Bool :=
  (List.range n).all fun i => s.ramAt (s.physAddr (a + BitVec.ofNat 24 i))

/-- Two addresses name two locations: they differ, or where the system does not decode A23 to A20 in
real address mode their low 20 bits do (R104). -/
def State.apart (s : State) (a b : Addr) : Prop := s.physAddr a ≠ s.physAddr b

/-- Every byte of memory but the n bytes from a on reads as it did. -/
def State.sameMemoryBut (s t : State) (a : Addr) (n : Nat) : Prop :=
  ∀ b : Addr, (∀ i, i < n → s.apart b (a + BitVec.ofNat 24 i)) → t.readByte b = s.readByte b

/-- FLAGS but for the six status flags is as it was: TF, IF, DF, IOPL and NT. -/
def Flags.sameControl (f g : Flags) : Prop :=
  g.tf = f.tf ∧ g.intf = f.intf ∧ g.df = f.df ∧ g.iopl = f.iopl ∧ g.nt = f.nt

/-- A register of one width and a register of another share bits (R32). -/
def overlaps (w : Width) (n : RegNum) (w' : Width) (n' : RegNum) : Bool :=
  match w, w' with
  | .byte, .byte => n == n'
  | .byte, .word => n &&& 3#3 == n'
  | .word, .byte => n == n' &&& 3#3
  | .word, .word => n == n'

/-- Register n of width w holds v in t, and every register that shares no bit with it is as in s. -/
def State.onlyReg (s t : State) (w : Width) (n : RegNum) (v : Word) : Prop :=
  t.getReg w n = v ∧ ∀ w' n', overlaps w n w' n' = false → t.getReg w' n' = s.getReg w' n'

/-- The value of w.bytes bytes of memory, little endian (R120). -/
def State.memValue (s : State) (a : Addr) : Width → Word
  | .byte => zext16 (s.readByte a)
  | .word => s.readWord a

/-- The value the i-th read of w.bytes bytes finds (R15, R120, R132). -/
def State.busValue (s : State) (i : Nat) (a : Addr) : Width → Word
  | .byte => zext16 (s.busByte i a)
  | .word => s.busWord i a

/-- The physical address of a memory operand (R103, R109, R290, R292). -/
def State.memAddr (s : State) (m : Mem) : Addr := linear (s.seg (s.memSeg m)).base (s.ea m)

/-! ## What can be read: the checks pass and the locations answer (R708) -/

/-- The r/m operand may be accessed and answers. -/
def State.rmReady (s : State) (a : Access) (w : Width) (rm : RM) : Bool :=
  s.rmOk a w rm && s.rmAnswers w rm

/-- The byte or word at an offset may be read and answers. -/
def State.readReady (s : State) (r : SReg) (off : Word) (w : Width) : Bool :=
  s.accessOk .read r off w.bytes && s.answersAt (linear (s.seg r).base off) w.bytes

/-- The k words from an offset on answer. -/
def State.wordsAnswer (s : State) (r : SReg) (off : Word) (k : Nat) : Bool :=
  (List.range k).all fun i => s.answersAt (linear (s.seg r).base (off + BitVec.ofNat 16 (2 * i))) 2

/-- The operand of k words from an offset on may be read and answers. -/
def State.wordsReady (s : State) (r : SReg) (off : Word) (k : Nat) : Bool :=
  s.wordsOk .read r off k && s.wordsAnswer r off k

/-- A word may be popped at sp and answers. -/
def State.popReady (s : State) (sp : Word) : Bool :=
  s.popAdmitted sp && s.answersAt (linear s.ss.base sp) 2

/-! ## What an instruction leaves -/

/-- t holds v at a, where that is RAM, and is s in every other byte of memory. -/
def State.stored (s t : State) (a : Addr) (w : Width) (v : Word) : Prop :=
  (s.isRam a w.bytes = true → t.memValue a w = v) ∧ s.sameMemoryBut t a w.bytes

/-- t holds v at a, where that is RAM, and is s in every other byte of memory and in every general
register. -/
def State.onlyMem (s t : State) (a : Addr) (w : Width) (v : Word) : Prop :=
  t.regs = s.regs ∧ s.stored t a w v

/-- The r/m operand holds v in t; every other register and every other byte of memory is as in s. -/
def State.placed (s t : State) (w : Width) : RM → Word → Prop
  | .reg n, v => s.onlyReg t w n v ∧ s.sameMemory t
  | .mem m, v => s.onlyMem t (s.memAddr m) w v

/-- The general registers but one word register, which holds v. -/
def Regs.onlyWord (r r' : Regs) (n : Reg16) (v : Word) : Prop :=
  r'.get n = v ∧ ∀ m, m ≠ n → r'.get m = r.get m

/-! ## Results in numbers -/

/-- The integer an operand denotes (R13). -/
def signedValue (w : Width) (v : Word) : Int :=
  if v.toNat < 2 ^ (w.bits - 1) then v.toNat else (v.toNat : Int) - 2 ^ w.bits

/-- The low-order eight bits hold an even number of ones (R18). -/
def evenOnes (v : Word) : Prop := ((List.range 8).filter fun i => v.getLsbD i).length % 2 = 0

/-- ZF, SF and PF of a result (R18). -/
def Flags.ofResult (g : Flags) (w : Width) (r : Word) : Prop :=
  (g.zf = true ↔ r = 0#16) ∧ (g.sf = true ↔ 2 ^ (w.bits - 1) ≤ r.toNat) ∧
    (g.pf = true ↔ evenOnes r)

/-- The result of a + b + c and every flag of it but CF (R381). -/
def sumResult (w : Width) (a b : Word) (c : Nat) (r : Word) (g : Flags) : Prop :=
  r.toNat = (a.toNat + b.toNat + c) % 2 ^ w.bits ∧
    (g.af = true ↔ 16 ≤ a.toNat % 16 + b.toNat % 16 + c) ∧
    (g.of = true ↔ signedValue w r ≠ signedValue w a + signedValue w b + c) ∧ g.ofResult w r

/-- CF of a + b + c: the carry out of the top bit (R381). -/
def sumCarry (w : Width) (a b : Word) (c : Nat) (g : Flags) : Prop :=
  g.cf = true ↔ 2 ^ w.bits ≤ a.toNat + b.toNat + c

/-- The result of a - b - c and every flag of it but CF (R381). -/
def differenceResult (w : Width) (a b : Word) (c : Nat) (r : Word) (g : Flags) : Prop :=
  (r.toNat : Int) = ((a.toNat : Int) - b.toNat - c) % 2 ^ w.bits ∧
    (g.af = true ↔ a.toNat % 16 < b.toNat % 16 + c) ∧
    (g.of = true ↔ signedValue w r ≠ signedValue w a - signedValue w b - c) ∧ g.ofResult w r

/-- CF of a - b - c: the borrow (R381). -/
def differenceBorrow (a b : Word) (c : Nat) (g : Flags) : Prop :=
  g.cf = true ↔ a.toNat < b.toNat + c

/-- i answers a next state in which the destination holds a + b + c, with every status flag of the
sum, and nothing else has changed. -/
def addsInto (i : Instr) (s : State) (w : Width) (dst : RM) (a b : Word) (c : Nat) : Prop :=
  ∃ t r, exec i s = .next t ∧ s.placed t w dst r ∧ sumResult w a b c r t.flags ∧
    sumCarry w a b c t.flags ∧ s.flags.sameControl t.flags ∧ s.sameElse t

/-- i answers a next state in which the destination holds a - b - c, with every status flag of the
difference, and nothing else has changed. -/
def subtractsInto (i : Instr) (s : State) (w : Width) (dst : RM) (a b : Word) (c : Nat) : Prop :=
  ∃ t r, exec i s = .next t ∧ s.placed t w dst r ∧ differenceResult w a b c r t.flags ∧
    differenceBorrow a b c t.flags ∧ s.flags.sameControl t.flags ∧ s.sameElse t

/-- i answers a next state in which the flags are those of a - b and nothing else has changed. -/
def compares (i : Instr) (s : State) (w : Width) (a b : Word) : Prop :=
  ∃ t r, exec i s = .next t ∧ differenceResult w a b 0 r t.flags ∧
    differenceBorrow a b 0 t.flags ∧ s.flags.sameControl t.flags ∧ t = { s with flags := t.flags }

/-- The flags of a logical result: CF and OF 0, ZF, SF and PF of the result; AF is not said
(R439). -/
def Flags.logical (f g : Flags) (w : Width) (r : Word) : Prop :=
  g.cf = false ∧ g.of = false ∧ g.ofResult w r ∧ f.sameControl g

/-- i answers a next state in which the destination holds r, with the flags of a logical result,
and nothing else has changed. -/
def logicInto (i : Instr) (s : State) (w : Width) (dst : RM) (r : Word) : Prop :=
  ∃ t, exec i s = .next t ∧ s.placed t w dst r ∧ s.flags.logical t.flags w r ∧ s.sameElse t

/-- i answers a next state in which the destination holds r and nothing else has changed. -/
def movesInto (i : Instr) (s : State) (w : Width) (dst : RM) (r : Word) : Prop :=
  ∃ t, exec i s = .next t ∧ s.placed t w dst r ∧ t.flags = s.flags ∧ s.sameElse t

/-- i, run in s, answers a next state that is u but for the destination, which holds r. -/
def movesIntoFrom (i : Instr) (s u : State) (w : Width) (dst : RM) (r : Word) : Prop :=
  ∃ t, exec i s = .next t ∧ u.placed t w dst r ∧ t.flags = u.flags ∧ u.sameElse t

/-- The r/m operand read at a width as a vector of that width, for the rotates. -/
def ringByte (c : Bool) (v : Word) : BitVec 9 := BitVec.ofBool c ++ loByte v

/-- CF and a word as one 17-bit ring (R434, R435). -/
def ringWord (c : Bool) (v : Word) : BitVec 17 := BitVec.ofBool c ++ v

/-! ## Ports -/

/-- The bus operations, newest first, of a byte or word v at a port: a word at an odd port is two
byte operations, its low byte first and its high byte at the next port, which after FFFFh is 0000h (R112,
R123, R707, R712). -/
def portEvents (make : Nat → Width → Word → Event) (port : Word) (w : Width) (v : Word) : List Event :=
  if w = .word ∧ port.getLsbD 0 = true then
    [make ((port.toNat + 1) % 0x10000) .byte (v >>> 8), make port.toNat .byte (v &&& 0x00FF#16)]
  else [make port.toNat w v]

/-! ## The stack -/

/-- The physical address n bytes below the top of the stack. -/
def State.below (s : State) (n : Nat) : Addr := linear s.ss.base (s.regs.sp - BitVec.ofNat 16 n)

/-- The physical address n bytes above the top of the stack. -/
def State.above (s : State) (n : Nat) : Addr := linear s.ss.base (s.regs.sp + BitVec.ofNat 16 n)

/-- Push16 completes for k words: in protected mode each lies in the stack segment (R210) and SP does
not wrap (R372); no push has SP = 0001h in real address mode (R372). -/
def State.pushOk (s : State) (k : Nat) : Bool :=
  if s.msw.pe then s.ss.room s.regs.sp k
  else (List.range k).all fun i => s.regs.sp - BitVec.ofNat 16 (2 * i) != 1#16

/-- t has the words vs below the stack top of s, where that is RAM, in the order they were pushed,
and SP at the last; every other byte of memory is as in s. -/
def State.pushed (s t : State) (vs : List Word) : Prop :=
  t.regs.sp = s.regs.sp - BitVec.ofNat 16 (2 * vs.length) ∧
    (∀ i, i < vs.length → s.isRam (s.below (2 * (i + 1))) 2 = true →
      t.readWord (s.below (2 * (i + 1))) = vs.getD i 0#16) ∧
    ∀ b : Addr, (∀ i, i < 2 * vs.length → s.apart b (s.below (i + 1))) →
      t.readByte b = s.readByte b

/-! ## Control -/

/-- The state with IP at a target and what was prefetched discarded after every bus operation made so far
(R134, R138, R480). -/
def State.atIp (s : State) (target : Word) : State :=
  { s with ip := target, ipCarry := false, stale := [], flushed := some (s.time 63) }

/-- A conditional jump: to next_IP plus the displacement where the condition holds, exception 13 with
nothing changed where that is past the limit of CS in protected mode, else on to next_IP; nothing else
changes (R498). -/
def branches (i : Instr) (s : State) (cond : Prop) (disp : Byte) : Prop :=
  (cond → s.targetOk (s.ip + sext16 disp) = true →
      exec i s = .next (s.atIp (s.ip + sext16 disp))) ∧
    (cond → s.msw.pe = true → s.cs.limit < s.ip + sext16 disp →
      exec i s = s.takeException 13#8 0#16 .unchanged) ∧
    (¬cond → exec i s = .next s)

/-- The code segment register of a far transfer in real address mode (R481). -/
def realCs (sel : Word) : SegReg :=
  { sel := sel, base := BitVec.ofNat 24 (16 * sel.toNat), limit := 0xFFFF#16, ar := realRights,
    valid := true }

/-- The state at sel:off in real address mode (R481). -/
def State.atFar (s : State) (sel off : Word) : State := { s.atIp off with cs := realCs sel }

/-- An index register moved by one element: up with DF = 0, down with DF = 1 (R460). -/
def State.nextIndex (s : State) (w : Width) (x : Word) : Word :=
  if s.flags.df then x - BitVec.ofNat 16 w.bytes else x + BitVec.ofNat 16 w.bytes

/-! ## Descriptors -/

/-- A descriptor that DS and ES admit for this selector, present or not (R191). -/
def dataAdmits (cpl : BitVec 2) (sel : Word) (d : Desc) : Prop :=
  arSegment d.ar = true ∧ (arExec d.ar = true → arRw d.ar = true) ∧
    (arExec d.ar = true ∧ arDirConf d.ar = true ∨
      (cpl ≤ arDpl d.ar ∧ rpl sel ≤ arDpl d.ar))

/-- A descriptor that SS admits for this selector, present or not (R192). -/
def stackAdmits (cpl : BitVec 2) (sel : Word) (d : Desc) : Prop :=
  rpl sel = cpl ∧ arSegment d.ar = true ∧ arExec d.ar = false ∧ arRw d.ar = true ∧
    arDpl d.ar = cpl

/-- A descriptor that SS accepts for this selector (R192). -/
def stackLoadable (cpl : BitVec 2) (sel : Word) (d : Desc) : Prop :=
  stackAdmits cpl sel d ∧ arPresent d.ar = true

/-- A descriptor that a segment register admits for this selector, present or not. -/
def segAdmits (r : SReg) (cpl : BitVec 2) (sel : Word) (d : Desc) : Prop :=
  if r = .ss then stackAdmits cpl sel d else dataAdmits cpl sel d

/-- A code descriptor that JMP and CALL reach directly (R231). -/
def codeReachable (cpl : BitVec 2) (sel : Word) (d : Desc) : Prop :=
  arSegment d.ar = true ∧ arExec d.ar = true ∧
    (if arDirConf d.ar then arDpl d.ar ≤ cpl else rpl sel ≤ cpl ∧ arDpl d.ar = cpl) ∧
    arPresent d.ar = true

/-- The cache of a loaded descriptor: its base and limit, its rights with A set (R191). -/
def SegReg.loadedFrom (r : SegReg) (sel : Word) (d : Desc) : Prop :=
  r.sel = sel ∧ r.base = d.base ∧ r.limit = d.limit ∧ r.ar = d.ar ||| 1#8 ∧ r.valid = true

/-- The access rights byte of the descriptor d, read at a, after its accessed bit is set in memory: d's
with the bit, and as it was where d has it (R160). -/
def State.accessedByte (s : State) (a : Addr) (d : Desc) : Byte :=
  if arAccessed d.ar then s.readByte (a + 5) else d.ar ||| 1#8

/-- t has the accessed bit of the descriptor d, read at a, set in memory, where that is RAM, and is s in
every other byte of memory (R160). -/
def State.accessedAt (s t : State) (a : Addr) (d : Desc) : Prop :=
  (s.isRam (a + 5) 1 = true → t.readByte (a + 5) = s.accessedByte a d) ∧
    s.sameMemoryBut t (a + 5) 1

/-- A code descriptor that a return reaches at the level its selector names (R238). -/
def returnAdmits (sel : Word) (d : Desc) : Prop :=
  arSegment d.ar = true ∧ arExec d.ar = true ∧
    (if arDirConf d.ar then arDpl d.ar ≤ rpl sel else arDpl d.ar = rpl sel)

/-- i, run in protected mode in s, loads DS, ES or SS with sel, and leaves u otherwise: DS and ES take
a null selector and are not valid with it (R196); a null selector in SS is exception 13 with code 0,
one outside its table or with a descriptor that does not fit exception 13, and one whose segment is
absent exception 12 in SS and 11 in DS and ES, each with nothing changed (R191, R192); any other loads
the descriptor and sets its accessed bit (R160), and SS inhibits interrupts (R64). -/
def loadsSegment (i : Instr) (s u : State) (r : SReg) (sel : Word) : Prop :=
  let fails := fun (v : Byte) (code : Word) => exec i s = s.takeException v code .unchanged
  (isNull sel = true → r = .ss → fails 13#8 0#16) ∧
  (isNull sel = true → r ≠ .ss →
    exec i s = .next (u.setSeg r { s.seg r with sel := sel, valid := false })) ∧
  (isNull sel = false → s.descAddr sel = none → fails 13#8 (sel &&& 0xFFFC#16)) ∧
  ∀ a : Addr, isNull sel = false → s.descAddr sel = some a → s.answersAt a 6 = true →
    let d := s.busDesc 2 a
    (¬segAdmits r s.cpl sel d → fails 13#8 (sel &&& 0xFFFC#16)) ∧
    (segAdmits r s.cpl sel d → arPresent d.ar = false →
      fails (if r = .ss then 12#8 else 11#8) (sel &&& 0xFFFC#16)) ∧
    (segAdmits r s.cpl sel d → arPresent d.ar = true →
      ∃ t, exec i s = .next t ∧ (t.seg r).loadedFrom sel d ∧ s.accessedAt t a d ∧
        t = { u.setSeg r (t.seg r) with
          mem := t.mem, stale := t.stale, stores := t.stores, intInhibit := s.intInhibit || r == .ss })

/-- i is a far JMP or CALL to sel:off, its pointer in the instruction or in memory (R484, R485, R490,
R491). -/
def State.farTransfer (s : State) (i : Instr) (call : Bool) (off sel : Word) : Prop :=
  i = (if call then .callFar off sel else .jmpFar off sel) ∨
    ∃ m, i = (if call then .callFarMem m else .jmpFarMem m) ∧
      s.wordsReady (s.memSeg m) (s.ea m) 2 = true ∧ off = s.busWord 0 (s.memAddr m) ∧
      sel = s.busWord 1 (linear (s.seg (s.memSeg m)).base (s.ea m + 2))

/-- The task state segment has a stack newSS:newSP for a level, with its descriptor at k and room for
n words (R236). -/
def State.innerStackAt (s : State) (level : BitVec 2) (newSs newSp : Word) (k : Addr) (n : Nat) :
    Prop :=
  4 * level.toNat + 5 ≤ s.tr.limit.toNat ∧
    s.answersAt (s.tr.base + BitVec.ofNat 24 (2 + 4 * level.toNat)) 4 = true ∧
    newSp = s.tssWord s.tr.base (2 + 4 * level.toNat) ∧
    newSs = s.tssWord s.tr.base (4 + 4 * level.toNat) ∧ isNull newSs = false ∧
    s.descAddr newSs = some k ∧ s.answersAt k 6 = true ∧
    stackLoadable level newSs (s.busDesc 12 k) ∧
    (SegReg.ofDesc newSs (s.busDesc 12 k)).room newSp n = true

/-- t runs at sel:off at the more privileged level of the code segment whose descriptor is d, read at c,
on the stack newSS:newSP whose descriptor is e, read at k, with a frame of words pushed there in order;
DS, ES, the other registers and every other byte of memory but the accessed bits are as in s (R236,
R645). -/
def State.entersInner (s t : State) (sel off : Word) (c : Addr) (d : Desc) (newSs newSp : Word)
    (k : Addr) (e : Desc) (frame : List Word) : Prop :=
  let level := arDpl d.ar
  let cell := fun n : Nat => linear e.base (newSp - BitVec.ofNat 16 n)
  t.cpl = level ∧ t.ss.loadedFrom newSs e ∧
    t.regs = { s.regs with sp := newSp - BitVec.ofNat 16 (2 * frame.length) } ∧
    t.cs.loadedFrom ((sel &&& 0xFFFC#16) ||| level.setWidth 16) d ∧ t.ip = off ∧
    t.ds = s.ds ∧ t.es = s.es ∧
    (∀ b : Addr, b ≠ c + 5 → b ≠ k + 5 → (∀ i, i < 2 * frame.length → b ≠ cell (i + 1)) →
      t.readByte b = s.readByte b) ∧
    (∀ x ∈ [(c, d), (k, e)], c ≠ k → s.isRam (x.1 + 5) 1 = true →
      (∀ i, i < 2 * frame.length → x.1 + 5 ≠ cell (i + 1)) →
      t.readByte (x.1 + 5) = s.accessedByte x.1 x.2) ∧
    (∀ i, i < frame.length → s.isRam (cell (2 * (i + 1))) 2 = true → c + 5 ≠ cell (2 * (i + 1)) →
      c + 5 ≠ cell (2 * (i + 1)) + 1 → t.readWord (cell (2 * (i + 1))) = frame.getD i 0#16)

/-- A descriptor a selector test can see (R606). -/
def testVisible (s : State) (sel : Word) (d : Desc) : Prop :=
  (arSegment d.ar = true ∧ arExec d.ar = true ∧ arDirConf d.ar = true) ∨
    (s.cpl ≤ arDpl d.ar ∧ rpl sel ≤ arDpl d.ar)

end Sys2Proof.Machine
end

