-- ==== Sys2Proof/Certificates/Slice0/Obligations.lean ====
section
/-! DEFINITION. The statements, from the numbered rules of spec/. -/

open Sys2Proof Sys2Proof.Machine

/-! ## The machine as a whole -/

/-- R280 to R299, R310 to R313: decoding what the encoder writes for a well-formed instruction gives
that instruction, with every operand at every value, and leaves the bytes after it. -/
def Obligations.EncodedInstructionsDecode : Prop :=
  ∀ (i : Instr) (rest : List Byte), i.wellFormed = true → decode (encode i ++ rest) = .ok i rest

/-- R280, R282: bytes that decode are the encoding of what they decode to, and that is well formed:
no two byte sequences stand for one instruction. -/
def Obligations.DecodedBytesAreTheEncoding : Prop :=
  ∀ (bytes : List Byte) (i : Instr) (rest : List Byte), decode bytes = .ok i rest →
    i.wellFormed = true ∧ encode i ++ rest = bytes

/-- R46, R48, R91, R226: from every state that meets the invariant a step leads to one that meets
it, an exception entry, an interrupt and a reset included. The model's own choices in it are those
of notes/assumptions/3.md, 4.md. -/
def Obligations.EveryStepKeepsTheInvariant : Prop :=
  ∀ s t : State, s.inv = true → step s = .next t → t.inv = true

/-- R70 to R75: the machine right after reset meets the invariant. The model's own choices in it are
those of notes/assumptions/3.md, 4.md. -/
def Obligations.ResetMeetsTheInvariant : Prop :=
  State.reset.inv = true

/-- R227, R604: only RESET leaves protected mode. -/
def Obligations.ProtectedModeIsNotLeft : Prop :=
  ∀ s t : State, s.msw.pe = true → s.pins.reset = false → s.pins.resetDuring = false →
    step s = .next t → t.msw.pe = true

/-- R53, R55, R56: PE, MP and EM are written by LMSW alone, GDTR by LGDT alone, IDTR by LIDT alone:
whatever else an instruction does, an exception or a task switch included, leaves them. -/
def Obligations.ControlRegistersHaveOneWriter : Prop :=
  ∀ (i : Instr) (s t : State), exec i s = .next t →
    ((∀ rm, i ≠ .lmsw rm) →
      t.msw.pe = s.msw.pe ∧ t.msw.mp = s.msw.mp ∧ t.msw.em = s.msw.em) ∧
    ((∀ m, i ≠ .lgdt m) → t.gdtr = s.gdtr) ∧ ((∀ m, i ≠ .lidt m) → t.idtr = s.idtr)

/-- R17, R20, R36, R64, R65, R136, R137, R708: where no reset, halt or boundary event comes first
and the bytes at CS:IP decode to an instruction that is listed there, a step is that instruction's
own meaning, run with IP past its bytes and with their carry out of IP, the address an exception
saves at its first prefix, TF and INTR as they were there, the interrupt inhibit and the hazard
after LMSW ended unless it is a prefix, and the prefixes used up after it unless it is one. Where
the code segment ends before the instruction does, or the bytes before it reach offset FFFFh, a step
is exception 13 with code 0 and nothing changed; where the fetch of the next byte, at an even address
that of a whole word, is never answered, the step waits for ever. What other bus masters store is put in
at the end, and is nothing where there is no such store; where every location answers no store or
prefetch waits for ever. That the end of the segment comes first, and is exception 13 and not 6, for a
protected-mode instruction in real address mode whose displacement lies past it is the model's choice
(notes/assumptions/36.md). The model's own choices in it are those of notes/assumptions/3.md, 6.md, 18.md,
31.md, 32.md, 36.md. -/
def Obligations.AStepRunsTheDecodedInstruction : Prop :=
  ∀ s : State, s.pins.reset = false → s.pins.resetDuring = false → s.run = .running →
    (s.pre = Prefixes.none → s.sample.boundary = none) →
    let first := s.pre = Prefixes.none
    let u : State := { s.sample with
      curIp := if first then s.ip else s.curIp
      tfAtStart := if first then s.flags.tf else s.tfAtStart
      intrHeld := if first then s.pins.intr else s.intrHeld
      boundaryStep := if first then 0 else s.boundaryStep }
    (∀ (i : Instr) (rest : List Byte), decode u.codeBytes = .ok i rest →
      hazardFree s i = true → prefixListed s.pre i = true →
      let n := u.codeBytes.length - rest.length
      let begun : State := { u with
        ip := s.ip + BitVec.ofNat 16 n
        ipCarry := decide (0x10000 ≤ (if s.ipCarry then 0x10000 else 0) + s.ip.toNat + n)
        intInhibit := isPrefix i && s.intInhibit
        modeSwitch := isPrefix i && s.modeSwitch }
      step s = s.sample.settled (s.sample.answered (match exec i begun with
        | .next t => .next { t with pre := if isPrefix i then t.pre else Prefixes.none }
        | o => o))) ∧
    (decode u.codeBytes = .truncated ∧ u.codeSilent = false ∨ s.ipCarry = true →
      s.modeSwitch = false →
      step s = s.sample.settled (s.sample.answered (u.takeException 13#8 0#16 .unchanged))) ∧
    (decode u.codeBytes = .truncated → u.codeSilent = true →
      step s = s.sample.settled (s.sample.answered (.next { u with run := .stuck }))) ∧
    (s.platform.otherMasters = false ∨ s.pins.masterStores = [] →
      ∀ o : Host.Outcome State Fault Refusal, s.sample.settled o = o) ∧
    ((∀ k, s.platform.kindAt k ≠ .silent) →
      ∀ o : Host.Outcome State Fault Refusal, s.sample.answered o = o)

/-- R310 to R312: words written out from the encodings of the rows decode to the rows'
instructions. -/
def Obligations.SampleEncodingsDecode : Prop :=
  decode [0x89#8, 0xD8#8] = .ok (.movRmReg .word (.reg 0#3) 3#3) [] ∧
    decode [0x83#8, 0xC3#8, 0xFF#8] = .ok (.addRmImm (.reg 3#3) (.wordS 0xFF#8)) [] ∧
    decode [0xD1#8, 0x26#8, 0x34#8, 0x12#8] =
      .ok (.shlOne .word (.mem (.direct 0x1234#16))) [] ∧
    decode [0xA5#8] = .ok (.movs .word) [] ∧
    decode [0x9A#8, 0x00#8, 0x02#8, 0x00#8, 0x30#8] = .ok (.callFar 0x0200#16 0x3000#16) [] ∧
    decode [0xC8#8, 0x04#8, 0x00#8, 0x01#8] = .ok (.enter 4#16 1#8) [] ∧
    decode [0xD9#8, 0x06#8, 0x00#8, 0x10#8] = .ok (.esc 1#3 0#3 (.mem (.direct 0x1000#16))) [] ∧
    decode [0x0F#8, 0x01#8, 0x16#8, 0x00#8, 0x08#8] = .ok (.lgdt (.direct 0x0800#16)) []

/-- R70, R71: the registers and the interrupt table base and limit after reset. -/
def Obligations.ResetRegisters : Prop :=
  (State.reset.flags.toWord = 0x0002#16 ∧ State.reset.msw.toWord = 0xFFF0#16 ∧
    State.reset.ip = 0xFFF0#16 ∧ State.reset.cs.sel = 0xF000#16 ∧ State.reset.ds.sel = 0#16 ∧
    State.reset.es.sel = 0#16 ∧ State.reset.ss.sel = 0#16) ∧
  (State.reset.idtr.base = 0#24 ∧ State.reset.idtr.limit = 0x03FF#16)

/-- R74, R760, R761: while RESET is active a step gives every register its reset value and leaves
memory, whatever the machine was doing. Where RESET becomes active in the course of a step the
registers take their reset values too, memory has the first of the step's stores, in their order, and
none of the others, and the first of the operations that leave the machine have left it. The model's own
choices in it are those of notes/assumptions/4.md, 22.md, 31.md. -/
def Obligations.ResetFromAnyState : Prop :=
  let registersReset := fun t : State => t.run = .resetActive ∧ t.ip = 0xFFF0#16 ∧
    t.cs = State.reset.cs ∧ t.ds = State.reset.ds ∧ t.es = State.reset.es ∧
    t.ss = State.reset.ss ∧ t.flags = State.reset.flags ∧ t.msw = State.reset.msw ∧
    t.idtr = State.reset.idtr ∧ t.cpl = 0#2 ∧ t.nmiPending = false ∧ t.nmiInService = false
  (∀ s : State, s.pins.reset = true →
    ∃ t, step s = .next t ∧ registersReset t ∧ t.platform = s.platform ∧ t.mem = s.mem) ∧
  (∀ s u : State, s.pins.reset = false → s.pins.resetDuring = true → s.sample.work = .next u →
    ∃ t, step s = .next t ∧ registersReset t ∧ t.pins.reset = true ∧ t.platform = s.platform ∧
      (s.platform.otherMasters = false ∨ s.pins.masterStores = [] →
        ∃ n k, n ≤ u.stores.length ∧
          t.mem = ((u.stores.reverse.take n).map Store.cells).foldl s.storeCells s.mem ∧
          t.out = u.out.drop k))

/-- R15, R118, R120, R123, R125, R129, R130, R132, R145, R708: a word is stored with its low byte at the
lower address and, where that is RAM, reads back; a store leaves every other byte alone, and the canonical
form of memory is kept. At an even address it is one bus operation, at an odd one two, the low byte first.
A read finds what memory holds once some of the other masters' operations have been made, later reads no
fewer of them, and under a LOCK prefix none between them but where it does not remain active between two
operand transfers; the words of one descriptor find the same of them, and so do the two bytes of a word at
an even address, in a locked read or under a LOCK prefix, while between the two of another word come only
those of masters that do not use HOLD. An operand at a location that never answers
is waited for, before a store there has any effect, and only RESET ends that. The model's own choices in
it are those of notes/assumptions/3.md, 8.md, 31.md. -/
def Obligations.WordsOnTheBus : Prop :=
  (∀ (s : State) (a : Addr) (v : Word),
    (s.isRam a 2 = true →
      (s.writeWord a v).readByte a = v.setWidth 8 ∧
      (s.writeWord a v).readByte (a + 1) = (v >>> 8).setWidth 8 ∧
      (s.writeWord a v).readWord a = v) ∧
    (∀ k, s.ramAt k = false → (s.writeWord a v).byteAt k = s.byteAt k) ∧
    s.sameMemoryBut (s.writeWord a v) a 2 ∧
    (Memory.wf s.mem = true → Memory.wf (s.writeWord a v).mem = true) ∧
    (let lo : Byte := v.setWidth 8
    let hi : Byte := (v >>> 8).setWidth 8
    (s.writeWord a v).stores.map Store.cells =
      (if a.toNat % 2 = 0 then [[(a, lo), (a + 1, hi)]] else [[(a + 1, hi)], [(a, lo)]]) ++
        s.stores.map Store.cells)) ∧
  (∀ s : State, s.stores = [] → s.clock.base = 0 → s.clock.held = none →
    let first := s.passed 0
    let after := fun n : Nat =>
      ({ s with mem := s.otherStores s.mem ((s.masterOps.take n).drop first) } : State)
    ∃ n m : Nat → Nat, ∀ i : Nat,
      (first ≤ n i ∧ n i ≤ m i ∧ m i ≤ n (i + 1) ∧ m i ≤ s.masterOps.length) ∧
      (s.pre.lock = true → (2 * i < BusClock.delivery → m i = n i) ∧
        (2 * i ≤ s.clock.apart → n i = first)) ∧
      (∀ op ∈ (s.masterOps.take (m i)).drop (n i), op.hold = false) ∧
      ∀ a : Addr, (∀ b, s.platform.kindAt (s.physAddr b) ≠ .undriven) →
        s.busByte i a = (after (n i)).readByte a ∧ s.lockedWord i a = (after (n i)).readWord a ∧
        (s.busDesc i a).w0 = (after (n i)).readWord a ∧
        (s.busDesc i a).w1 = (after (n i)).readWord (a + 2) ∧
        (s.busDesc i a).w2 = (after (n i)).readWord (a + 4) ∧
        s.busWord i a = mkWord ((after (n i)).readByte a)
          ((after (if a.toNat % 2 = 0 then n i else m i)).readByte (a + 1))) ∧
  ((∀ (s : State) (w : Width) (reg : RegNum) (m : Mem), s.rmOk .read w (.mem m) = true →
      s.rmAnswers w (.mem m) = false →
      exec (.movRegRm w reg (.mem m)) s = .next { s with run := .stuck }) ∧
    (∀ (s : State) (w : Width) (reg : RegNum) (m : Mem), s.stores = [] →
      s.rmOk .write w (.mem m) = true → s.platform.kindAt (s.physAddr (s.memAddr m)) = .silent →
      ∃ t u, exec (.movRmReg w (.mem m) reg) s = .next t ∧ s.answered (.next t) = .next u ∧
        u.run = .stuck ∧ u.mem = s.mem ∧ u.out = s.out) ∧
    (∀ s : State, s.run = .stuck → s.pins.reset = false → s.pins.resetDuring = false →
      ∃ t, step s = .next t ∧ t.run = .stuck ∧ t.regs = s.regs ∧ t.ip = s.ip ∧ t.out = s.out ∧
        (s.platform.otherMasters = false ∨ s.pins.masterStores = [] → t.mem = s.mem)))

/-! ## Data transfer -/

/-- R341 to R345, R347, R348: MOV in its general, immediate, accumulator and store-segment forms:
the destination takes the source and nothing else changes. -/
def Obligations.Moves : Prop :=
  ((∀ (s : State) (w : Width) (rm : RM) (reg : RegNum), s.rmOk .write w rm = true →
    movesInto (.movRmReg w rm reg) s w rm (s.getReg w reg)) ∧
  (∀ (s : State) (rm : RM) (imm : Imm), s.rmOk .write imm.width rm = true →
    movesInto (.movRmImm rm imm) s imm.width rm imm.value) ∧
  (∀ (s : State) (rm : RM) (r : SReg), s.rmOk .write .word rm = true →
    movesInto (.movRmSreg rm r) s .word rm (s.seg r).sel)) ∧
  ((∀ (s : State) (w : Width) (reg : RegNum) (rm : RM), s.rmReady .read w rm = true →
    movesInto (.movRegRm w reg rm) s w (.reg reg) (s.rmValue w rm)) ∧
  (∀ (s : State) (reg : RegNum) (imm : Imm),
    movesInto (.movRegImm reg imm) s imm.width (.reg reg) imm.value) ∧
  (∀ (s : State) (w : Width) (off : Word),
    s.readReady (s.overridden .ds) off w = true →
    movesInto (.movAccMem w off) s w (.reg 0#3)
      (s.busValue 0 (linear (s.seg (s.overridden .ds)).base off) w)) ∧
  (∀ (s : State) (w : Width) (off : Word),
    s.accessOk .write (s.overridden .ds) off w.bytes = true →
    ∃ t, exec (.movMemAcc w off) s = .next t ∧
      s.onlyMem t (linear (s.seg (s.overridden .ds)).base off) w (s.getReg w 0#3) ∧
      t.flags = s.flags ∧ s.sameElse t))

/-- R48, R346, R352, R366, R367: a segment register loaded in real address mode has the selector
times 16 as its base and nothing is read for it; a load of SS sets the interrupt inhibit. The
model's own choices in it are those of notes/assumptions/4.md. -/
def Obligations.SegmentLoadsInRealMode : Prop :=
  ∀ s : State, s.msw.pe = false →
    (∀ (r : SReg) (rm : RM), r ≠ .cs → s.rmReady .read .word rm = true →
      exec (.movSregRm r rm) s =
        .next { s.setSeg r (realCs (s.rmValue .word rm)) with
          intInhibit := s.intInhibit || r == .ss }) ∧
    (s.readReady .ss s.regs.sp .word = true →
      let v := s.busWord 0 (s.above 0)
      let u := s.setSp (s.regs.sp + 2)
      exec .popEs s = .next { u with es := realCs v } ∧
      exec .popDs s = .next { u with ds := realCs v } ∧
      exec .popSs s = .next { u with ss := realCs v, intInhibit := true }) ∧
    (∀ (reg : RegNum) (m : Mem), s.wordsReady (s.memSeg m) (s.ea m) 2 = true →
      let base := (s.seg (s.memSeg m)).base
      let off := s.busWord 0 (linear base (s.ea m))
      let sel := s.busWord 1 (linear base (s.ea m + 2))
      exec (.lds reg m) s = .next { s.setReg .word reg off with ds := realCs sel } ∧
      exec (.les reg m) s = .next { s.setReg .word reg off with es := realCs sel })

/-- R64, R160, R191, R192, R196, R197, R200, R346, R352, R366, R367: DS, ES or SS loaded in protected
mode by MOV, by POP and, for DS and ES, by LDS and LES, with any selector: where its descriptor passes
the tests it goes into the cache and the accessed bit is set in memory; a null selector marks DS or ES
not valid and is exception 13 with code 0 in SS; any other is exception 13, and where the segment is
absent 11 in DS and ES and 12 in SS, with the selector as the code and nothing changed. The model's own
choices in it are those of notes/assumptions/12.md. -/
def Obligations.SegmentLoadsInProtectedMode : Prop :=
  ∀ s : State, s.msw.pe = true →
    (∀ (r : SReg) (rm : RM), r ≠ .cs → s.rmReady .read .word rm = true →
      loadsSegment (.movSregRm r rm) s s r (s.rmValue .word rm)) ∧
    (s.popReady s.regs.sp = true →
      let sel := s.busWord 0 (s.above 0)
      let u := s.setSp (s.regs.sp + 2)
      loadsSegment .popDs s u .ds sel ∧ loadsSegment .popEs s u .es sel ∧
        loadsSegment .popSs s u .ss sel) ∧
    (∀ (reg : RegNum) (m : Mem), s.wordsReady (s.memSeg m) (s.ea m) 2 = true →
      let u := s.setReg .word reg (s.busWord 0 (s.memAddr m))
      let sel := s.busWord 1 (linear (s.seg (s.memSeg m)).base (s.ea m + 2))
      loadsSegment (.lds reg m) s u .ds sel ∧ loadsSegment (.les reg m) s u .es sel)

/-- R16, R41 to R45, R349 to R351, R353, R370: PUSH stores the operand's value from before the
instruction below the top of the stack and moves SP to it. The word PUSHF stores has the flags at
their places, bit 1 set and bits 3, 5 and 15 clear. The model's own choices in it are those of
notes/assumptions/30.md. -/
def Obligations.PushesAndTheFlagsWord : Prop :=
  (∀ s : State, s.pushOk 1 = true →
    (∀ (i : Instr) (v : Word),
      ((∃ rm, i = .pushRm rm ∧ s.rmReady .read .word rm = true ∧ v = s.rmValue .word rm) ∨
        (∃ reg, i = .pushReg reg ∧ v = s.regs.get (reg16Of reg)) ∨
        (∃ r, i = .pushSreg r ∧ v = (s.seg r).sel) ∨
        (∃ imm, i = .pushImm imm ∧ v = imm.value) ∨
        (i = .pushf ∧ v = s.flags.toWord)) →
      ∃ t, exec i s = .next t ∧ s.pushed t [v] ∧ s.regs.onlyWord t.regs .sp (s.regs.sp - 2) ∧
        t.flags = s.flags ∧ s.sameElse t)) ∧
  (∀ f : Flags,
    f.toWord.getLsbD 0 = f.cf ∧ f.toWord.getLsbD 1 = true ∧ f.toWord.getLsbD 2 = f.pf ∧
    f.toWord.getLsbD 3 = false ∧ f.toWord.getLsbD 4 = f.af ∧ f.toWord.getLsbD 5 = false ∧
    f.toWord.getLsbD 6 = f.zf ∧ f.toWord.getLsbD 7 = f.sf ∧ f.toWord.getLsbD 8 = f.tf ∧
    f.toWord.getLsbD 9 = f.intf ∧ f.toWord.getLsbD 10 = f.df ∧ f.toWord.getLsbD 11 = f.of ∧
    f.toWord.extractLsb' 12 2 = f.iopl ∧ f.toWord.getLsbD 14 = f.nt ∧
    f.toWord.getLsbD 15 = false ∧ Flags.ofWord f.toWord = f)

/-- R354, R357: PUSHA pushes AX, CX, DX, BX, the old SP, BP, SI, DI; POPA pops them in the opposite
order and skips SP's word, which it does not read: in protected mode SP must not wrap there. The model's
own choices in it are those of notes/assumptions/13.md. -/
def Obligations.PushAllAndPopAll : Prop :=
  (∀ s : State, s.pushOk 8 = true → ∃ t, exec .pusha s = .next t ∧
    s.pushed t [s.regs.ax, s.regs.cx, s.regs.dx, s.regs.bx, s.regs.sp, s.regs.bp, s.regs.si,
      s.regs.di] ∧
    s.regs.onlyWord t.regs .sp (s.regs.sp - 16) ∧ t.flags = s.flags ∧ s.sameElse t) ∧
  (∀ s : State,
    (∀ i, i < 8 → i ≠ 3 → s.popReady (s.regs.sp + BitVec.ofNat 16 (2 * i)) = true) →
    (s.msw.pe = true → (s.regs.sp + 6).toNat < 0xFFFE) →
    exec .popa s = .next { s with regs :=
      { di := s.busWord 0 (s.above 0), si := s.busWord 1 (s.above 2), bp := s.busWord 2 (s.above 4)
        sp := s.regs.sp + 16, bx := s.busWord 4 (s.above 8), dx := s.busWord 5 (s.above 10)
        cx := s.busWord 6 (s.above 12), ax := s.busWord 7 (s.above 14) } })

/-- R216, R355, R356, R371: POP writes the word at the top of the stack after SP has moved past it,
so that POP SP leaves the popped word. POPF loads the flags: in protected mode IF keeps its value if
CPL > IOPL and IOPL its value if CPL is not 0; in real address mode IOPL and NT keep theirs. -/
def Obligations.PopsAndPopFlags : Prop :=
  (∀ s : State, s.popReady s.regs.sp = true →
    (∀ reg : RegNum,
      movesIntoFrom (.popReg reg) s (s.setSp (s.regs.sp + 2)) .word (.reg reg)
        (s.busWord 0 (s.above 0))) ∧
    (∀ rm : RM, s.rmOk .write .word rm = true →
      movesIntoFrom (.popRm rm) s (s.setSp (s.regs.sp + 2)) .word rm (s.busWord 0 (s.above 0)))) ∧
  (∀ s : State, s.popReady s.regs.sp = true →
    let g := Flags.ofWord (s.busWord 0 (s.above 0))
    exec .popf s = .next { s with
      regs := { s.regs with sp := s.regs.sp + 2 }
      flags :=
        if s.msw.pe then
          { g with
            intf := if s.cpl ≤ s.flags.iopl then g.intf else s.flags.intf
            iopl := if s.cpl = 0#2 then g.iopl else s.flags.iopl }
        else { g with iopl := s.flags.iopl, nt := s.flags.nt } })

/-- R46: POPF and IRET in real address mode leave bits 12, 13 and 14 of FLAGS, IOPL and NT, as they
are, and reset leaves them 0. -/
def Obligations.RealModeKeepsIoplAndNt : Prop :=
  State.reset.flags.toWord.extractLsb' 12 3 = 0#3 ∧
    ∀ (s t : State), s.msw.pe = false → (exec .popf s = .next t ∨ exec .iret s = .next t) →
      t.flags.toWord.extractLsb' 12 3 = s.flags.toWord.extractLsb' 12 3

/-- R358, R359, R578: XCHG swaps its operands, register forms and memory forms, reading a word in
memory in one locked sequence; NOP changes nothing. -/
def Obligations.Exchanges : Prop :=
  (∀ (s : State) (w : Width) (n reg : RegNum), ∃ t,
    exec (.xchgRmReg w (.reg n) reg) s = .next t ∧ t.getReg w n = s.getReg w reg ∧
      t.getReg w reg = s.getReg w n ∧
      (∀ v m, overlaps w n v m = false → overlaps w reg v m = false →
        t.getReg v m = s.getReg v m) ∧
      t = { s with regs := t.regs }) ∧
  (∀ (s : State) (w : Width) (m : Mem) (reg : RegNum), s.rmReady .write w (.mem m) = true → ∃ t,
    exec (.xchgRmReg w (.mem m) reg) s = .next t ∧ s.onlyReg t w reg (s.lockedValue w (.mem m)) ∧
      s.stored t (s.memAddr m) w (s.getReg w reg) ∧ t.flags = s.flags ∧ s.sameElse t) ∧
  (∀ (s : State) (reg : RegNum), ∃ t,
    exec (.xchgAxReg reg) s = .next t ∧ t.regs.ax = s.regs.get (reg16Of reg) ∧
      t.regs.get (reg16Of reg) = s.regs.ax ∧
      (∀ r, r ≠ .ax → r ≠ reg16Of reg → t.regs.get r = s.regs.get r) ∧
      t = { s with regs := t.regs }) ∧
  (∀ s : State, exec .nop s = .next s)

/-- R110, R112, R123, R360 to R363, R707, R708, R712: IN and OUT make one bus operation at the port, an 8-bit
number or all of DX, and two byte operations, the low byte first, for a word at an odd port; IN puts
what they answer in the accumulator. Where a port never answers they wait for ever. A word read at port
FFFFh is refused, as R361 says; a word written there goes on, the second byte's port being 0000h, since
A23 to A16 are low. The model's own choices in it are those of notes/assumptions/3.md, 20.md, 23.md. -/
def Obligations.PortTransfers : Prop :=
  ∀ (s : State) (w : Width), (s.msw.pe = false ∨ s.cpl ≤ s.flags.iopl) →
    (∀ (i : Instr) (port : Word),
      ((∃ p : Byte, i = .inImm w p ∧ port = p.setWidth 16) ∨ (i = .inDx w ∧ port = s.regs.dx)) →
      (w = .word ∧ port = 0xFFFF#16 → exec i s = .refused .wordPortWrap) ∧
      (¬(w = .word ∧ port = 0xFFFF#16) → s.portAnswers port w = false →
        ∃ t, exec i s = .next t ∧ t = { s with run := .stuck, out := t.out }) ∧
      (¬(w = .word ∧ port = 0xFFFF#16) → s.portAnswers port w = true →
        ∃ t v, exec i s = .next t ∧ v.toNat < 2 ^ w.bits ∧ s.onlyReg t w 0#3 v ∧
          t = { s with regs := t.regs, out := portEvents .ioRead port w v ++ s.out })) ∧
    (∀ (i : Instr) (port : Word),
      ((∃ p : Byte, i = .outImm w p ∧ port = p.setWidth 16) ∨ (i = .outDx w ∧ port = s.regs.dx)) →
      (s.portAnswers port w = false →
        ∃ t, exec i s = .next t ∧ t = { s with run := .stuck, out := t.out }) ∧
      (s.portAnswers port w = true →
        exec i s = .next { s with out := portEvents .ioWrite port w (s.getReg w 0#3) ++ s.out }))

/-- R364, R365, R368, R369: XLAT, LEA, LAHF and SAHF. -/
def Obligations.TableAddressAndFlagTransfers : Prop :=
  (∀ s : State,
    let off := s.regs.bx + (s.regs.ax &&& 0x00FF#16)
    s.readReady (s.overridden .ds) off .byte = true →
    movesInto .xlat s .byte (.reg 0#3)
      ((s.busByte 0 (linear (s.seg (s.overridden .ds)).base off)).setWidth 16)) ∧
  (∀ (s : State) (reg : RegNum) (m : Mem), movesInto (.lea reg m) s .word (.reg reg) (s.ea m)) ∧
  (∀ s : State, movesInto .lahf s .byte (.reg 4#3) (s.flags.toWord &&& 0x00FF#16)) ∧
  (∀ s : State, ∃ t, exec .sahf s = .next t ∧
    t.flags.toWord = (s.flags.toWord &&& 0xFF2A#16) ||| ((s.regs.ax >>> 8) &&& 0x00D5#16) ∧
    t = { s with flags := t.flags })

/-! ## Arithmetic -/

/-- R381 to R387: ADD and ADC in every form: the sum, CF, AF, OF, ZF, SF and PF. -/
def Obligations.Additions : Prop :=
  ∀ s : State,
    (∀ (w : Width) (rm : RM) (reg : RegNum), s.rmReady .write w rm = true →
      addsInto (.addRmReg false w rm reg) s w rm (s.rmValue w rm) (s.getReg w reg) 0 ∧
      addsInto (.adcRmReg false w rm reg) s w rm (s.rmValue w rm) (s.getReg w reg)
        s.flags.cf.toNat) ∧
    (∀ (w : Width) (rm : RM) (reg : RegNum), s.rmReady .read w rm = true →
      addsInto (.addRmReg true w rm reg) s w (.reg reg) (s.getReg w reg) (s.rmValue w rm) 0 ∧
      addsInto (.adcRmReg true w rm reg) s w (.reg reg) (s.getReg w reg) (s.rmValue w rm)
        s.flags.cf.toNat) ∧
    (∀ (rm : RM) (imm : GImm), s.rmReady .write imm.width rm = true →
      addsInto (.addRmImm rm imm) s imm.width rm (s.rmValue imm.width rm) imm.value 0 ∧
      addsInto (.adcRmImm rm imm) s imm.width rm (s.rmValue imm.width rm) imm.value
        s.flags.cf.toNat) ∧
    (∀ imm : Imm,
      addsInto (.addAccImm imm) s imm.width (.reg 0#3) (s.getReg imm.width 0#3) imm.value 0 ∧
      addsInto (.adcAccImm imm) s imm.width (.reg 0#3) (s.getReg imm.width 0#3) imm.value
        s.flags.cf.toNat)

/-- R381, R390 to R395: SUB and SBB in every form. -/
def Obligations.Subtractions : Prop :=
  ∀ s : State,
    (∀ (w : Width) (rm : RM) (reg : RegNum), s.rmReady .write w rm = true →
      subtractsInto (.subRmReg false w rm reg) s w rm (s.rmValue w rm) (s.getReg w reg) 0 ∧
      subtractsInto (.sbbRmReg false w rm reg) s w rm (s.rmValue w rm) (s.getReg w reg)
        s.flags.cf.toNat) ∧
    (∀ (w : Width) (rm : RM) (reg : RegNum), s.rmReady .read w rm = true →
      subtractsInto (.subRmReg true w rm reg) s w (.reg reg) (s.getReg w reg) (s.rmValue w rm) 0 ∧
      subtractsInto (.sbbRmReg true w rm reg) s w (.reg reg) (s.getReg w reg) (s.rmValue w rm)
        s.flags.cf.toNat) ∧
    (∀ (rm : RM) (imm : GImm), s.rmReady .write imm.width rm = true →
      subtractsInto (.subRmImm rm imm) s imm.width rm (s.rmValue imm.width rm) imm.value 0 ∧
      subtractsInto (.sbbRmImm rm imm) s imm.width rm (s.rmValue imm.width rm) imm.value
        s.flags.cf.toNat) ∧
    (∀ imm : Imm,
      subtractsInto (.subAccImm imm) s imm.width (.reg 0#3) (s.getReg imm.width 0#3) imm.value 0 ∧
      subtractsInto (.sbbAccImm imm) s imm.width (.reg 0#3) (s.getReg imm.width 0#3) imm.value
        s.flags.cf.toNat)

/-- R398 to R402: CMP sets the flags of the difference and writes nothing else; NEG subtracts its
operand from 0. -/
def Obligations.ComparisonsAndNegation : Prop :=
  ∀ s : State,
    (∀ (w : Width) (rm : RM) (reg : RegNum), s.rmReady .read w rm = true →
      compares (.cmpRmReg w rm reg) s w (s.rmValue w rm) (s.getReg w reg) ∧
      compares (.cmpRegRm w reg rm) s w (s.getReg w reg) (s.rmValue w rm)) ∧
    (∀ (rm : RM) (imm : GImm), s.rmReady .read imm.width rm = true →
      compares (.cmpRmImm rm imm) s imm.width (s.rmValue imm.width rm) imm.value) ∧
    (∀ imm : Imm, compares (.cmpAccImm imm) s imm.width (s.getReg imm.width 0#3) imm.value) ∧
    (∀ (w : Width) (rm : RM), s.rmReady .write w rm = true →
      subtractsInto (.neg w rm) s w rm 0#16 (s.rmValue w rm) 0)

/-- R388, R389, R396, R397: INC and DEC: as ADD and SUB of 1, with CF left as it was. -/
def Obligations.IncrementsAndDecrements : Prop :=
  ∀ s : State,
    (∀ (i : Instr) (w : Width) (dst : RM),
      ((i = .incRm w dst ∧ s.rmReady .write w dst = true) ∨
        (∃ reg, i = .incReg reg ∧ w = .word ∧ dst = .reg reg)) →
      ∃ t r, exec i s = .next t ∧ s.placed t w dst r ∧
        sumResult w (s.rmValue w dst) 1#16 0 r t.flags ∧ t.flags.cf = s.flags.cf ∧
        s.flags.sameControl t.flags ∧ s.sameElse t) ∧
    (∀ (i : Instr) (w : Width) (dst : RM),
      ((i = .decRm w dst ∧ s.rmReady .write w dst = true) ∨
        (∃ reg, i = .decReg reg ∧ w = .word ∧ dst = .reg reg)) →
      ∃ t r, exec i s = .next t ∧ s.placed t w dst r ∧
        differenceResult w (s.rmValue w dst) 1#16 0 r t.flags ∧ t.flags.cf = s.flags.cf ∧
        s.flags.sameControl t.flags ∧ s.sameElse t)

/-- R407 to R409: MUL and IMUL: the double-length product, or its low word for the immediate form;
CF and OF say whether the upper half is more than the extension of the lower. SF, ZF, AF and PF are
not said. -/
def Obligations.Multiplications : Prop :=
  ∀ s : State,
    (∀ rm : RM, s.rmReady .read .byte rm = true → ∃ t, exec (.mul .byte rm) s = .next t ∧
      t.regs.ax.toNat = (s.getReg .byte 0#3).toNat * (s.rmValue .byte rm).toNat ∧
      (t.flags.cf = true ↔ 0x100 ≤ t.regs.ax.toNat) ∧ t.flags.of = t.flags.cf ∧
      s.regs.onlyWord t.regs .ax t.regs.ax ∧ s.flags.sameControl t.flags ∧ s.sameElse t ∧
      s.sameMemory t) ∧
    (∀ rm : RM, s.rmReady .read .word rm = true → ∃ t, exec (.mul .word rm) s = .next t ∧
      t.regs.dx.toNat * 0x10000 + t.regs.ax.toNat = s.regs.ax.toNat * (s.rmValue .word rm).toNat ∧
      (t.flags.cf = true ↔ t.regs.dx ≠ 0#16) ∧ t.flags.of = t.flags.cf ∧
      (∀ r, r ≠ .ax → r ≠ .dx → t.regs.get r = s.regs.get r) ∧ s.flags.sameControl t.flags ∧
      s.sameElse t ∧ s.sameMemory t) ∧
    (∀ rm : RM, s.rmReady .read .byte rm = true → ∃ t, exec (.imulRm .byte rm) s = .next t ∧
      signedValue .word t.regs.ax =
        signedValue .byte (s.getReg .byte 0#3) * signedValue .byte (s.rmValue .byte rm) ∧
      (t.flags.cf = true ↔
        signedValue .word t.regs.ax ≠ signedValue .byte (t.regs.ax &&& 0x00FF#16)) ∧
      t.flags.of = t.flags.cf ∧ s.regs.onlyWord t.regs .ax t.regs.ax ∧
      s.flags.sameControl t.flags ∧ s.sameElse t ∧ s.sameMemory t) ∧
    (∀ rm : RM, s.rmReady .read .word rm = true → ∃ t, exec (.imulRm .word rm) s = .next t ∧
      signedValue .word t.regs.dx * 0x10000 + t.regs.ax.toNat =
        signedValue .word s.regs.ax * signedValue .word (s.rmValue .word rm) ∧
      (t.flags.cf = true ↔
        signedValue .word t.regs.dx * 0x10000 + t.regs.ax.toNat ≠ signedValue .word t.regs.ax) ∧
      t.flags.of = t.flags.cf ∧ (∀ r, r ≠ .ax → r ≠ .dx → t.regs.get r = s.regs.get r) ∧
      s.flags.sameControl t.flags ∧ s.sameElse t ∧ s.sameMemory t) ∧
    (∀ (reg : RegNum) (rm : RM) (imm : SImm), s.rmReady .read .word rm = true →
      ∃ t, exec (.imulImm reg rm imm) s = .next t ∧
        s.onlyReg t .word reg (BitVec.ofInt 16
          (signedValue .word (s.rmValue .word rm) * signedValue .word imm.value)) ∧
        (t.flags.cf = true ↔ signedValue .word (t.getReg .word reg) ≠
          signedValue .word (s.rmValue .word rm) * signedValue .word imm.value) ∧
        t.flags.of = t.flags.cf ∧ s.flags.sameControl t.flags ∧ s.sameElse t ∧ s.sameMemory t)

/-- R410, R411, R652: DIV and IDIV: quotient and remainder where the quotient fits, IDIV's truncated
toward zero with the remainder signed as the dividend; exception 0 with nothing changed for a zero
divisor or a quotient that does not fit. The six status flags are not said. -/
def Obligations.Divisions : Prop :=
  (∀ (s : State) (w : Width) (rm : RM), s.rmReady .read w rm = true →
    let n := if w = .byte then s.regs.ax.toNat else s.regs.dx.toNat * 0x10000 + s.regs.ax.toNat
    let d := (s.rmValue w rm).toNat
    (d ≠ 0 → n < d * 2 ^ w.bits → ∃ t q r, exec (.div w rm) s = .next t ∧ n = d * q + r ∧ r < d ∧
      (w = .byte → (t.getReg .byte 0#3).toNat = q ∧ (t.getReg .byte 4#3).toNat = r ∧
        ∀ x, x ≠ .ax → t.regs.get x = s.regs.get x) ∧
      (w = .word → t.regs.ax.toNat = q ∧ t.regs.dx.toNat = r ∧
        ∀ x, x ≠ .ax → x ≠ .dx → t.regs.get x = s.regs.get x) ∧
      s.flags.sameControl t.flags ∧ s.sameElse t ∧ s.sameMemory t) ∧
    (d = 0 ∨ d * 2 ^ w.bits ≤ n → exec (.div w rm) s = s.takeException 0#8 0#16 .unchanged)) ∧
  (∀ (s : State) (w : Width) (rm : RM), s.rmReady .read w rm = true →
    let n : Int := if w = .byte then signedValue .word s.regs.ax
      else signedValue .word s.regs.dx * 0x10000 + s.regs.ax.toNat
    let d := signedValue w (s.rmValue w rm)
    (d ≠ 0 → -(2 ^ (w.bits - 1) : Int) ≤ n.tdiv d → n.tdiv d < 2 ^ (w.bits - 1) →
      ∃ t, ∃ q r : Int, exec (.idiv w rm) s = .next t ∧ n = d * q + r ∧ r.natAbs < d.natAbs ∧
        0 ≤ n * r ∧
        (w = .byte → signedValue .byte (t.getReg .byte 0#3) = q ∧
          signedValue .byte (t.getReg .byte 4#3) = r ∧
          ∀ x, x ≠ .ax → t.regs.get x = s.regs.get x) ∧
        (w = .word → signedValue .word t.regs.ax = q ∧ signedValue .word t.regs.dx = r ∧
          ∀ x, x ≠ .ax → x ≠ .dx → t.regs.get x = s.regs.get x) ∧
        s.flags.sameControl t.flags ∧ s.sameElse t ∧ s.sameMemory t) ∧
    (d = 0 ∨ n.tdiv d < -(2 ^ (w.bits - 1) : Int) ∨ 2 ^ (w.bits - 1) ≤ n.tdiv d →
      exec (.idiv w rm) s = s.takeException 0#8 0#16 .unchanged))

/-- R403 to R406: AAA and AAS correct AL by 6, clear its high four bits and move AH by 1, or by 2
where AL carries (the spec leaves which open, notes/assumptions/5.md); DAA and DAS correct AL by 6 for
the low digit and 60h for the high one. AF and CF say which corrections were made; DAA and DAS set
ZF, SF and PF of AL. The other status flags are not said. -/
def Obligations.AdjustsAfterAddAndSubtract : Prop :=
  (∀ s : State,
    let al := (s.getReg .byte 0#3).toNat
    let ah := (s.getReg .byte 4#3).toNat
    let taken := 9 < al % 16 ∨ s.flags.af = true
    (∃ t, exec .aaa s = .next t ∧
      (taken → (t.getReg .byte 0#3).toNat = (al + 6) % 16 ∧
        ((t.getReg .byte 4#3).toNat = (ah + 1) % 256 ∨
          (0xFA ≤ al ∧ (t.getReg .byte 4#3).toNat = (ah + 2) % 256)) ∧
        t.flags.af = true ∧ t.flags.cf = true) ∧
      (¬taken → (t.getReg .byte 0#3).toNat = al % 16 ∧ (t.getReg .byte 4#3).toNat = ah ∧
        t.flags.af = false ∧ t.flags.cf = false) ∧
      s.regs.onlyWord t.regs .ax t.regs.ax ∧ s.flags.sameControl t.flags ∧ s.sameElse t ∧
      s.sameMemory t) ∧
    (∃ t, exec .aas s = .next t ∧
      (taken → (t.getReg .byte 0#3).toNat = (al + 250) % 16 ∧
        ((t.getReg .byte 4#3).toNat = (ah + 255) % 256 ∨
          (al < 6 ∧ (t.getReg .byte 4#3).toNat = (ah + 254) % 256)) ∧
        t.flags.af = true ∧ t.flags.cf = true) ∧
      (¬taken → (t.getReg .byte 0#3).toNat = al % 16 ∧ (t.getReg .byte 4#3).toNat = ah ∧
        t.flags.af = false ∧ t.flags.cf = false) ∧
      s.regs.onlyWord t.regs .ax t.regs.ax ∧ s.flags.sameControl t.flags ∧ s.sameElse t ∧
      s.sameMemory t)) ∧
  (∀ s : State,
    let al := (s.getReg .byte 0#3).toNat
    let low := 9 < al % 16 ∨ s.flags.af = true
    let high := 0x99 < al ∨ s.flags.cf = true
    ∀ (i : Instr) (k : Nat), (i = .daa ∧ k = 1 ∨ i = .das ∧ k = 255) →
      ∃ t r, exec i s = .next t ∧ s.onlyReg t .byte 0#3 r ∧
        (∃ x y, (low → x = 6) ∧ (¬low → x = 0) ∧ (high → y = 0x60) ∧ (¬high → y = 0) ∧
          r.toNat = (al + k * (x + y)) % 256) ∧
        (t.flags.af = true ↔ low) ∧ (t.flags.cf = true ↔ high) ∧ t.flags.ofResult .byte r ∧
        s.flags.sameControl t.flags ∧ s.sameElse t ∧ s.sameMemory t)

/-- R412 to R415: AAM and AAD: AH and AL as the two decimal digits of a byte, with ZF, SF and PF of
AL; OF, AF and CF are not said. CBW and CWD keep the value of the operand in the wider register and
write no flag. -/
def Obligations.DigitSplitsAndSignExtensions : Prop :=
  (∀ s : State,
    let al := (s.getReg .byte 0#3).toNat
    let ah := (s.getReg .byte 4#3).toNat
    (∃ t, exec .aam s = .next t ∧ (t.getReg .byte 4#3).toNat * 10 + (t.getReg .byte 0#3).toNat = al ∧
      (t.getReg .byte 0#3).toNat < 10 ∧ t.flags.ofResult .byte (t.getReg .byte 0#3) ∧
      s.regs.onlyWord t.regs .ax t.regs.ax ∧ s.flags.sameControl t.flags ∧ s.sameElse t ∧
      s.sameMemory t) ∧
    (∃ t, exec .aad s = .next t ∧ (t.getReg .byte 0#3).toNat = (ah * 10 + al) % 256 ∧
      (t.getReg .byte 4#3).toNat = 0 ∧ t.flags.ofResult .byte (t.getReg .byte 0#3) ∧
      s.regs.onlyWord t.regs .ax t.regs.ax ∧ s.flags.sameControl t.flags ∧ s.sameElse t ∧
      s.sameMemory t)) ∧
  (∀ s : State,
    (∃ t, exec .cbw s = .next t ∧
      signedValue .word t.regs.ax = signedValue .byte (s.getReg .byte 0#3) ∧
      s.regs.onlyWord t.regs .ax t.regs.ax ∧ t = { s with regs := t.regs }) ∧
    (∃ t, exec .cwd s = .next t ∧
      signedValue .word t.regs.dx * 0x10000 + t.regs.ax.toNat = signedValue .word s.regs.ax ∧
      s.regs.onlyWord t.regs .dx t.regs.dx ∧ t = { s with regs := t.regs }))

/-! ## Logic and shift -/

/-- R439 to R452: AND, OR and XOR in every form; TEST sets the flags of the conjunction and writes
nothing else; NOT inverts every bit of its operand and writes no flag. AF of a logical result is not
said. -/
def Obligations.LogicOperations : Prop :=
  (∀ s : State,
    (∀ (w : Width) (rm : RM) (reg : RegNum), s.rmReady .write w rm = true →
      logicInto (.andRmReg false w rm reg) s w rm (s.rmValue w rm &&& s.getReg w reg) ∧
      logicInto (.orRmReg false w rm reg) s w rm (s.rmValue w rm ||| s.getReg w reg) ∧
      logicInto (.xorRmReg false w rm reg) s w rm (s.rmValue w rm ^^^ s.getReg w reg)) ∧
    (∀ (w : Width) (rm : RM) (reg : RegNum), s.rmReady .read w rm = true →
      logicInto (.andRmReg true w rm reg) s w (.reg reg) (s.getReg w reg &&& s.rmValue w rm) ∧
      logicInto (.orRmReg true w rm reg) s w (.reg reg) (s.getReg w reg ||| s.rmValue w rm) ∧
      logicInto (.xorRmReg true w rm reg) s w (.reg reg) (s.getReg w reg ^^^ s.rmValue w rm)) ∧
    (∀ (rm : RM) (imm : Imm), s.rmReady .write imm.width rm = true →
      logicInto (.andRmImm rm imm) s imm.width rm (s.rmValue imm.width rm &&& imm.value) ∧
      logicInto (.orRmImm rm imm) s imm.width rm (s.rmValue imm.width rm ||| imm.value) ∧
      logicInto (.xorRmImm rm imm) s imm.width rm (s.rmValue imm.width rm ^^^ imm.value)) ∧
    (∀ imm : Imm,
      logicInto (.andAccImm imm) s imm.width (.reg 0#3) (s.getReg imm.width 0#3 &&& imm.value) ∧
      logicInto (.orAccImm imm) s imm.width (.reg 0#3) (s.getReg imm.width 0#3 ||| imm.value) ∧
      logicInto (.xorAccImm imm) s imm.width (.reg 0#3) (s.getReg imm.width 0#3 ^^^ imm.value))) ∧
  (∀ s : State,
    (∀ (i : Instr) (w : Width) (r : Word),
      ((∃ rm reg, i = .testRmReg w rm reg ∧ s.rmReady .read w rm = true ∧
          r = s.rmValue w rm &&& s.getReg w reg) ∨
        (∃ rm imm, i = .testRmImm rm imm ∧ w = imm.width ∧ s.rmReady .read w rm = true ∧
          r = s.rmValue w rm &&& imm.value) ∨
        (∃ imm, i = .testAccImm imm ∧ w = imm.width ∧ r = s.getReg w 0#3 &&& imm.value)) →
      ∃ t, exec i s = .next t ∧ s.flags.logical t.flags w r ∧ t = { s with flags := t.flags }) ∧
    (∀ (w : Width) (rm : RM), s.rmReady .write w rm = true → ∃ r : Word,
      r.toNat = 2 ^ w.bits - 1 - (s.rmValue w rm).toNat ∧ movesInto (.not w rm) s w rm r))

/-- R431, R436 to R438: the count of the twenty-one shift and rotate forms is 1, CL or the immediate,
and only its low five bits count: with none set the operand is read and nothing changes. SHL, SHR
and SAR by c positions, c from 1 to 31: the result and the last bit shifted out as powers of two, OF
for a single position, ZF, SF and PF of the result; AF, and OF for more positions, are not said. -/
def Obligations.ShiftsByTheirCount : Prop :=
  (∀ (s : State) (w : Width) (rm : RM), s.rmReady .write w rm = true →
    (s.regs.cx.toNat % 32 = 0 →
      ∀ i ∈ [Instr.rolCl w rm, .rorCl w rm, .rclCl w rm, .rcrCl w rm, .shlCl w rm, .shrCl w rm,
        .sarCl w rm], exec i s = .next s) ∧
    (∀ n : Byte, n.toNat % 32 = 0 →
      ∀ i ∈ [Instr.rolImm w rm n, .rorImm w rm n, .rclImm w rm n, .rcrImm w rm n, .shlImm w rm n,
        .shrImm w rm n, .sarImm w rm n], exec i s = .next s)) ∧
  (∀ (s : State) (w : Width) (rm : RM) (n : Byte) (k c : Nat), s.rmReady .write w rm = true →
    c ≠ 0 →
    (k = 0 ∧ c = 1 ∨ k = 1 ∧ c = s.regs.cx.toNat % 32 ∨ k = 2 ∧ c = n.toNat % 32) →
      let a := s.rmValue w rm
      (∃ t r, exec ([Instr.shlOne w rm, .shlCl w rm, .shlImm w rm n].getD k .nop) s = .next t ∧
        s.placed t w rm r ∧ r.toNat = a.toNat * 2 ^ c % 2 ^ w.bits ∧
        (t.flags.cf = true ↔ a.toNat * 2 ^ c / 2 ^ w.bits % 2 = 1) ∧
        (c = 1 → t.flags.of = (t.flags.sf ^^ t.flags.cf)) ∧ t.flags.ofResult w r ∧
        s.flags.sameControl t.flags ∧ s.sameElse t) ∧
      (∃ t r, exec ([Instr.shrOne w rm, .shrCl w rm, .shrImm w rm n].getD k .nop) s = .next t ∧
        s.placed t w rm r ∧ r.toNat = a.toNat / 2 ^ c ∧
        (t.flags.cf = true ↔ a.toNat / 2 ^ (c - 1) % 2 = 1) ∧
        (c = 1 → (t.flags.of = true ↔ 2 ^ (w.bits - 1) ≤ a.toNat)) ∧ t.flags.ofResult w r ∧
        s.flags.sameControl t.flags ∧ s.sameElse t) ∧
      (∃ t r, exec ([Instr.sarOne w rm, .sarCl w rm, .sarImm w rm n].getD k .nop) s = .next t ∧
        s.placed t w rm r ∧ signedValue w r = signedValue w a / 2 ^ c ∧
        (t.flags.cf = true ↔ signedValue w a / 2 ^ (c - 1) % 2 = 1) ∧
        (c = 1 → t.flags.of = false) ∧ t.flags.ofResult w r ∧ s.flags.sameControl t.flags ∧
        s.sameElse t))

/-- R431 to R435: ROL, ROR, RCL and RCR by c positions, c from 1 to 31: the operand, or CF and the
operand, as a ring; OF for a single position. SF, ZF, AF and PF do not change; OF for more positions
is not said. -/
def Obligations.Rotates : Prop :=
  ∀ (s : State) (w : Width) (rm : RM) (n : Byte) (k c : Nat), s.rmReady .write w rm = true →
    c ≠ 0 →
    (k = 0 ∧ c = 1 ∨ k = 1 ∧ c = s.regs.cx.toNat % 32 ∨ k = 2 ∧ c = n.toNat % 32) →
      let a := s.rmValue w rm
      let kept := fun t : State => t.flags.sf = s.flags.sf ∧ t.flags.zf = s.flags.zf ∧
        t.flags.af = s.flags.af ∧ t.flags.pf = s.flags.pf ∧ s.flags.sameControl t.flags ∧
        s.sameElse t
      (∃ t r, exec ([Instr.rolOne w rm, .rolCl w rm, .rolImm w rm n].getD k .nop) s = .next t ∧
        s.placed t w rm r ∧ (w = .word → r = a.rotateLeft c) ∧
        (w = .byte → r = ((a.setWidth 8).rotateLeft c).setWidth 16) ∧
        t.flags.cf = r.getLsbD 0 ∧ (c = 1 → t.flags.of = (r.getLsbD (w.bits - 1) ^^ t.flags.cf)) ∧
        kept t) ∧
      (∃ t r, exec ([Instr.rorOne w rm, .rorCl w rm, .rorImm w rm n].getD k .nop) s = .next t ∧
        s.placed t w rm r ∧ (w = .word → r = a.rotateRight c) ∧
        (w = .byte → r = ((a.setWidth 8).rotateRight c).setWidth 16) ∧
        t.flags.cf = r.getLsbD (w.bits - 1) ∧
        (c = 1 → t.flags.of = (r.getLsbD (w.bits - 1) ^^ r.getLsbD (w.bits - 2))) ∧ kept t) ∧
      (∃ t r, exec ([Instr.rclOne w rm, .rclCl w rm, .rclImm w rm n].getD k .nop) s = .next t ∧
        s.placed t w rm r ∧
        (w = .word → ringWord t.flags.cf r = (ringWord s.flags.cf a).rotateLeft c) ∧
        (w = .byte → ringByte t.flags.cf r = (ringByte s.flags.cf a).rotateLeft c) ∧
        (c = 1 → t.flags.of = (r.getLsbD (w.bits - 1) ^^ t.flags.cf)) ∧ kept t) ∧
      (∃ t r, exec ([Instr.rcrOne w rm, .rcrCl w rm, .rcrImm w rm n].getD k .nop) s = .next t ∧
        s.placed t w rm r ∧
        (w = .word → ringWord t.flags.cf r = (ringWord s.flags.cf a).rotateRight c) ∧
        (w = .byte → ringByte t.flags.cf r = (ringByte s.flags.cf a).rotateRight c) ∧
        (c = 1 → t.flags.of = (r.getLsbD (w.bits - 1) ^^ r.getLsbD (w.bits - 2))) ∧ kept t)

/-! ## Strings -/

/-- R460 to R467, R469: one element of a string instruction with no repeat prefix: the element moved or
compared, the index registers up with DF = 0 and down with DF = 1, the flags of the comparison; INS and
OUTS make the bus operations of IN and OUT at the port in DX, whatever it is, where it answers. The
model's own choices in it are those of notes/assumptions/20.md, 23.md. -/
def Obligations.StringElements : Prop :=
  (∀ (s : State) (w : Width), s.pre.rep = none →
    let src := linear (s.seg (s.overridden .ds)).base s.regs.si
    let dst := linear s.es.base s.regs.di
    let si := s.nextIndex w s.regs.si
    let di := s.nextIndex w s.regs.di
    let srcOk := s.readReady (s.overridden .ds) s.regs.si w = true
    (srcOk → s.accessOk .write .es s.regs.di w.bytes = true →
      ∃ t, exec (.movs w) s = .next t ∧ s.stored t dst w (s.busValue 0 src w) ∧
        t.regs = { s.regs with si := si, di := di } ∧
        t.flags = s.flags ∧ s.sameElse t) ∧
    (s.accessOk .write .es s.regs.di w.bytes = true →
      ∃ t, exec (.stos w) s = .next t ∧ s.stored t dst w (s.getReg w 0#3) ∧
        t.regs = { s.regs with di := di } ∧ t.flags = s.flags ∧ s.sameElse t) ∧
    (srcOk → ∃ t, exec (.lods w) s = .next t ∧
      ({ s with regs := { s.regs with si := si } } : State).onlyReg t w 0#3 (s.busValue 0 src w) ∧
      t = { s with regs := t.regs }) ∧
    (srcOk → s.readReady .es s.regs.di w = true →
      ∃ t r, exec (.cmps w) s = .next t ∧
        differenceResult w (s.busValue 0 src w) (s.busValue 1 dst w) 0 r t.flags ∧
        differenceBorrow (s.busValue 0 src w) (s.busValue 1 dst w) 0 t.flags ∧
        s.flags.sameControl t.flags ∧
        t = { s with regs := { s.regs with si := si, di := di }, flags := t.flags }) ∧
    (s.readReady .es s.regs.di w = true →
      ∃ t r, exec (.scas w) s = .next t ∧
        differenceResult w (s.getReg w 0#3) (s.busValue 0 dst w) 0 r t.flags ∧
        differenceBorrow (s.getReg w 0#3) (s.busValue 0 dst w) 0 t.flags ∧
        s.flags.sameControl t.flags ∧
        t = { s with regs := { s.regs with di := di }, flags := t.flags })) ∧
  (∀ (s : State) (w : Width), s.pre.rep = none →
    (s.msw.pe = false ∨ s.cpl ≤ s.flags.iopl) → s.portAnswers s.regs.dx w = true →
    let src := linear (s.seg (s.overridden .ds)).base s.regs.si
    let dst := linear s.es.base s.regs.di
    (s.accessOk .write .es s.regs.di w.bytes = true →
      ∃ t v, exec (.ins w) s = .next t ∧ v.toNat < 2 ^ w.bits ∧
        t.out = portEvents .ioRead s.regs.dx w v ++ s.out ∧ s.stored t dst w v ∧
        t.regs = { s.regs with di := s.nextIndex w s.regs.di } ∧ t.flags = s.flags ∧
        ({ s with out := t.out } : State).sameElse t) ∧
    (s.readReady (s.overridden .ds) s.regs.si w = true →
      exec (.outs w) s = .next { s with
        regs := { s.regs with si := s.nextIndex w s.regs.si }
        out := portEvents .ioWrite s.regs.dx w (s.busValue 0 src w) ++ s.out }))

/-- R300, R301, R303, R468, R470, R471, R572, R573: the prefixes are recorded for the next instruction
and write nothing else. A repeated string instruction runs one element in a step: nothing with CX = 0;
else the element, CX less 1, and IP back at the first prefix unless CX is now 0 or, for CMPS and SCAS,
the comparison left ZF unlike z. The model's own choices in it are those of notes/assumptions/6.md. -/
def Obligations.PrefixesAndRepeatedStrings : Prop :=
  (∀ s : State,
    (s.pre.rep = none →
      exec .rep s = .next { s with pre := { s.pre with rep := some true } } ∧
      exec .repne s = .next { s with pre := { s.pre with rep := some false } }) ∧
    (s.pre.seg = none → ∀ r : SReg,
      exec (.seg r) s = .next { s with pre := { s.pre with seg := some r } }) ∧
    (s.pre.lock = false → (s.msw.pe = false ∨ s.cpl ≤ s.flags.iopl) →
      exec .lock s = .next { s with pre := { s.pre with lock := true } })) ∧
  (∀ (s : State) (w : Width) (z : Bool), s.pre.rep = some z →
    (s.regs.cx = 0#16 →
      ∀ i ∈ [Instr.movs w, .lods w, .stos w, .ins w, .outs w, .cmps w, .scas w],
        exec i s = .next s) ∧
    (s.regs.cx ≠ 0#16 → ∀ (i : Instr) (u : State),
      ((i = .movs w ∧ s.movsElement w = .ok u) ∨ (i = .lods w ∧ s.lodsElement w = .ok u) ∨
        (i = .stos w ∧ s.stosElement w = .ok u) ∨ (i = .ins w ∧ s.insElement w = .ok u) ∨
        (i = .outs w ∧ s.outsElement w = .ok u)) →
      exec i s = .next { u with
        regs := { u.regs with cx := s.regs.cx - 1 }
        ip := if s.regs.cx = 1#16 then s.ip else s.curIp
        ipCarry := if s.regs.cx = 1#16 then s.ipCarry else false }) ∧
    (s.regs.cx ≠ 0#16 → ∀ (i : Instr) (u : State),
      ((i = .cmps w ∧ s.cmpsElement w = .ok u) ∨ (i = .scas w ∧ s.scasElement w = .ok u)) →
      exec i s = .next { u with
        regs := { u.regs with cx := s.regs.cx - 1 }
        ip := if s.regs.cx = 1#16 ∨ u.flags.zf ≠ z then s.ip else s.curIp
        ipCarry := if s.regs.cx = 1#16 ∨ u.flags.zf ≠ z then s.ipCarry else false }))

/-! ## Control transfer -/

/-- R498 to R518: the sixteen conditional jumps. LOOP, LOOPZ and LOOPNZ count CX down and jump while it
is not 0 and their condition holds; JCXZ jumps on CX = 0. In protected mode a jump that is taken past
the limit of CS is exception 13 with nothing changed. No flag is written. -/
def Obligations.ConditionalJumpsAndLoops : Prop :=
  (∀ (s : State) (d : Byte),
    branches (.jo d) s (s.flags.of = true) d ∧ branches (.jno d) s (s.flags.of = false) d ∧
    branches (.jb d) s (s.flags.cf = true) d ∧ branches (.jnb d) s (s.flags.cf = false) d ∧
    branches (.je d) s (s.flags.zf = true) d ∧ branches (.jne d) s (s.flags.zf = false) d ∧
    branches (.jbe d) s (s.flags.cf = true ∨ s.flags.zf = true) d ∧
    branches (.jnbe d) s (s.flags.cf = false ∧ s.flags.zf = false) d ∧
    branches (.js d) s (s.flags.sf = true) d ∧ branches (.jns d) s (s.flags.sf = false) d ∧
    branches (.jp d) s (s.flags.pf = true) d ∧ branches (.jnp d) s (s.flags.pf = false) d ∧
    branches (.jl d) s (s.flags.sf ≠ s.flags.of) d ∧
    branches (.jnl d) s (s.flags.sf = s.flags.of) d ∧
    branches (.jle d) s (s.flags.zf = true ∨ s.flags.sf ≠ s.flags.of) d ∧
    branches (.jnle d) s (s.flags.zf = false ∧ s.flags.sf = s.flags.of) d) ∧
  (∀ (s : State) (d : Byte),
    (∀ (i : Instr) (cond : Prop),
      (i = .loop d ∧ (cond ↔ True) ∨ i = .loopz d ∧ (cond ↔ s.flags.zf = true) ∨
        i = .loopnz d ∧ (cond ↔ s.flags.zf = false)) →
      let u : State := { s with regs := { s.regs with cx := s.regs.cx - 1 } }
      (s.regs.cx ≠ 1#16 → cond → s.targetOk (s.ip + sext16 d) = true →
        exec i s = .next (u.atIp (s.ip + sext16 d))) ∧
      (s.regs.cx ≠ 1#16 → cond → s.msw.pe = true → s.cs.limit < s.ip + sext16 d →
        exec i s = s.takeException 13#8 0#16 .unchanged) ∧
      (s.regs.cx = 1#16 ∨ ¬cond → exec i s = .next u)) ∧
    branches (.jcxz d) s (s.regs.cx = 0#16) d)

/-- R233, R480, R487 to R489: the near jumps; in protected mode a target beyond the limit of CS is
exception 13 with code 0. -/
def Obligations.NearJumps : Prop :=
  ∀ (s : State) (i : Instr) (target : Word),
    ((∃ d : Byte, i = .jmpShort d ∧ target = s.ip + sext16 d) ∨
      (∃ d : Word, i = .jmpRel d ∧ target = s.ip + d) ∨
      (∃ rm, i = .jmpRm rm ∧ s.rmReady .read .word rm = true ∧ target = s.rmValue .word rm)) →
    ((s.msw.pe = true → target ≤ s.cs.limit) → exec i s = .next (s.atIp target)) ∧
    (s.msw.pe = true → s.cs.limit < target → exec i s = s.takeException 13#8 0#16 .unchanged)

/-- R233, R482, R483, R493, R494: near CALL pushes the address of the next instruction and jumps; near
RET pops it, and adds its immediate to SP. In protected mode a target beyond the limit of CS is
exception 13 with code 0 and nothing changed. -/
def Obligations.NearCallsAndReturns : Prop :=
  (∀ (s : State) (i : Instr) (target : Word),
    ((∃ d : Word, i = .callRel d ∧ target = s.ip + d) ∨
      (∃ rm, i = .callRm rm ∧ s.rmReady .read .word rm = true ∧ target = s.rmValue .word rm)) →
    (s.pushOk 1 = true → (s.msw.pe = true → target ≤ s.cs.limit) →
      ∃ t, exec i s = .next t ∧ s.pushed t [s.ip] ∧
        s.regs.onlyWord t.regs .sp (s.regs.sp - 2) ∧ t.flags = s.flags ∧
        ({ s.atIp target with flushed := t.flushed } : State).sameElse t ∧ t.stale = []) ∧
    (s.msw.pe = true → s.cs.limit < target → exec i s = s.takeException 13#8 0#16 .unchanged)) ∧
  (∀ (s : State) (i : Instr) (adj : Word), (i = .ret ∧ adj = 0#16 ∨ i = .retImm adj) →
    s.popReady s.regs.sp = true →
    let target := s.busWord 0 (s.above 0)
    ((s.msw.pe = true → target ≤ s.cs.limit) →
      exec i s = .next { s.atIp target with
        regs := { s.regs with sp := s.regs.sp + 2 + adj } }) ∧
    (s.msw.pe = true → s.cs.limit < target → exec i s = s.takeException 13#8 0#16 .unchanged))

/-- R481, R484, R485, R490, R491, R495, R496: the far transfers in real address mode: CS is the
selector times 16, a CALL pushes CS and the next IP, a RET pops IP and CS and adds its immediate to
SP. The model's own choices in it are those of notes/assumptions/4.md. -/
def Obligations.FarTransfersInRealMode : Prop :=
  ∀ s : State, s.msw.pe = false →
    (∀ off sel : Word, exec (.jmpFar off sel) s = .next (s.atFar sel off)) ∧
    (∀ m : Mem, s.wordsReady (s.memSeg m) (s.ea m) 2 = true →
      exec (.jmpFarMem m) s = .next (s.atFar
        (s.busWord 1 (linear (s.seg (s.memSeg m)).base (s.ea m + 2))) (s.busWord 0 (s.memAddr m)))) ∧
    (∀ (i : Instr) (off sel : Word),
      (i = .callFar off sel ∨
        (∃ m, i = .callFarMem m ∧ s.wordsReady (s.memSeg m) (s.ea m) 2 = true ∧
          off = s.busWord 0 (s.memAddr m) ∧
          sel = s.busWord 1 (linear (s.seg (s.memSeg m)).base (s.ea m + 2)))) →
      s.pushOk 2 = true →
      ∃ t, exec i s = .next t ∧ s.pushed t [s.cs.sel, s.ip] ∧
        s.regs.onlyWord t.regs .sp (s.regs.sp - 4) ∧ t.flags = s.flags ∧
        ({ s.atFar sel off with flushed := t.flushed } : State).sameElse t ∧ t.stale = []) ∧
    (∀ (i : Instr) (adj : Word), (i = .retFar ∧ adj = 0#16 ∨ i = .retFarImm adj) →
      s.wordsReady .ss s.regs.sp 2 = true →
      exec i s = .next { s.atFar (s.busWord 1 (s.above 2)) (s.busWord 0 (s.above 0)) with
        regs := { s.regs with sp := s.regs.sp + 4 + adj } })

/-- R160, R231, R238, R484, R485, R490, R491, R495, R496: JMP and CALL far in protected mode to a code
segment that the privilege rules admit: CS takes the selector with CPL as its RPL and the descriptor,
whose accessed bit is set in memory after the pushes, CPL stays, a CALL pushes CS and the next IP. RET
far to the same level, a conforming code segment of a more privileged one included, pops IP and CS and
adds its immediate to SP; that a pointer which ends at offset FFFFh is popped, and SP wraps to 0000h, is
the model's choice (notes/assumptions/13.md, R238 against R372). -/
def Obligations.FarTransfersInProtectedMode : Prop :=
  (∀ (s : State) (i : Instr) (call : Bool) (off sel : Word) (a : Addr), s.msw.pe = true →
    s.farTransfer i call off sel →
    isNull sel = false → s.descAddr sel = some a → s.answersAt a 6 = true →
    let d := s.busDesc 2 a
    codeReachable s.cpl sel d → off ≤ d.limit → (call = true → s.pushOk 2 = true) →
    let frame := if call then [s.cs.sel, s.ip] else []
    ∃ t u, exec i s = .next t ∧ s.pushed u frame ∧
      (∀ b : Addr, b ≠ a + 5 → t.readByte b = u.readByte b) ∧
      (s.isRam (a + 5) 1 = true → (∀ j, j < 2 * frame.length → a + 5 ≠ s.below (j + 1)) →
        t.readByte (a + 5) = s.accessedByte a d) ∧
      t.cs.loadedFrom ((sel &&& 0xFFFC#16) ||| s.cpl.setWidth 16) d ∧
      t.ip = off ∧ t.cpl = s.cpl ∧ s.regs.onlyWord t.regs .sp u.regs.sp ∧ t.flags = s.flags ∧
      t.ss = s.ss ∧ t.ds = s.ds ∧ t.es = s.es) ∧
  (∀ (s : State) (i : Instr) (adj : Word) (a : Addr), s.msw.pe = true →
    (i = .retFar ∧ adj = 0#16 ∨ i = .retFarImm adj) → s.ss.permits .read s.regs.sp 4 = true →
    s.wordsAnswer .ss s.regs.sp 2 = true →
    let newIp := s.busWord 0 (s.above 0)
    let newCs := s.busWord 1 (s.above 2)
    let d := s.busDesc 3 a
    isNull newCs = false → s.descAddr newCs = some a → s.answersAt a 6 = true →
    rpl newCs = s.cpl → returnAdmits newCs d → arPresent d.ar = true → newIp ≤ d.limit →
    ∃ t, exec i s = .next t ∧ t.cs.loadedFrom newCs d ∧ t.ip = newIp ∧ t.cpl = s.cpl ∧
      t.regs = { s.regs with sp := s.regs.sp + 4 + adj } ∧ t.flags = s.flags ∧
      s.accessedAt t a d ∧ t.ss = s.ss ∧ t.ds = s.ds ∧ t.es = s.es)

/-! ## High level instructions, interrupts -/

/-- R540: ENTER of level 0 and of level 1, and of a deeper level where each frame pointer it copies is
readable: the old BP, for each further level the word below the last one copied, the words at BP - 2, BP
- 4 and so on as they are when they are read, and the frame pointer last; BP at the frame, SP below the
copies by the size, and the rest of memory as it was. The model's own choices in it are those of
notes/assumptions/28.md. -/
def Obligations.EnterFrames : Prop :=
  (∀ (s : State) (size : Word) (level : Byte),
    (level.toNat % 32 = 0 → s.pushOk 1 = true →
      ∃ t u, exec (.enter size level) s = .next t ∧ s.pushed u [s.regs.bp] ∧ t.mem = u.mem ∧
        t.regs = { s.regs with bp := s.regs.sp - 2, sp := s.regs.sp - 2 - size } ∧
        t.flags = s.flags ∧ s.sameElse t) ∧
    (level.toNat % 32 = 1 → s.pushOk 2 = true →
      ∃ t u, exec (.enter size level) s = .next t ∧ s.pushed u [s.regs.bp, s.regs.sp - 2] ∧
        t.mem = u.mem ∧
        t.regs = { s.regs with bp := s.regs.sp - 2, sp := s.regs.sp - 4 - size } ∧
        t.flags = s.flags ∧ s.sameElse t)) ∧
  (∀ (s t u : State) (size : Word) (level : Byte) (n : Nat), n = level.toNat % 32 → 1 < n →
    s.push s.regs.bp = .ok t → s.copyFrames (n - 1) t = .ok u → u.pushOk 1 = true →
    let copied := fun i : Nat => linear s.ss.base (s.regs.bp - BitVec.ofNat 16 (2 * (i + 1)))
    ∃ v, exec (.enter size level) s = .next v ∧
      v.regs = { s.regs with
        bp := s.regs.sp - 2, sp := s.regs.sp - 2 - BitVec.ofNat 16 (2 * n) - size } ∧
      (s.isRam (s.below 2) 2 = true → v.readWord (s.below 2) = s.regs.bp) ∧
      (∀ i, i + 1 < n → ∃ x, s.copyFrames i t = .ok x ∧
        (s.isRam (s.below (4 + 2 * i)) 2 = true →
          v.readWord (s.below (4 + 2 * i)) = x.busWord 0 (copied i)) ∧
        ((∀ j, j < 2 * (n + 1) →
            s.apart (copied i) (s.below (j + 1)) ∧ s.apart (copied i + 1) (s.below (j + 1))) →
          x.readWord (copied i) = s.readWord (copied i))) ∧
      (s.isRam (s.below (2 + 2 * n)) 2 = true →
        v.readWord (s.below (2 + 2 * n)) = s.regs.sp - 2) ∧
      (∀ b : Addr, (∀ j, j < 2 * (n + 1) → s.apart b (s.below (j + 1))) →
        v.readByte b = s.readByte b) ∧
      v.flags = s.flags ∧ s.sameElse v)

/-- R541, R542, R653: LEAVE; BOUND changes nothing within its bounds, both included, and is exception
5 outside them. -/
def Obligations.LeaveAndBound : Prop :=
  (∀ s : State, s.popReady s.regs.bp = true →
    exec .leave s = .next { s with regs :=
      { s.regs with sp := s.regs.bp + 2, bp := s.busWord 0 (linear s.ss.base s.regs.bp) } }) ∧
  (∀ (s : State) (reg : RegNum) (m : Mem), s.wordsReady (s.memSeg m) (s.ea m) 2 = true →
    let lo := signedValue .word (s.busWord 0 (s.memAddr m))
    let hi := signedValue .word (s.busWord 1 (linear (s.seg (s.memSeg m)).base (s.ea m + 2)))
    let i := signedValue .word (s.regs.get (reg16Of reg))
    (lo ≤ i ∧ i ≤ hi → exec (.bound reg m) s = .next s) ∧
    (i < lo ∨ hi < i → exec (.bound reg m) s = s.takeException 5#8 0#16 .unchanged))

/-- R543 to R545, R640: INT n, INT 3 and INTO with OF = 1 in real address mode: FLAGS, CS and the
address of the next instruction are pushed, IF and TF cleared, and CS:IP is table entry n. INTO with
OF = 0 changes nothing. The model's own choices in it are those of notes/assumptions/4.md. -/
def Obligations.SoftwareInterruptsInRealMode : Prop :=
  ∀ s : State,
    (s.flags.of = false → exec .into s = .next s) ∧
    (∀ (i : Instr) (n : Byte), s.msw.pe = false →
      (i = .int n ∨ (i = .int3 ∧ n = 3#8) ∨ (i = .into ∧ n = 4#8 ∧ s.flags.of = true)) →
      4 * n.toNat + 3 ≤ s.idtr.limit.toNat → s.pushOk 3 = true →
      let a := s.idtr.base + BitVec.ofNat 24 (4 * n.toNat)
      s.answersAt a 4 = true →
      ∃ t, exec i s = .next t ∧ s.pushed t [s.flags.toWord, s.cs.sel, s.ip] ∧
        t.flags = { s.flags with intf := false, tf := false } ∧ t.ip = s.entering.lockedWord 0 a ∧
        t.cs = realCs (s.entering.lockedWord 0 (a + 2)) ∧ s.regs.onlyWord t.regs .sp (s.regs.sp - 6) ∧
        t.ss = s.ss ∧ t.ds = s.ds ∧ t.es = s.es ∧ t.msw = s.msw ∧ t.run = .running)

/-- R36, R64, R624, R640, R641, R650: taking exception v in real address mode: as an interrupt
through entry v, with the address of the instruction's first prefix saved and no error code; the
interrupt inhibit is over with the instruction. The model's own choices in it are those of
notes/assumptions/4.md, 21.md. -/
def Obligations.ExceptionEntryInRealMode : Prop :=
  ∀ (s : State) (v : Byte) (code : Word), s.msw.pe = false →
    4 * v.toNat + 3 ≤ s.idtr.limit.toNat → s.pushOk 3 = true →
    let a := s.idtr.base + BitVec.ofNat 24 (4 * v.toNat)
    s.answersAt a 4 = true →
    ∃ t, s.takeException v code .unchanged = .next t ∧
      s.pushed t [s.flags.toWord, s.cs.sel, s.curIp] ∧
      t.flags = { s.flags with intf := false, tf := false } ∧ t.ip = s.entering.lockedWord 0 a ∧
      t.cs = realCs (s.entering.lockedWord 0 (a + 2)) ∧ s.regs.onlyWord t.regs .sp (s.regs.sp - 6) ∧
      t.ss = s.ss ∧ t.ds = s.ds ∧ t.es = s.es ∧ t.run = .running ∧ t.intInhibit = false

/-- R372, R643, R671: in real address mode an interrupt whose table entry lies outside the limit of IDTR
is exception 8 in its place, with the instruction's own address saved; where entry 8 lies outside too
the processor shuts down. A push with SP = 0001h shuts it down, by whatever instruction: PUSH, PUSHF,
PUSHA, near and far CALL, ENTER of level 0 or 1, INT n, INT 3, INTO; nothing has changed where that is
its first push, and SP = 0001h where it is a later one. The model's own choices in it are those of
notes/assumptions/4.md, 13.md, 23.md. -/
def Obligations.RealModeTableLimitAndShutdown : Prop :=
  (∀ (s : State) (n : Byte), s.msw.pe = false → s.idtr.limit.toNat < 4 * n.toNat + 3 →
    (n ≠ 8#8 → n ≠ 13#8 → 35 ≤ s.idtr.limit.toNat → s.pushOk 3 = true →
      s.answersAt (s.idtr.base + 32) 4 = true →
      ∃ t, exec (.int n) s = .next t ∧ s.pushed t [s.flags.toWord, s.cs.sel, s.curIp] ∧
        t.ip = s.entering.lockedWord 0 (s.idtr.base + 32) ∧
        t.cs = realCs (s.entering.lockedWord 0 (s.idtr.base + 34))) ∧
    (s.idtr.limit.toNat < 35 →
      exec (.int n) s = .next { s with
        run := .shutdown, tfAtStart := false, pre := Prefixes.none,
        out := .shutdownCycle :: s.out })) ∧
  (∀ (s : State) (i : Instr) (pushes : Nat), s.msw.pe = false →
    ((pushes = 1 ∧
        ((∃ reg, i = .pushReg reg) ∨ (∃ r, i = .pushSreg r) ∨ (∃ imm, i = .pushImm imm) ∨
          i = .pushf ∨ (∃ d, i = .callRel d) ∨
          ∃ rm, s.rmReady .read .word rm = true ∧ (i = .pushRm rm ∨ i = .callRm rm))) ∨
      (pushes = 2 ∧
        ((∃ off sel, i = .callFar off sel) ∨
          ∃ m, s.wordsReady (s.memSeg m) (s.ea m) 2 = true ∧ i = .callFarMem m)) ∨
      (pushes = 3 ∧
        ∃ n : Byte, (i = .int n ∨ (i = .int3 ∧ n = 3#8) ∨
          (i = .into ∧ n = 4#8 ∧ s.flags.of = true)) ∧ 4 * n.toNat + 3 ≤ s.idtr.limit.toNat ∧
          s.answersAt (s.idtr.base + BitVec.ofNat 24 (4 * n.toNat)) 4 = true) ∨
      (pushes = 8 ∧ i = .pusha) ∨
      (∃ size level, i = .enter size level ∧ level.toNat % 32 < 2 ∧
        pushes = level.toNat % 32 + 1)) →
    (s.regs.sp = 1#16 →
      exec i s = .next { s with
        run := .shutdown, tfAtStart := false, pre := Prefixes.none,
        out := .shutdownCycle :: s.out }) ∧
    (s.regs.sp.toNat % 2 = 1 → s.regs.sp.toNat < 2 * pushes →
      ∃ t, exec i s = .next t ∧ t.run = .shutdown ∧ t.regs.sp = 1#16 ∧
        t.out = .shutdownCycle :: s.out))

/-- R241, R624, R634, R645: an interrupt gate (type 6) or a trap gate (type 7) to a code segment of the
current level. An exception pushes FLAGS, CS, the instruction's address and, for the vectors that have
one, the error code; INT n, INT 3 and INTO, through a gate whose DPL admits CPL, push FLAGS, CS and the
address of the next instruction, and so does, whatever the gate's DPL, an interrupt between two
instructions. TF and NT are cleared, and IF for an interrupt gate and for an NMI; the accessed bit of
the code descriptor is set after the pushes. The model's own choices in it are those of
notes/assumptions/13.md. -/
def Obligations.EntryThroughAGate : Prop :=
  ∀ (s : State) (n : Byte) (c : Addr), s.msw.pe = true → 8 * n.toNat + 7 ≤ s.idtr.limit.toNat →
    let gate := s.idtr.base + BitVec.ofNat 24 (8 * n.toNat)
    let g := s.entering.busDesc 2 gate
    let d := s.entering.busDesc 3 c
    s.answersAt gate 6 = true → s.answersAt c 6 = true →
    (arSystemType g.ar = some 6 ∨ arSystemType g.ar = some 7) → arPresent g.ar = true →
    isNull g.gateSelector = false → s.descAddr g.gateSelector = some c →
    arSegment d.ar = true → arExec d.ar = true → arPresent d.ar = true → arDpl d.ar = s.cpl →
    g.gateOffset ≤ d.limit →
    let entered := fun (t : State) (frame : List Word) (nmi : Bool) =>
      (∃ u, s.pushed u frame ∧ (∀ b : Addr, b ≠ c + 5 → t.readByte b = u.readByte b)) ∧
        (s.isRam (c + 5) 1 = true → (∀ j, j < 2 * frame.length → c + 5 ≠ s.below (j + 1)) →
          t.readByte (c + 5) = s.accessedByte c d) ∧
        t.flags = { s.flags with
          tf := false, nt := false,
          intf := if arSystemType g.ar = some 6 ∨ nmi = true then false else s.flags.intf } ∧
        t.ip = g.gateOffset ∧ t.cpl = s.cpl ∧
        t.cs.loadedFrom ((g.gateSelector &&& 0xFFFC#16) ||| s.cpl.setWidth 16) d ∧
        s.regs.onlyWord t.regs .sp (s.regs.sp - BitVec.ofNat 16 (2 * frame.length)) ∧
        t.ss = s.ss ∧ t.ds = s.ds ∧ t.es = s.es
    (∀ (code : Word) (frame : List Word),
      frame = [s.flags.toWord, s.cs.sel, s.curIp] ++
        (if n = 8#8 ∨ n = 10#8 ∨ n = 11#8 ∨ n = 12#8 ∨ n = 13#8 then [code] else []) →
      s.pushOk frame.length = true →
      ∃ t, s.takeException n code .unchanged = .next t ∧ entered t frame false) ∧
    (∀ i : Instr, (i = .int n ∨ (i = .int3 ∧ n = 3#8) ∨
        (i = .into ∧ n = 4#8 ∧ s.flags.of = true)) →
      s.cpl ≤ arDpl g.ar → s.pushOk 3 = true →
      ∃ t, exec i s = .next t ∧ entered t [s.flags.toWord, s.cs.sel, s.ip] false) ∧
    (∀ e : BoundaryEvent, n = s.eventVector e → s.pushOk 3 = true →
      ∃ t, s.deliverEvent e = .next t ∧
        entered t [s.flags.toWord, s.cs.sel, s.ip] (e == .nmi))

/-- R236, R241, R624, R634, R645: an interrupt or trap gate to a non-conforming code segment of a more
privileged level: SS:SP come from the task state segment, and the old SS and SP are pushed below the new
top of the stack before FLAGS, CS and the address: for an exception that of the instruction, with the
error code last where its vector has one; for INT n, INT 3 and INTO, through a gate whose DPL admits
CPL, and for an interrupt between two instructions whatever the gate's DPL, that of the next
instruction. What is read after a code descriptor whose accessed bit is to be set is what memory held when
that was read. The model's own choices in it are those of notes/assumptions/13.md, 31.md. -/
def Obligations.EntryToAnInnerLevel : Prop :=
  ∀ (s : State) (n : Byte) (c k : Addr) (newSs newSp : Word), s.msw.pe = true →
    8 * n.toNat + 7 ≤ s.idtr.limit.toNat →
    let gate := s.idtr.base + BitVec.ofNat 24 (8 * n.toNat)
    let g := s.entering.busDesc 2 gate
    let d := s.entering.busDesc 3 c
    s.answersAt gate 6 = true → s.answersAt c 6 = true →
    (arSystemType g.ar = some 6 ∨ arSystemType g.ar = some 7) → arPresent g.ar = true →
    isNull g.gateSelector = false → s.descAddr g.gateSelector = some c →
    arSegment d.ar = true → arExec d.ar = true → arDirConf d.ar = false →
    arPresent d.ar = true → arDpl d.ar < s.cpl → g.gateOffset ≤ d.limit →
    let h := s.entering.holdAccessed d
    let entered := fun (t : State) (frame : List Word) (nmi : Bool) =>
      s.entersInner t g.gateSelector g.gateOffset c d newSs newSp k (h.busDesc 12 k) frame ∧
        t.flags = { s.flags with
          tf := false, nt := false,
          intf := if arSystemType g.ar = some 6 ∨ nmi = true then false else s.flags.intf }
    (∀ (code : Word) (frame : List Word),
      frame = [s.ss.sel, s.regs.sp, s.flags.toWord, s.cs.sel, s.curIp] ++
        (if n = 8#8 ∨ n = 10#8 ∨ n = 11#8 ∨ n = 12#8 ∨ n = 13#8 then [code] else []) →
      h.innerStackAt (arDpl d.ar) newSs newSp k frame.length →
      ∃ t, s.takeException n code .unchanged = .next t ∧ entered t frame false) ∧
    (∀ i : Instr, (i = .int n ∨ (i = .int3 ∧ n = 3#8) ∨
        (i = .into ∧ n = 4#8 ∧ s.flags.of = true)) →
      s.cpl ≤ arDpl g.ar → h.innerStackAt (arDpl d.ar) newSs newSp k 5 →
      ∃ t, exec i s = .next t ∧
        entered t [s.ss.sel, s.regs.sp, s.flags.toWord, s.cs.sel, s.ip] false) ∧
    (∀ e : BoundaryEvent, n = s.eventVector e → h.innerStackAt (arDpl d.ar) newSs newSp k 5 →
      ∃ t, s.deliverEvent e = .next t ∧
        entered t [s.ss.sel, s.regs.sp, s.flags.toWord, s.cs.sel, s.ip] (e == .nmi))

/-- R624, R630 to R637: an interrupt between two instructions. A step of a running or halted machine
that has one takes the first of single step, NMI, extension overrun and INTR that is requested, not held
off and not already taken at this boundary: NMI, overrun and INTR wait while an NMI is in service, INTR
needs IF = 1, and without the interrupt inhibit none is put off, but an INTR that was not high through
the whole instruction. A rising edge of NMI is latched. That the edge is a rise between the samples of
two steps is the model's choice (notes/assumptions/22.md), and so are that an INTR which was high at the
start of the instruction is taken after it, that another may be put off by one instruction, and that in
halt none is (notes/assumptions/21.md). In real address mode each is an entry through
its table entry with the address of the next instruction saved: an NMI is then in service, INTR has read
its vector, a latch that is answered is clear, and the interrupt inhibit stays until the next instruction.
The model's own choices in it are those of
notes/assumptions/4.md, 21.md, 22.md, 23.md, 26.md. -/
def Obligations.BoundaryEvents : Prop :=
  (∀ (s : State) (e : BoundaryEvent), s.pins.reset = false → s.pins.resetDuring = false →
    (s.run = .running ∧ s.pre = Prefixes.none ∨ s.run = .halted) → s.sample.servePereq = none →
    s.sample.nextEvent = some e →
    step s = s.sample.settled (s.sample.answered (s.sample.deliverEvent e))) ∧
  (∀ s : State, s.sample.nmiPending = (s.nmiPending || (s.pins.nmi && !s.nmiLast)) ∧
    s.sample.nmiLast = s.pins.nmi) ∧
  (∀ s : State, s.intInhibit = false →
    let trap := s.tfAtStart = true ∧ s.boundaryStep < 2
    let nmi := s.nmiPending = true ∧ s.nmiInService = false ∧ s.boundaryStep < 3
    let overrun := s.pxOverrun = true ∧ s.nmiInService = false ∧ s.boundaryStep < 4
    let intr := s.pins.intr = true ∧ s.flags.intf = true ∧ s.nmiInService = false ∧
      s.boundaryStep < 5
    (trap → s.nextEvent = some .trap) ∧ (¬trap → nmi → s.nextEvent = some .nmi) ∧
    (¬trap → ¬nmi → overrun → s.nextEvent = some .overrun) ∧
    (¬trap → ¬nmi → ¬overrun → intr → s.run = .halted ∨ s.intrHeld = true →
      s.nextEvent = some .intr) ∧
    (¬trap → ¬nmi → ¬overrun → ¬intr → s.nextEvent = none)) ∧
  (∀ (s : State) (e : BoundaryEvent) (n : Byte), s.msw.pe = false →
    (e = .trap ∧ n = 1#8 ∨ e = .nmi ∧ n = 2#8 ∨ e = .overrun ∧ n = 9#8 ∨
      e = .intr ∧ n = s.pins.vector) →
    4 * n.toNat + 3 ≤ s.idtr.limit.toNat → s.pushOk 3 = true →
    let a := s.idtr.base + BitVec.ofNat 24 (4 * n.toNat)
    s.answersAt a 4 = true →
    ∃ t, s.deliverEvent e = .next t ∧ s.pushed t [s.flags.toWord, s.cs.sel, s.ip] ∧
      t.flags = { s.flags with intf := false, tf := false } ∧ t.ip = s.entering.lockedWord 0 a ∧
      t.cs = realCs (s.entering.lockedWord 0 (a + 2)) ∧ s.regs.onlyWord t.regs .sp (s.regs.sp - 6) ∧
      t.ss = s.ss ∧ t.ds = s.ds ∧ t.es = s.es ∧ t.msw = s.msw ∧ t.run = .running ∧
      t.tfAtStart = false ∧ t.nmiPending = (s.nmiPending && e != .nmi) ∧
      t.nmiInService = (s.nmiInService || e == .nmi) ∧
      t.pxOverrun = (s.pxOverrun && e != .overrun) ∧
      t.out = (if e = .intr then [.intAck s.pins.vector] else []) ++ s.out ∧
      t.boundaryStep = e.order ∧ t.intInhibit = s.intInhibit)

/-- R245, R248, R249, R254, R256, R257: a task switch that completes. Memory has changed, but for
accessed bits, in the outgoing task's words of its task state segment, in the busy bits, and in the back
link of a CALL or an interrupt. TR is the new task's; the registers, IP, FLAGS and selectors are the
words of its task state segment, a CALL or an interrupt setting NT; LDTR, CS and SS have their
descriptors, CPL is the RPL of CS; TS is set, MSW's other bits, GDTR and IDTR are not touched. JMP and
CALL to a task state segment or a task gate, IRET with NT = 1 and INT n through a task gate are such a
switch. That from the read of the new task's descriptor to the store of its busy bit, which an IRET does
not make, memory is read as it was at the start of them is the model's choice (notes/assumptions/31.md):
it rests on the sentence of R129 that a descriptor's read and the store of its busy bit are one locked
sequence, which the spec marks [from general knowledge, not in source], where R258 admits other masters
between the bus operations of a task switch. The model's own choices in it are those of
notes/assumptions/16.md, 17.md, 31.md. -/
def Obligations.TaskSwitches : Prop :=
  (∀ (s t : State) (tsel : Word) (kind : SwitchKind) (gate : Bool) (ext retIp : Word),
    s.msw.pe = true → s.taskSwitch tsel kind gate ext retIp = .ok t →
    ∃ a : Addr, s.descAddr tsel = some a ∧ s.tr.loaded = true ∧
      let d := s.busDesc 3 a
      let b := d.base
      let u := (if kind = .iret then s else s.hold d).saveTask kind retIp
      let v := ((u.clearBusy kind).markBusy kind a d).release s
      let w := v.linkBack kind b s.tr.sel
      let nests := kind = .call ∨ kind = .int
      let frees := kind = .jmp ∨ kind = .iret
      let saved := fun x : Addr => ∃ i, i < 28 ∧ x = s.tr.base + 14 + BitVec.ofNat 24 i
      let oldBusy := linear s.gdtr.base (selOffset s.tr.sel) + 5
      let written := fun x : Addr => (frees ∧ x = oldBusy) ∨ (kind ≠ .iret ∧ x = a + 5) ∨
        (nests ∧ (x = b ∨ x = b + 1))
      let savedFlags := if kind = .iret then { s.flags with nt := false } else s.flags
      ((∀ x : Addr, ¬saved x → ¬written x → w.readByte x = s.readByte x) ∧
        (∀ i, i < 14 →
          let x := s.tr.base + 14 + BitVec.ofNat 24 (2 * i)
          s.isRam x 2 = true → ¬written x → ¬written (x + 1) →
          w.readWord x = [retIp, savedFlags.toWord, s.regs.ax, s.regs.cx, s.regs.dx, s.regs.bx,
            s.regs.sp, s.regs.bp, s.regs.si, s.regs.di, s.es.sel, s.cs.sel, s.ss.sel,
            s.ds.sel].getD i 0#16) ∧
        (frees → s.isRam oldBusy 1 = true → (kind = .jmp → oldBusy ≠ a + 5) →
          w.readByte oldBusy = u.busByte 0 oldBusy &&& 0xFD#8) ∧
        (kind ≠ .iret → s.isRam (a + 5) 1 = true → (nests → a + 5 ≠ b ∧ a + 5 ≠ b + 1) →
          w.readByte (a + 5) = d.ar ||| 2#8) ∧
        (nests → s.isRam b 2 = true → w.readWord b = s.tr.sel)) ∧
      ((∀ x : Addr, (∀ (r : SReg) (p : Addr), t.descAddr (t.seg r).sel = some p → x ≠ p + 5) →
          t.readByte x = w.readByte x) ∧
        t.tr = { sel := tsel, base := b, limit := d.limit, loaded := true } ∧
        t.regs = { ax := v.tssWord b 18, cx := v.tssWord b 20, dx := v.tssWord b 22,
                   bx := v.tssWord b 24, sp := v.tssWord b 26, bp := v.tssWord b 28,
                   si := v.tssWord b 30, di := v.tssWord b 32 } ∧
        t.ip = v.tssWord b 14 ∧
        (nests → t.flags = { Flags.ofWord (v.tssWord b 16) with nt := true }) ∧
        (¬nests → t.flags = Flags.ofWord (v.tssWord b 16)) ∧
        t.es.sel = v.tssWord b 34 ∧ t.cs.sel = v.tssWord b 36 ∧ t.ss.sel = v.tssWord b 38 ∧
        t.ds.sel = v.tssWord b 40 ∧ t.ldtr.sel = v.tssWord b 42) ∧
      ((isNull t.ldtr.sel = true → t.ldtr.usable = false) ∧
        (isNull t.ldtr.sel = false → ∃ l, w.gdtAddr t.ldtr.sel = some l ∧
          let e := w.busDesc 26 l
          arSystemType e.ar = some 2 ∧ arPresent e.ar = true ∧ t.ldtr.base = e.base ∧
          t.ldtr.limit = e.limit ∧ t.ldtr.usable = true) ∧
        t.cpl = rpl t.cs.sel ∧
        (∃ p q x, t.descAddr t.cs.sel = some p ∧ t.descAddr t.ss.sel = some q ∧
          let c := w.busDesc 27 p
          let e := (w.setAccessed p c).busDesc 28 q
          returnAdmits t.cs.sel c ∧ arPresent c.ar = true ∧ t.cs.loadedFrom t.cs.sel c ∧
          x = w.setAccessed p c ∧ w.accessedAt x p c ∧ stackLoadable t.cpl t.ss.sel e ∧
          t.ss.loadedFrom t.ss.sel e) ∧
        t.ds.valid = !isNull t.ds.sel ∧ t.es.valid = !isNull t.es.sel ∧
        t.ip.toNat ≤ t.cs.limit.toNat) ∧
      t.msw = { s.msw with ts := true } ∧ t.gdtr = s.gdtr ∧ t.idtr = s.idtr ∧ t.stale = []) ∧
  (∀ (s t : State) (i : Instr) (call : Bool) (off sel : Word) (a : Addr), s.msw.pe = true →
    s.farTransfer i call off sel → isNull sel = false → s.descAddr sel = some a →
    s.answersAt a 6 = true →
    let d := s.busDesc 2 a
    let kind := if call then SwitchKind.call else .jmp
    s.cpl ≤ arDpl d.ar → rpl sel ≤ arDpl d.ar →
    (arSystemType d.ar = some 1 → s.taskSwitch sel kind false 0#16 s.ip = .ok t →
      exec i s = .next t) ∧
    (arSystemType d.ar = some 5 → arPresent d.ar = true →
      s.taskSwitch d.gateSelector kind true 0#16 s.ip = .ok t → exec i s = .next t)) ∧
  (∀ s t : State, s.msw.pe = true → s.flags.nt = true → s.tr.loaded = true →
    1 ≤ s.tr.limit.toNat → s.answersAt s.tr.base 2 = true →
    s.taskSwitch (s.busWord 0 s.tr.base) .iret false 0#16 s.ip = .ok t →
    exec .iret s = .next { t with nmiInService := false }) ∧
  (∀ (s t : State) (n : Byte), s.msw.pe = true → 8 * n.toNat + 7 ≤ s.idtr.limit.toNat →
    let gate := s.idtr.base + BitVec.ofNat 24 (8 * n.toNat)
    let g := s.entering.busDesc 2 gate
    s.answersAt gate 6 = true →
    arSystemType g.ar = some 5 → arPresent g.ar = true → s.cpl ≤ arDpl g.ar →
    s.entering.taskSwitch g.gateSelector .int true 0#16 s.ip = .ok t →
    ∃ u, exec (.int n) s = .next u ∧
      u = { t with run := .running, pre := Prefixes.none, tfAtStart := u.tfAtStart
                   clock := s.clock })

/-- R234, R236, R237: JMP and CALL through a call gate, whose offset and selector take the place of the
instruction's. A gate or a target that the privilege rules do not admit, or of the wrong kind, is
exception 13 with its selector, an absent one exception 11. A target of the same level is entered as it
is directly, its accessed bit set; that a non-conforming one is exception 13 where the RPL of the gate's
selector is greater than CPL, and is entered only where it is not, is the model's choice
(notes/assumptions/33.md). A CALL to a more privileged non-conforming one switches to the stack of the
task state segment, with the old SS and SP, the parameter words in their order, CS and the next IP
pushed on it, which are read as memory held them when the code descriptor was, or the stack descriptor
where that alone is to have its accessed bit set; a JMP to one is exception 13. The model's own choices
in it are those of notes/assumptions/13.md, 31.md, 33.md. -/
def Obligations.CallGates : Prop :=
  ∀ (s : State) (i : Instr) (call : Bool) (off sel : Word) (p : Addr), s.msw.pe = true →
    s.farTransfer i call off sel → isNull sel = false → s.descAddr sel = some p →
    s.answersAt p 6 = true →
    let g := s.busDesc 2 p
    let csel := g.gateSelector
    let fails := fun (v : Byte) (code : Word) => exec i s = s.takeException v code .unchanged
    arSystemType g.ar = some 4 →
    (arDpl g.ar < s.cpl ∨ arDpl g.ar < rpl sel → fails 13#8 (sel &&& 0xFFFC#16)) ∧
    (s.cpl ≤ arDpl g.ar → rpl sel ≤ arDpl g.ar →
      (arPresent g.ar = false → fails 11#8 (sel &&& 0xFFFC#16)) ∧
      (arPresent g.ar = true →
        (isNull csel = true → fails 13#8 0#16) ∧
        (isNull csel = false → s.descAddr csel = none → fails 13#8 (csel &&& 0xFFFC#16)) ∧
        (∀ c : Addr, isNull csel = false → s.descAddr csel = some c → s.answersAt c 6 = true →
          let d := s.busDesc 3 c
          let admitted := arSegment d.ar = true ∧ arExec d.ar = true ∧ arDpl d.ar ≤ s.cpl
          (¬admitted → fails 13#8 (csel &&& 0xFFFC#16)) ∧
          (admitted → arPresent d.ar = false → fails 11#8 (csel &&& 0xFFFC#16)) ∧
          (admitted → arPresent d.ar = true → arDirConf d.ar = false → arDpl d.ar = s.cpl →
            s.cpl < rpl csel → fails 13#8 (csel &&& 0xFFFC#16)) ∧
          (codeReachable s.cpl csel d → g.gateOffset ≤ d.limit →
            (call = true → s.pushOk 2 = true) →
            let frame := if call then [s.cs.sel, s.ip] else []
            ∃ t u, exec i s = .next t ∧ s.pushed u frame ∧
              (∀ b : Addr, b ≠ c + 5 → t.readByte b = u.readByte b) ∧
              (s.isRam (c + 5) 1 = true →
                (∀ j, j < 2 * frame.length → c + 5 ≠ s.below (j + 1)) →
                t.readByte (c + 5) = s.accessedByte c d) ∧
              t.cs.loadedFrom ((csel &&& 0xFFFC#16) ||| s.cpl.setWidth 16) d ∧
              t.ip = g.gateOffset ∧ t.cpl = s.cpl ∧ s.regs.onlyWord t.regs .sp u.regs.sp ∧
              t.flags = s.flags ∧ t.ss = s.ss ∧ t.ds = s.ds ∧ t.es = s.es) ∧
          (admitted → arPresent d.ar = true → arDirConf d.ar = false → arDpl d.ar < s.cpl →
            (call = false → fails 13#8 (csel &&& 0xFFFC#16)) ∧
            (∀ (newSs newSp : Word) (k : Addr) (params : List Word), call = true →
              let h := s.holdAccessed d
              let e := h.busDesc 12 k
              h.innerStackAt (arDpl d.ar) newSs newSp k (4 + g.gateCount) →
              g.gateOffset ≤ d.limit →
              (∀ j, j < g.gateCount →
                s.readReady .ss (s.regs.sp + BitVec.ofNat 16 (2 * j)) .word = true) →
              params = (List.range g.gateCount).map (fun j =>
                (h.holdAccessed e).busWord (13 + j) (s.above (2 * j))) →
              ∃ t, exec i s = .next t ∧ t.flags = s.flags ∧
                s.entersInner t csel g.gateOffset c d newSs newSp k e
                  ([s.ss.sel, s.regs.sp] ++ params.reverse ++ [s.cs.sel, s.ip]))))))

/-- R216, R238, R239, R547: RET far and, with NT = 0, IRET in protected mode to a code segment of a less
privileged level: SS:SP are popped after the return address and the immediate is added to both stack
pointers, CPL is the RPL of CS, IRET loads FLAGS by the rules of the old level, and DS and ES are null
where the new level may not use them. What is read after a code descriptor whose accessed bit is to be set
is what memory held when that was read. A return selector of a more privileged level is exception 13. That
a frame which ends at offset FFFFh is popped is the model's choice (notes/assumptions/13.md, R238 against
R372). The model's own choices in it are those of notes/assumptions/12.md, 13.md, 25.md, 31.md. -/
def Obligations.ReturnsToAnOuterLevel : Prop :=
  ∀ (s : State) (i : Instr) (adj : Word) (iret : Bool) (k : Nat) (a : Addr), s.msw.pe = true →
    (iret = false ∧ k = 4 ∧ (i = .retFar ∧ adj = 0#16 ∨ i = .retFarImm adj) ∨
      iret = true ∧ k = 6 ∧ i = .iret ∧ adj = 0#16 ∧ s.flags.nt = false) →
    s.ss.permits .read s.regs.sp k = true → s.wordsAnswer .ss s.regs.sp (k / 2) = true →
    let newIp := s.busWord 0 (s.above 0)
    let newCs := s.busWord 1 (s.above 2)
    let g := Flags.ofWord (s.busWord 2 (s.above 4))
    let d := s.busDesc 3 a
    isNull newCs = false → s.descAddr newCs = some a → s.answersAt a 6 = true →
    (rpl newCs < s.cpl →
      exec i s = s.takeException 13#8 (newCs &&& 0xFFFC#16) .unchanged) ∧
    (s.cpl < rpl newCs → returnAdmits newCs d → arPresent d.ar = true → newIp ≤ d.limit →
      s.ss.permits .read s.regs.sp (k + adj.toNat + 4) = true →
      s.wordsAnswer .ss (s.regs.sp + BitVec.ofNat 16 k + adj) 2 = true →
      let h := s.holdAccessed d
      let outSp := h.busWord 4 (s.above (k + adj.toNat))
      let outSs := h.busWord 5 (s.above (k + adj.toNat + 2))
      ∀ p : Addr, isNull outSs = false → s.descAddr outSs = some p → s.answersAt p 6 = true →
        let e := h.busDesc 6 p
        stackLoadable (rpl newCs) outSs e →
        ∃ t, exec i s = .next t ∧ t.cpl = rpl newCs ∧ t.cs.loadedFrom newCs d ∧ t.ip = newIp ∧
          t.ss.loadedFrom outSs e ∧ t.regs = { s.regs with sp := outSp + adj } ∧
          t.flags = (if iret then
            { g with
              intf := if s.cpl ≤ s.flags.iopl then g.intf else s.flags.intf
              iopl := if s.cpl = 0#2 then g.iopl else s.flags.iopl }
            else s.flags) ∧
          (∀ r, r = .ds ∨ r = .es →
            let unusable := (s.seg r).valid = true ∧ arDpl (s.seg r).ar < rpl newCs ∧
              ¬(arExec (s.seg r).ar = true ∧ arDirConf (s.seg r).ar = true)
            (unusable → t.seg r = { s.seg r with sel := 0#16, valid := false }) ∧
            (¬unusable → t.seg r = s.seg r)) ∧
          (∀ b : Addr, b ≠ a + 5 → b ≠ p + 5 → t.readByte b = s.readByte b) ∧
          (∀ x ∈ [(a, d), (p, e)], a ≠ p → s.isRam (x.1 + 5) 1 = true →
            t.readByte (x.1 + 5) = s.accessedByte x.1 x.2) ∧
          t.nmiInService = (s.nmiInService && !iret))

/-- R216, R238, R546, R547: IRET in real address mode pops IP, CS and FLAGS and keeps IOPL and NT.
In protected mode with NT = 0 and a return to the same level, a conforming code segment of a more
privileged one included, IF is loaded only if CPL <= IOPL and IOPL only if CPL = 0. Both end the service
of an NMI. That in protected mode a frame which ends at offset FFFFh is popped, and SP wraps to 0000h, is
the model's choice (notes/assumptions/13.md, R238 against R372). The model's own choices in it are those
of notes/assumptions/4.md, 13.md, 25.md. -/
def Obligations.InterruptReturns : Prop :=
  (∀ s : State, s.msw.pe = false → s.wordsReady .ss s.regs.sp 3 = true →
    exec .iret s = .next { s.atFar (s.busWord 1 (s.above 2)) (s.busWord 0 (s.above 0)) with
      regs := { s.regs with sp := s.regs.sp + 6 }
      flags := { Flags.ofWord (s.busWord 2 (s.above 4)) with
        iopl := s.flags.iopl, nt := s.flags.nt }
      nmiInService := false }) ∧
  (∀ (s : State) (a : Addr), s.msw.pe = true → s.flags.nt = false →
    s.ss.permits .read s.regs.sp 6 = true → s.wordsAnswer .ss s.regs.sp 3 = true →
    let newIp := s.busWord 0 (s.above 0)
    let newCs := s.busWord 1 (s.above 2)
    let g := Flags.ofWord (s.busWord 2 (s.above 4))
    let d := s.busDesc 3 a
    isNull newCs = false → s.descAddr newCs = some a → s.answersAt a 6 = true →
    rpl newCs = s.cpl → returnAdmits newCs d → arPresent d.ar = true → newIp ≤ d.limit →
    ∃ t, exec .iret s = .next t ∧ t.cs.loadedFrom newCs d ∧ t.ip = newIp ∧ t.cpl = s.cpl ∧
      t.regs = { s.regs with sp := s.regs.sp + 6 } ∧
      t.flags = { g with
        intf := if s.cpl ≤ s.flags.iopl then g.intf else s.flags.intf
        iopl := if s.cpl = 0#2 then g.iopl else s.flags.iopl } ∧
      s.accessedAt t a d ∧ t.nmiInService = false ∧ t.ss = s.ss ∧ t.ds = s.ds ∧ t.es = s.es)

/-! ## Processor control -/

/-- R62, R561 to R568, R574, R673, R706: the flag instructions; CLI and STI where CPL admits them, STI
with the interrupt inhibit set for the next instruction. HLT halts the processor and signals it on the
bus; a halted processor with no input active stays as it is, but for the count of free values, the
sampled level of NMI and the clock of the step. CTS clears TS. The model's own choices in it are those of
notes/assumptions/5.md, 22.md, 23.md. -/
def Obligations.FlagInstructionsAndHalt : Prop :=
  (∀ s : State,
    exec .clc s = .next { s with flags := { s.flags with cf := false } } ∧
    exec .cmc s = .next { s with flags := { s.flags with cf := !s.flags.cf } } ∧
    exec .stc s = .next { s with flags := { s.flags with cf := true } } ∧
    exec .cld s = .next { s with flags := { s.flags with df := false } } ∧
    exec .std s = .next { s with flags := { s.flags with df := true } } ∧
    ((s.msw.pe = false ∨ s.cpl ≤ s.flags.iopl) →
      exec .cli s = .next { s with flags := { s.flags with intf := false } } ∧
      exec .sti s = .next { s with
        flags := { s.flags with intf := true }, intInhibit := true })) ∧
  (∀ s : State, (s.msw.pe = false ∨ s.cpl = 0#2) →
    exec .hlt s = .next { s with run := .halted, out := .haltCycle :: s.out } ∧
    exec .cts s = .next { s with msw := { s.msw with ts := false } }) ∧
  (∀ s : State, s.run = .halted → s.pins.reset = false → s.pins.resetDuring = false →
    s.pins.intr = false → s.pins.nmi = false → s.pins.pereq = [] → s.pins.masterStores = [] →
    s.nmiPending = false → s.pxOverrun = false → s.tfAtStart = false →
    step s = .next { s with
      nmiLast := false, stores := [], draws := s.draws + 1, clock := s.sample.clock, flushed := none })

/-- R571, R575, R576, R624, R640: exception 7 for every value of TS, MP and EM: ESC raises it with EM
= 1 or TS = 1, WAIT with TS = 1 and MP = 1, and in the other rows they execute, where no extension is
attached or BUSY and ERROR are inactive: WAIT changes nothing, and an ESC of the register form has its
bytes, from the opcode byte on, handed over. No error code is pushed, the saved address is that of the
ESC or WAIT (in protected mode EntryThroughAGate says it for every exception), and TS is not cleared.
The model's own choices in it are those of notes/assumptions/23.md, 27.md. -/
def Obligations.ProcessorExtensionNotAvailable : Prop :=
  ∀ (s : State) (ttt lll : BitVec 3) (rm : RM),
    (s.msw.em = true ∨ s.msw.ts = true →
      exec (.esc ttt lll rm) s = s.takeException 7#8 0#16 .unchanged) ∧
    (s.msw.ts = true ∧ s.msw.mp = true → exec .wait s = s.takeException 7#8 0#16 .unchanged) ∧
    ((s.platform.pxPresent = true → s.pins.busy = false ∧ s.pins.error = false) →
      (s.msw.em = false → s.msw.ts = false → ∀ n, rm = .reg n →
        exec (.esc ttt lll rm) s =
          .next { s with out := .esc (encode (.esc ttt lll rm)) none :: s.out }) ∧
      (¬(s.msw.ts = true ∧ s.msw.mp = true) → exec .wait s = .next s)) ∧
    (s.msw.pe = false → 31 ≤ s.idtr.limit.toNat → s.pushOk 3 = true →
      s.answersAt (s.idtr.base + 28) 4 = true →
      ∃ t, s.takeException 7#8 0#16 .unchanged = .next t ∧
        s.pushed t [s.flags.toWord, s.cs.sel, s.curIp]) ∧
    (∀ t, s.takeException 7#8 0#16 .unchanged = .next t → s.msw.ts = true → t.msw.ts = true)

/-- R571, R575, R577, R579, R656, R662, R730: with an extension attached WAIT stays where it is while
BUSY is active, and ERROR active is interrupt 16, with the instruction's own address saved; an ESC
with a memory operand whose first word its segment admits is handed over with its bytes, from the
opcode byte on, and the operand's segment register, selector, offset and direction, and the operand is
latched. The model's own choices in it are those of notes/assumptions/4.md, 23.md, 27.md, 37.md. -/
def Obligations.ProcessorExtensionInstructions : Prop :=
  (∀ s : State, ¬(s.msw.ts = true ∧ s.msw.mp = true) → s.platform.pxPresent = true →
    (s.pins.busy = true →
      exec .wait s = .next { s with ip := s.curIp, ipCarry := false, tfAtStart := false }) ∧
    (s.pins.busy = false → s.pins.error = true → s.msw.pe = false → 67 ≤ s.idtr.limit.toNat →
      s.pushOk 3 = true → s.answersAt (s.idtr.base + 64) 4 = true →
      ∃ t, exec .wait s = .next t ∧ s.pushed t [s.flags.toWord, s.cs.sel, s.curIp] ∧
        t.ip = s.entering.lockedWord 0 (s.idtr.base + 64) ∧
        t.cs = realCs (s.entering.lockedWord 0 (s.idtr.base + 66)) ∧
        t.flags = { s.flags with intf := false, tf := false })) ∧
  (∀ (s : State) (ttt lll : BitVec 3) (m : Mem), s.msw.em = false → s.msw.ts = false →
    (s.platform.pxPresent = true → s.pins.busy = false ∧ s.pins.error = false) →
    (s.msw.pe = true → (s.seg (s.memSeg m)).permits .read (s.ea m) 2 = true ∧
      (s.seg (s.memSeg m)).permits .write (s.ea m) 2 = true) →
    ∃ t dir, exec (.esc ttt lll (.mem m)) s = .next t ∧
      t = { s with
        out := .esc (encode (.esc ttt lll (.mem m)))
          (some { reg := s.memSeg m, selector := (s.seg (s.memSeg m)).sel, offset := s.ea m
                  write := dir }) :: s.out
        pxOperand := some { seg := s.seg (s.memSeg m), offset := (s.ea m).toNat, write := dir } })

/-! ## Protection control -/

/-- R60, R592 to R595, R597, R599, R604, R605: LGDT and LIDT load limit and base from six bytes;
SGDT and SIDT store them, the sixth byte not said. SLDT and STR in protected mode and SMSW in both
modes store the selector or MSW, whose bits 15 to 4 are ones. LMSW loads MP, EM and TS and sets PE,
which it cannot clear; where it sets PE the next instruction must be a near JMP (R780), and where
A23 to A20 were not decoded until then the bytes that may have been prefetched from the locations
the code had before may still be executed (R60, R104). The model's own choices in it are those of
notes/assumptions/11.md, 18.md, 19.md, 30.md. -/
def Obligations.SystemRegisterTransfers : Prop :=
  (∀ (s : State) (m : Mem),
    let cell := fun k : Word => linear (s.seg (s.memSeg m)).base (s.ea m + k)
    let word := fun (t : State) (k : Word) => t.readWord (cell k)
    ((s.msw.pe = false ∨ s.cpl = 0#2) → s.wordsReady (s.memSeg m) (s.ea m) 3 = true →
      let r : TableReg :=
        { limit := s.busWord 0 (cell 0#16)
          base := (s.busWord 2 (cell 4#16)).setWidth 8 ++ s.busWord 1 (cell 2#16) }
      exec (.lgdt m) s = .next { s with gdtr := r } ∧
      exec (.lidt m) s = .next { s with idtr := r }) ∧
    (s.wordsOk .write (s.memSeg m) (s.ea m) 3 = true →
      ∀ (i : Instr) (r : TableReg),
        (i = .sgdt m ∧ r = s.gdtr ∨ i = .sidt m ∧ r = s.idtr) →
        ∃ t, exec i s = .next t ∧
          (s.isRam (cell 0#16) 2 = true → word t 0#16 = r.limit) ∧
          (s.isRam (cell 2#16) 2 = true → word t 2#16 = r.base.setWidth 16) ∧
          (s.isRam (cell 4#16) 1 = true → t.readByte (cell 4#16) = (r.base >>> 16).setWidth 8) ∧
          (∀ b : Addr, (∀ k, k < 6 → s.apart b (cell (BitVec.ofNat 16 k))) →
            t.readByte b = s.readByte b) ∧
          t.regs = s.regs ∧ t.flags = s.flags ∧ s.sameElse t)) ∧
  (∀ (s : State) (rm : RM), s.rmOk .write .word rm = true →
    (s.msw.pe = true → movesInto (.sldt rm) s .word rm s.ldtr.sel ∧
      movesInto (.str rm) s .word rm s.tr.sel) ∧
    (∃ v : Word, movesInto (.smsw rm) s .word rm v ∧ v &&& 0xFFF0#16 = 0xFFF0#16 ∧
      v.getLsbD 0 = s.msw.pe ∧ v.getLsbD 1 = s.msw.mp ∧ v.getLsbD 2 = s.msw.em ∧
      v.getLsbD 3 = s.msw.ts)) ∧
  (∀ (s : State) (rm : RM), (s.msw.pe = false ∨ s.cpl = 0#2) → s.rmReady .read .word rm = true →
    let v := s.rmValue .word rm
    ∃ t, exec (.lmsw rm) s = .next t ∧
      t = { s with
        msw := { pe := s.msw.pe || v.getLsbD 0, mp := v.getLsbD 1, em := v.getLsbD 2,
                 ts := v.getLsbD 3 }
        modeSwitch := !s.msw.pe && v.getLsbD 0
        stale := t.stale } ∧
      (s.platform.a20Decoded = true ∨ s.msw.pe = true ∨ v.getLsbD 0 = false → t.stale = s.stale) ∧
      (s.msw.pe = false → v.getLsbD 0 = true → ∀ j,
        j < (s.ip - s.curIp).toNat + s.platform.prefetchWindow →
        let a := linear s.cs.base (s.curIp + BitVec.ofNat 16 j)
        s.physAddr a ≠ a.toNat → s.fetchAnswers a = true →
        (a.toNat, s.readByte a) ∈ t.stale))

/-- R596, R598: LLDT and LTR at CPL 0: the hidden base and limit are the descriptor's; a null
selector makes LDTR unusable; LTR makes the task state segment busy in memory. The model's own
choices in it are those of notes/assumptions/2.md. -/
def Obligations.LocalTableAndTaskRegisterLoads : Prop :=
  ∀ (s : State) (rm : RM), s.msw.pe = true → s.cpl = 0#2 → s.rmReady .read .word rm = true →
    let sel := s.rmValue .word rm
    (isNull sel = true →
      exec (.lldt rm) s = .next { s with ldtr := { s.ldtr with sel := sel, usable := false } } ∧
      exec (.ltr rm) s = s.takeException 13#8 0#16 .unchanged) ∧
    (∀ a : Addr, isNull sel = false → sel.getLsbD 2 = false → s.descAddr sel = some a →
      s.answersAt a 6 = true →
      let d := s.busDesc 2 a
      arPresent d.ar = true →
      (arSystemType d.ar = some 2 →
        exec (.lldt rm) s = .next { s with ldtr :=
          { sel := sel, base := d.base, limit := d.limit
            usable := true } }) ∧
      (arSystemType d.ar = some 1 →
        ∃ t, exec (.ltr rm) s = .next t ∧ t.tr.sel = sel ∧ t.tr.base = d.base ∧
          t.tr.limit = d.limit ∧
          (s.isRam (a + 5) 1 = true → arSystemType (t.readByte (a + 5)) = some 3) ∧
          s.sameMemoryBut t (a + 5) 1 ∧
          t = { s with tr := t.tr, mem := t.mem, stale := t.stale, stores := t.stores }))

/-- R606 to R611: LAR, LSL, VERR and VERW write ZF and, for LAR and LSL where they succeed, their
register; a null selector or one outside its table gives ZF = 0 and nothing else. Memory may change
in the accessed bit of the descriptor alone. ARPL raises the RPL of its operand to that of the
register and says so in ZF. The model's own choices in it are those of notes/assumptions/12.md. -/
def Obligations.SelectorTests : Prop :=
  (∀ (s : State) (reg : RegNum) (rm : RM), s.msw.pe = true → s.rmReady .read .word rm = true →
    let sel := s.rmValue .word rm
    (isNull sel = true ∨ s.descAddr sel = none →
      ∀ i ∈ [Instr.lar reg rm, .lsl reg rm, .verr rm, .verw rm],
        exec i s = .next { s with flags := { s.flags with zf := false } }) ∧
    (∀ a : Addr, isNull sel = false → s.descAddr sel = some a → s.answersAt a 6 = true →
      let d := s.busDesc 2 a
      ∀ (i : Instr) (ok : Prop) (result : Option Word),
        ((i = .lar reg rm ∧ result = some (d.ar.setWidth 16 <<< 8) ∧
            (ok ↔ testVisible s sel d ∧
              (arSegment d.ar = true ∨ arSystemType d.ar ∈ [some 1, some 2, some 3, some 4, some 5]))) ∨
          (i = .lsl reg rm ∧ result = some d.limit ∧
            (ok ↔ testVisible s sel d ∧
              (arSegment d.ar = true ∨ arSystemType d.ar ∈ [some 1, some 2, some 3]))) ∨
          (i = .verr rm ∧ result = none ∧
            (ok ↔ testVisible s sel d ∧ arSegment d.ar = true ∧
              (arExec d.ar = true → arRw d.ar = true))) ∨
          (i = .verw rm ∧ result = none ∧
            (ok ↔ arSegment d.ar = true ∧ arExec d.ar = false ∧ arRw d.ar = true ∧
              s.cpl ≤ arDpl d.ar ∧ rpl sel ≤ arDpl d.ar))) →
        ∃ t, exec i s = .next t ∧ (t.flags.zf = true ↔ ok) ∧
          t.flags = { s.flags with zf := t.flags.zf } ∧
          (∀ v, ok → result = some v → s.onlyReg t .word reg v) ∧
          (¬ok ∨ result = none → t.regs = s.regs) ∧
          s.sameMemoryBut t (a + 5) 1 ∧
          (t.readByte (a + 5) = s.readByte (a + 5) ∨
            t.readByte (a + 5) = d.ar ||| 1#8) ∧ s.sameElse t)) ∧
  (∀ (s : State) (rm : RM) (reg : RegNum), s.msw.pe = true → s.rmReady .write .word rm = true →
    let a := s.rmValue .word rm
    let b := s.regs.get (reg16Of reg)
    (a.toNat % 4 < b.toNat % 4 → ∃ t, exec (.arpl rm reg) s = .next t ∧
      s.placed t .word rm ((a &&& 0xFFFC#16) ||| (b &&& 3#16)) ∧
      t.flags = { s.flags with zf := true } ∧ s.sameElse t) ∧
    (b.toNat % 4 ≤ a.toNat % 4 →
      exec (.arpl rm reg) s = .next { s with flags := { s.flags with zf := false } }))

/-- R590, R654: the nine protected-mode instructions are exception 6 in real address mode, before
any operand access. -/
def Obligations.ProtectedModeInstructionsInRealMode : Prop :=
  ∀ (s : State) (rm : RM) (reg : RegNum), s.msw.pe = false →
    ∀ i ∈ [Instr.sldt rm, .str rm, .lldt rm, .ltr rm, .verr rm, .verw rm, .lar reg rm,
      .lsl reg rm, .arpl rm reg], exec i s = s.takeException 6#8 0#16 .unchanged

/-- R214, R215: both rows of Table 13: LIDT, LLDT, LGDT, LTR, LMSW, CTS and HLT at CPL other than 0;
INS, IN, OUTS, OUT, STI, CLI and LOCK at CPL above IOPL, with any prefixes before them: a repeated INS
or OUTS with CX = 0 does nothing, and a second LOCK is refused. -/
def Obligations.PrivilegeTraps : Prop :=
  (∀ (s : State) (m : Mem) (rm : RM), s.msw.pe = true → s.cpl ≠ 0#2 →
    ∀ i ∈ [Instr.lidt m, .lldt rm, .lgdt m, .ltr rm, .lmsw rm, .cts, .hlt],
      exec i s = s.takeException 13#8 0#16 .unchanged) ∧
  (∀ (s : State) (w : Width) (p : Byte), s.msw.pe = true → s.flags.iopl < s.cpl →
    let traps := fun i : Instr => exec i s = s.takeException 13#8 0#16 .unchanged
    (∀ i ∈ [Instr.inImm w p, .inDx w, .outImm w p, .outDx w, .sti, .cli], traps i) ∧
    (s.pre.rep = none ∨ s.regs.cx ≠ 0#16 → traps (.ins w) ∧ traps (.outs w)) ∧
    (s.pre.lock = false → traps .lock))

/-- R107, R108, R210, R211, R212, R213, R372, R644, R656: a memory operand that its segment does not
admit is exception 13 with code 0, and 12 where the segment is SS in protected mode, with nothing
changed: the r/m operands read or written, pointers and the six bytes of a table register, direct
offsets, XLAT, the elements of the string instructions, the words popped, a pointer or a frame
popped by a far return, the words pushed in protected mode, and there the first word of an ESC
operand. That SP is unchanged after a far RET or an IRET in real address mode is the model's choice,
where D25 has a draw (notes/assumptions/35.md). In protected mode a segment admits n bytes where it
is valid, its rights admit the access and they lie within its limit, above it for an expand-down
segment; in real address mode it admits all but a word at offset FFFFh. The model's own choices in
it are those of notes/assumptions/13.md, 27.md, 35.md. -/
def Obligations.OperandsOutsideTheirSegment : Prop :=
  (∀ (s : State) (w : Width) (m : Mem) (reg : RegNum) (imm : Imm) (gimm : GImm) (simm : SImm)
    (sreg : SReg) (n : Byte) (off sel : Word) (ttt lll : BitVec 3),
    let rm := RM.mem m
    let r := s.overridden .ds
    let fails := fun (q : SReg) (is : List Instr) => ∀ i ∈ is,
      exec i s =
        s.takeException (if s.msw.pe = true ∧ q = .ss then 12#8 else 13#8) 0#16 .unchanged
    ((s.rmOk .read w rm = false → fails (s.memSeg m) [.movRegRm w reg rm, .addRmReg true w rm reg,
        .adcRmReg true w rm reg, .subRmReg true w rm reg, .sbbRmReg true w rm reg,
        .cmpRmReg w rm reg, .cmpRegRm w reg rm, .andRmReg true w rm reg, .orRmReg true w rm reg,
        .xorRmReg true w rm reg, .testRmReg w rm reg, .mul w rm, .imulRm w rm, .div w rm,
        .idiv w rm]) ∧
      (s.rmOk .read gimm.width rm = false → fails (s.memSeg m) [.cmpRmImm rm gimm]) ∧
      (s.rmOk .read imm.width rm = false → fails (s.memSeg m) [.testRmImm rm imm]) ∧
      (s.rmOk .read .word rm = false →
        fails (s.memSeg m) [.movSregRm sreg rm, .pushRm rm, .imulImm reg rm simm, .jmpRm rm,
          .callRm rm] ∧
        (s.msw.pe = true → fails (s.memSeg m) [.lar reg rm, .lsl reg rm, .verr rm, .verw rm]) ∧
        (s.msw.pe = false ∨ s.cpl = 0#2 → fails (s.memSeg m) [.lmsw rm]) ∧
        (s.msw.pe = true → s.cpl = 0#2 → fails (s.memSeg m) [.lldt rm, .ltr rm]))) ∧
    ((s.rmOk .write w rm = false → fails (s.memSeg m) [.movRmReg w rm reg,
        .addRmReg false w rm reg, .adcRmReg false w rm reg, .subRmReg false w rm reg,
        .sbbRmReg false w rm reg, .andRmReg false w rm reg, .orRmReg false w rm reg,
        .xorRmReg false w rm reg, .xchgRmReg w rm reg, .incRm w rm, .decRm w rm, .neg w rm,
        .not w rm, .rolOne w rm, .rolCl w rm, .rolImm w rm n, .rorOne w rm, .rorCl w rm,
        .rorImm w rm n, .rclOne w rm, .rclCl w rm, .rclImm w rm n, .rcrOne w rm, .rcrCl w rm,
        .rcrImm w rm n, .shlOne w rm, .shlCl w rm, .shlImm w rm n, .shrOne w rm, .shrCl w rm,
        .shrImm w rm n, .sarOne w rm, .sarCl w rm, .sarImm w rm n]) ∧
      (s.rmOk .write gimm.width rm = false → fails (s.memSeg m) [.addRmImm rm gimm,
        .adcRmImm rm gimm, .subRmImm rm gimm, .sbbRmImm rm gimm]) ∧
      (s.rmOk .write imm.width rm = false → fails (s.memSeg m) [.movRmImm rm imm,
        .andRmImm rm imm, .orRmImm rm imm, .xorRmImm rm imm]) ∧
      (s.rmOk .write .word rm = false → fails (s.memSeg m) [.movRmSreg rm sreg, .smsw rm] ∧
        (s.msw.pe = true → fails (s.memSeg m) [.sldt rm, .str rm, .arpl rm reg]))) ∧
    ((s.wordsOk .read (s.memSeg m) (s.ea m) 2 = false → fails (s.memSeg m) [.lds reg m, .les reg m,
        .jmpFarMem m, .callFarMem m, .bound reg m]) ∧
      (s.wordsOk .read (s.memSeg m) (s.ea m) 3 = false → s.msw.pe = false ∨ s.cpl = 0#2 →
        fails (s.memSeg m) [.lgdt m, .lidt m]) ∧
      (s.wordsOk .write (s.memSeg m) (s.ea m) 3 = false → fails (s.memSeg m) [.sgdt m, .sidt m]) ∧
      (s.msw.pe = true → s.msw.em = false → s.msw.ts = false →
        (s.seg (s.memSeg m)).permits .read (s.ea m) 2 = false →
        (s.seg (s.memSeg m)).permits .write (s.ea m) 2 = false →
        fails (s.memSeg m) [.esc ttt lll rm])) ∧
    ((s.accessOk .read r off w.bytes = false → fails r [.movAccMem w off]) ∧
      (s.accessOk .write r off w.bytes = false → fails r [.movMemAcc w off]) ∧
      (s.accessOk .read r (s.regs.bx + (s.regs.ax &&& 0x00FF#16)) 1 = false → fails r [.xlat]) ∧
      (s.pre.rep = none ∨ s.regs.cx ≠ 0#16 →
        let admitted := s.msw.pe = false ∨ s.cpl ≤ s.flags.iopl
        (s.accessOk .read r s.regs.si w.bytes = false →
          fails r [.movs w, .cmps w, .lods w] ∧ (admitted → fails r [.outs w])) ∧
        (s.accessOk .write .es s.regs.di w.bytes = false →
          fails .es [.stos w] ∧ (admitted → fails .es [.ins w]) ∧
          (s.readReady r s.regs.si w = true → fails .es [.movs w])) ∧
        (s.accessOk .read .es s.regs.di w.bytes = false →
          fails .es [.scas w] ∧
          (s.readReady r s.regs.si w = true → fails .es [.cmps w])))) ∧
    ((s.popAdmitted s.regs.sp = false → fails .ss [.popRm (.reg reg), .popRm rm, .popReg reg, .popEs,
        .popSs, .popDs, .popf, .ret, .retImm off]) ∧
      (s.popAdmitted s.regs.bp = false → fails .ss [.leave]) ∧
      (s.wordsOk .read .ss s.regs.sp 2 = false → fails .ss [.retFar, .retFarImm off]) ∧
      (s.wordsOk .read .ss s.regs.sp 3 = false → s.msw.pe = false ∨ s.flags.nt = false →
        fails .ss [.iret]) ∧
      (s.msw.pe = true → s.pushOk 1 = false →
        fails .ss [.pushRm (.reg reg), .pushReg reg, .pushSreg sreg, .pushImm simm, .pushf,
          .enter off n] ∧
        (s.rmReady .read .word rm = true → fails .ss [.pushRm rm]) ∧
        (s.ip + off ≤ s.cs.limit → fails .ss [.callRel off])) ∧
      (∀ a : Addr, s.msw.pe = true → s.pushOk 2 = false → isNull sel = false →
        s.descAddr sel = some a → s.answersAt a 6 = true → codeReachable s.cpl sel (s.busDesc 2 a) →
        fails .ss [.callFar off sel]))) ∧
  (∀ (r : SegReg) (a : Access) (off : Word) (n : Nat),
    r.permits a off n = true ↔ r.valid = true ∧
      (a = .write → arExec r.ar = false ∧ arRw r.ar = true) ∧
      (a = .read → arExec r.ar = true → arRw r.ar = true) ∧
      (arExec r.ar = false ∧ arDirConf r.ar = true →
        r.limit.toNat < off.toNat ∧ off.toNat + n ≤ 0x10000) ∧
      (¬(arExec r.ar = false ∧ arDirConf r.ar = true) → off.toNat + n ≤ r.limit.toNat + 1)) ∧
  (∀ (s : State) (a : Access) (r : SReg) (off : Word) (w : Width),
    (s.msw.pe = true → s.accessOk a r off w.bytes = (s.seg r).permits a off w.bytes) ∧
    (s.msw.pe = false →
      (s.accessOk a r off w.bytes = false ↔ w = .word ∧ off = 0xFFFF#16)))
end

