-- ==== Sys2Proof/Laws/State.lean ====
section
/-! SUPPORT. What each named update leaves alone: one lemma per field and update, and what it
writes. -/

namespace Sys2Proof.Machine

/-! ## Updates that are two others -/

@[simp] theorem State.setAcc_eq (s : State) (w : Width) (v : Word) :
    s.setAcc w v = s.setReg w 0#3 v := rfl

@[simp] theorem State.setRegFlags_eq (s : State) (w : Width) (n : RegNum) (r : Word × Flags) :
    s.setRegFlags w n r = (s.setReg w n r.1).setFlags r.2 := rfl

@[simp] theorem State.rmPutFlags_eq (s : State) (w : Width) (rm : RM) (r : Word × Flags) :
    s.rmPutFlags w rm r = (s.rmPut w rm r.1).setFlags r.2 := rfl

/-! ## What an update writes -/

@[simp] theorem State.setAx_regs (s : State) (v : Word) :
    (s.setAx v).regs = { s.regs with ax := v } := rfl

@[simp] theorem State.setCx_regs (s : State) (v : Word) :
    (s.setCx v).regs = { s.regs with cx := v } := rfl

@[simp] theorem State.setDx_regs (s : State) (v : Word) :
    (s.setDx v).regs = { s.regs with dx := v } := rfl

@[simp] theorem State.setSp_regs (s : State) (v : Word) :
    (s.setSp v).regs = { s.regs with sp := v } := rfl

@[simp] theorem State.setBp_regs (s : State) (v : Word) :
    (s.setBp v).regs = { s.regs with bp := v } := rfl

@[simp] theorem State.stepSi_regs (s : State) (w : Width) :
    (s.stepSi w).regs = { s.regs with si := s.stepIndex w s.regs.si } := rfl

@[simp] theorem State.stepDi_regs (s : State) (w : Width) :
    (s.stepDi w).regs = { s.regs with di := s.stepIndex w s.regs.di } := rfl

@[simp] theorem State.setReg_byte_regs (s : State) (n : RegNum) (v : Word) :
    (s.setReg .byte n v).regs = s.regs.setByte n (loByte v) := rfl

@[simp] theorem State.setReg_word_regs (s : State) (n : RegNum) (v : Word) :
    (s.setReg .word n v).regs = s.regs.set (reg16Of n) v := rfl

@[simp] theorem State.setFlags_flags (s : State) (f : Flags) : (s.setFlags f).flags = f := rfl

@[simp] theorem State.setZf_flags (s : State) (z : Bool) :
    (s.setZf z).flags = { s.flags with zf := z } := rfl

@[simp] theorem State.jump_ip (s : State) (t : Word) : (s.jump t).ip = t := rfl

@[simp] theorem State.realFar_ip (s : State) (sel off : Word) : (s.realFar sel off).ip = off := rfl

@[simp] theorem State.realFar_cs (s : State) (sel off : Word) :
    (s.realFar sel off).cs = realSeg sel (sel.setWidth 24 <<< 4) := rfl

@[simp] theorem State.emit_out (s : State) (e : Event) : (s.emit e).out = e :: s.out := rfl

@[simp] theorem State.writeByte_mem (s : State) (a : Addr) (v : Byte) :
    (s.writeByte a v).mem = s.memAfter (s.physAddr a) v := rfl

@[simp] theorem State.writeWord_mem (s : State) (a : Addr) (v : Word) :
    (s.writeWord a v).mem =
      ((s.writeByte a (loByte v)).writeByte (a + 1) (hiByte v)).mem := rfl

@[simp] theorem State.setStores_stores (s : State) (l : List Store) :
    (s.setStores l).stores = l := rfl

/-- A byte stored is one bus operation more (R125). -/
@[simp] theorem State.writeByte_stores (s : State) (a : Addr) (v : Byte) :
    (s.writeByte a v).stores =
      { cells := [(a, v)], events := s.out.length, time := s.time 63, since := s.seen (s.time 63) } ::
        s.stores := by simp [State.writeByte, State.recorded]

@[simp] theorem State.writeWord_stores (s : State) (a : Addr) (v : Word) :
    (s.writeWord a v).stores = s.recorded (storeOps a .word v) := rfl

/-- Nothing was stored between two states of one record. -/
theorem State.lockedSince_same {s t : State} (h : s.stores = t.stores) (n : Nat) :
    s.lockedSince t n = s := by
  simp [State.lockedSince, State.setStores, ← h]

@[simp] theorem State.release_clock (s t : State) : (s.release t).clock = t.clock := rfl

@[simp] theorem State.hold_clock (s : State) (d : Desc) :
    (s.hold d).clock = { s.clock with held := some d.time } := rfl

@[simp] theorem State.flushQueue_stale (s : State) : s.flushQueue.stale = [] := rfl

@[simp] theorem State.flushQueue_flushed (s : State) : s.flushQueue.flushed = some (s.time 63) := rfl

@[simp] theorem State.pushRaw_regs (s : State) (v : Word) :
    (s.pushRaw v).regs = { s.regs with sp := s.regs.sp - 2 } := rfl

@[simp] theorem State.inhibitAfter_intInhibit (s : State) (r : SReg) :
    (s.inhibitAfter r).intInhibit = (s.intInhibit || r == .ss) := rfl

/-- A segment register after one was written. -/
theorem State.seg_setSeg (s : State) (r q : SReg) (v : SegReg) :
    (s.setSeg r v).seg q = if q = r then v else s.seg q := by
  cases r <;> cases q <;> rfl

@[simp] theorem State.seg_setSeg_same (s : State) (r : SReg) (v : SegReg) :
    (s.setSeg r v).seg r = v := by cases r <;> rfl

/-- A word register after one was written. -/
theorem Regs.get_set (r : Regs) (n m : Reg16) (v : Word) :
    (r.set n v).get m = if m = n then v else r.get m := by
  cases n <;> cases m <;> rfl

@[simp] theorem Regs.get_set_same (r : Regs) (n : Reg16) (v : Word) : (r.set n v).get n = v := by
  cases n <;> rfl

/-! ## What an update leaves alone -/

@[simp] theorem State.setReg_ip (s : State) (w : Width) (n : RegNum) (v : Word) :
    (s.setReg w n v).ip = s.ip := by cases w <;> rfl

@[simp] theorem State.setReg_ipCarry (s : State) (w : Width) (n : RegNum) (v : Word) :
    (s.setReg w n v).ipCarry = s.ipCarry := by cases w <;> rfl

@[simp] theorem State.setReg_curIp (s : State) (w : Width) (n : RegNum) (v : Word) :
    (s.setReg w n v).curIp = s.curIp := by cases w <;> rfl

@[simp] theorem State.setReg_flags (s : State) (w : Width) (n : RegNum) (v : Word) :
    (s.setReg w n v).flags = s.flags := by cases w <;> rfl

@[simp] theorem State.setReg_msw (s : State) (w : Width) (n : RegNum) (v : Word) :
    (s.setReg w n v).msw = s.msw := by cases w <;> rfl

@[simp] theorem State.setReg_es (s : State) (w : Width) (n : RegNum) (v : Word) :
    (s.setReg w n v).es = s.es := by cases w <;> rfl

@[simp] theorem State.setReg_cs (s : State) (w : Width) (n : RegNum) (v : Word) :
    (s.setReg w n v).cs = s.cs := by cases w <;> rfl

@[simp] theorem State.setReg_ss (s : State) (w : Width) (n : RegNum) (v : Word) :
    (s.setReg w n v).ss = s.ss := by cases w <;> rfl

@[simp] theorem State.setReg_ds (s : State) (w : Width) (n : RegNum) (v : Word) :
    (s.setReg w n v).ds = s.ds := by cases w <;> rfl

@[simp] theorem State.setReg_cpl (s : State) (w : Width) (n : RegNum) (v : Word) :
    (s.setReg w n v).cpl = s.cpl := by cases w <;> rfl

@[simp] theorem State.setReg_gdtr (s : State) (w : Width) (n : RegNum) (v : Word) :
    (s.setReg w n v).gdtr = s.gdtr := by cases w <;> rfl

@[simp] theorem State.setReg_idtr (s : State) (w : Width) (n : RegNum) (v : Word) :
    (s.setReg w n v).idtr = s.idtr := by cases w <;> rfl

@[simp] theorem State.setReg_ldtr (s : State) (w : Width) (n : RegNum) (v : Word) :
    (s.setReg w n v).ldtr = s.ldtr := by cases w <;> rfl

@[simp] theorem State.setReg_tr (s : State) (w : Width) (n : RegNum) (v : Word) :
    (s.setReg w n v).tr = s.tr := by cases w <;> rfl

@[simp] theorem State.setReg_run (s : State) (w : Width) (n : RegNum) (v : Word) :
    (s.setReg w n v).run = s.run := by cases w <;> rfl

@[simp] theorem State.setReg_nmiPending (s : State) (w : Width) (n : RegNum) (v : Word) :
    (s.setReg w n v).nmiPending = s.nmiPending := by cases w <;> rfl

@[simp] theorem State.setReg_nmiInService (s : State) (w : Width) (n : RegNum) (v : Word) :
    (s.setReg w n v).nmiInService = s.nmiInService := by cases w <;> rfl

@[simp] theorem State.setReg_nmiLast (s : State) (w : Width) (n : RegNum) (v : Word) :
    (s.setReg w n v).nmiLast = s.nmiLast := by cases w <;> rfl

@[simp] theorem State.setReg_intInhibit (s : State) (w : Width) (n : RegNum) (v : Word) :
    (s.setReg w n v).intInhibit = s.intInhibit := by cases w <;> rfl

@[simp] theorem State.setReg_tfAtStart (s : State) (w : Width) (n : RegNum) (v : Word) :
    (s.setReg w n v).tfAtStart = s.tfAtStart := by cases w <;> rfl

@[simp] theorem State.setReg_intrHeld (s : State) (w : Width) (n : RegNum) (v : Word) :
    (s.setReg w n v).intrHeld = s.intrHeld := by cases w <;> rfl

@[simp] theorem State.setReg_boundaryStep (s : State) (w : Width) (n : RegNum) (v : Word) :
    (s.setReg w n v).boundaryStep = s.boundaryStep := by cases w <;> rfl

@[simp] theorem State.setReg_pxOverrun (s : State) (w : Width) (n : RegNum) (v : Word) :
    (s.setReg w n v).pxOverrun = s.pxOverrun := by cases w <;> rfl

@[simp] theorem State.setReg_pxOperand (s : State) (w : Width) (n : RegNum) (v : Word) :
    (s.setReg w n v).pxOperand = s.pxOperand := by cases w <;> rfl

@[simp] theorem State.setReg_pxInhibit (s : State) (w : Width) (n : RegNum) (v : Word) :
    (s.setReg w n v).pxInhibit = s.pxInhibit := by cases w <;> rfl

@[simp] theorem State.setReg_modeSwitch (s : State) (w : Width) (n : RegNum) (v : Word) :
    (s.setReg w n v).modeSwitch = s.modeSwitch := by cases w <;> rfl

@[simp] theorem State.setReg_pre (s : State) (w : Width) (n : RegNum) (v : Word) :
    (s.setReg w n v).pre = s.pre := by cases w <;> rfl

@[simp] theorem State.setReg_stale (s : State) (w : Width) (n : RegNum) (v : Word) :
    (s.setReg w n v).stale = s.stale := by cases w <;> rfl

@[simp] theorem State.setReg_stores (s : State) (w : Width) (n : RegNum) (v : Word) :
    (s.setReg w n v).stores = s.stores := by cases w <;> rfl

@[simp] theorem State.setReg_clock (s : State) (w : Width) (n : RegNum) (v : Word) :
    (s.setReg w n v).clock = s.clock := by cases w <;> rfl

@[simp] theorem State.setReg_flushed (s : State) (w : Width) (n : RegNum) (v : Word) :
    (s.setReg w n v).flushed = s.flushed := by cases w <;> rfl

@[simp] theorem State.setReg_mem (s : State) (w : Width) (n : RegNum) (v : Word) :
    (s.setReg w n v).mem = s.mem := by cases w <;> rfl

@[simp] theorem State.setReg_pins (s : State) (w : Width) (n : RegNum) (v : Word) :
    (s.setReg w n v).pins = s.pins := by cases w <;> rfl

@[simp] theorem State.setReg_platform (s : State) (w : Width) (n : RegNum) (v : Word) :
    (s.setReg w n v).platform = s.platform := by cases w <;> rfl

@[simp] theorem State.setReg_out (s : State) (w : Width) (n : RegNum) (v : Word) :
    (s.setReg w n v).out = s.out := by cases w <;> rfl

@[simp] theorem State.setReg_draws (s : State) (w : Width) (n : RegNum) (v : Word) :
    (s.setReg w n v).draws = s.draws := by cases w <;> rfl

@[simp] theorem State.setReg_seg (s : State) (w : Width) (n : RegNum) (v : Word) (q : SReg) :
    (s.setReg w n v).seg q = s.seg q := by cases q <;> simp [State.seg]

@[simp] theorem State.setAx_ip (s : State) (v : Word) :
    (s.setAx v).ip = s.ip := rfl

@[simp] theorem State.setAx_ipCarry (s : State) (v : Word) :
    (s.setAx v).ipCarry = s.ipCarry := rfl

@[simp] theorem State.setAx_curIp (s : State) (v : Word) :
    (s.setAx v).curIp = s.curIp := rfl

@[simp] theorem State.setAx_flags (s : State) (v : Word) :
    (s.setAx v).flags = s.flags := rfl

@[simp] theorem State.setAx_msw (s : State) (v : Word) :
    (s.setAx v).msw = s.msw := rfl

@[simp] theorem State.setAx_es (s : State) (v : Word) :
    (s.setAx v).es = s.es := rfl

@[simp] theorem State.setAx_cs (s : State) (v : Word) :
    (s.setAx v).cs = s.cs := rfl

@[simp] theorem State.setAx_ss (s : State) (v : Word) :
    (s.setAx v).ss = s.ss := rfl

@[simp] theorem State.setAx_ds (s : State) (v : Word) :
    (s.setAx v).ds = s.ds := rfl

@[simp] theorem State.setAx_cpl (s : State) (v : Word) :
    (s.setAx v).cpl = s.cpl := rfl

@[simp] theorem State.setAx_gdtr (s : State) (v : Word) :
    (s.setAx v).gdtr = s.gdtr := rfl

@[simp] theorem State.setAx_idtr (s : State) (v : Word) :
    (s.setAx v).idtr = s.idtr := rfl

@[simp] theorem State.setAx_ldtr (s : State) (v : Word) :
    (s.setAx v).ldtr = s.ldtr := rfl

@[simp] theorem State.setAx_tr (s : State) (v : Word) :
    (s.setAx v).tr = s.tr := rfl

@[simp] theorem State.setAx_run (s : State) (v : Word) :
    (s.setAx v).run = s.run := rfl

@[simp] theorem State.setAx_nmiPending (s : State) (v : Word) :
    (s.setAx v).nmiPending = s.nmiPending := rfl

@[simp] theorem State.setAx_nmiInService (s : State) (v : Word) :
    (s.setAx v).nmiInService = s.nmiInService := rfl

@[simp] theorem State.setAx_nmiLast (s : State) (v : Word) :
    (s.setAx v).nmiLast = s.nmiLast := rfl

@[simp] theorem State.setAx_intInhibit (s : State) (v : Word) :
    (s.setAx v).intInhibit = s.intInhibit := rfl

@[simp] theorem State.setAx_tfAtStart (s : State) (v : Word) :
    (s.setAx v).tfAtStart = s.tfAtStart := rfl

@[simp] theorem State.setAx_intrHeld (s : State) (v : Word) :
    (s.setAx v).intrHeld = s.intrHeld := rfl

@[simp] theorem State.setAx_boundaryStep (s : State) (v : Word) :
    (s.setAx v).boundaryStep = s.boundaryStep := rfl

@[simp] theorem State.setAx_pxOverrun (s : State) (v : Word) :
    (s.setAx v).pxOverrun = s.pxOverrun := rfl

@[simp] theorem State.setAx_pxOperand (s : State) (v : Word) :
    (s.setAx v).pxOperand = s.pxOperand := rfl

@[simp] theorem State.setAx_pxInhibit (s : State) (v : Word) :
    (s.setAx v).pxInhibit = s.pxInhibit := rfl

@[simp] theorem State.setAx_modeSwitch (s : State) (v : Word) :
    (s.setAx v).modeSwitch = s.modeSwitch := rfl

@[simp] theorem State.setAx_pre (s : State) (v : Word) :
    (s.setAx v).pre = s.pre := rfl

@[simp] theorem State.setAx_stale (s : State) (v : Word) :
    (s.setAx v).stale = s.stale := rfl

@[simp] theorem State.setAx_stores (s : State) (v : Word) :
    (s.setAx v).stores = s.stores := rfl

@[simp] theorem State.setAx_clock (s : State) (v : Word) :
    (s.setAx v).clock = s.clock := rfl

@[simp] theorem State.setAx_flushed (s : State) (v : Word) :
    (s.setAx v).flushed = s.flushed := rfl

@[simp] theorem State.setAx_mem (s : State) (v : Word) :
    (s.setAx v).mem = s.mem := rfl

@[simp] theorem State.setAx_pins (s : State) (v : Word) :
    (s.setAx v).pins = s.pins := rfl

@[simp] theorem State.setAx_platform (s : State) (v : Word) :
    (s.setAx v).platform = s.platform := rfl

@[simp] theorem State.setAx_out (s : State) (v : Word) :
    (s.setAx v).out = s.out := rfl

@[simp] theorem State.setAx_draws (s : State) (v : Word) :
    (s.setAx v).draws = s.draws := rfl

@[simp] theorem State.setAx_seg (s : State) (v : Word) (q : SReg) :
    (s.setAx v).seg q = s.seg q := by cases q <;> simp [State.seg]

@[simp] theorem State.setCx_ip (s : State) (v : Word) :
    (s.setCx v).ip = s.ip := rfl

@[simp] theorem State.setCx_ipCarry (s : State) (v : Word) :
    (s.setCx v).ipCarry = s.ipCarry := rfl

@[simp] theorem State.setCx_curIp (s : State) (v : Word) :
    (s.setCx v).curIp = s.curIp := rfl

@[simp] theorem State.setCx_flags (s : State) (v : Word) :
    (s.setCx v).flags = s.flags := rfl

@[simp] theorem State.setCx_msw (s : State) (v : Word) :
    (s.setCx v).msw = s.msw := rfl

@[simp] theorem State.setCx_es (s : State) (v : Word) :
    (s.setCx v).es = s.es := rfl

@[simp] theorem State.setCx_cs (s : State) (v : Word) :
    (s.setCx v).cs = s.cs := rfl

@[simp] theorem State.setCx_ss (s : State) (v : Word) :
    (s.setCx v).ss = s.ss := rfl

@[simp] theorem State.setCx_ds (s : State) (v : Word) :
    (s.setCx v).ds = s.ds := rfl

@[simp] theorem State.setCx_cpl (s : State) (v : Word) :
    (s.setCx v).cpl = s.cpl := rfl

@[simp] theorem State.setCx_gdtr (s : State) (v : Word) :
    (s.setCx v).gdtr = s.gdtr := rfl

@[simp] theorem State.setCx_idtr (s : State) (v : Word) :
    (s.setCx v).idtr = s.idtr := rfl

@[simp] theorem State.setCx_ldtr (s : State) (v : Word) :
    (s.setCx v).ldtr = s.ldtr := rfl

@[simp] theorem State.setCx_tr (s : State) (v : Word) :
    (s.setCx v).tr = s.tr := rfl

@[simp] theorem State.setCx_run (s : State) (v : Word) :
    (s.setCx v).run = s.run := rfl

@[simp] theorem State.setCx_nmiPending (s : State) (v : Word) :
    (s.setCx v).nmiPending = s.nmiPending := rfl

@[simp] theorem State.setCx_nmiInService (s : State) (v : Word) :
    (s.setCx v).nmiInService = s.nmiInService := rfl

@[simp] theorem State.setCx_nmiLast (s : State) (v : Word) :
    (s.setCx v).nmiLast = s.nmiLast := rfl

@[simp] theorem State.setCx_intInhibit (s : State) (v : Word) :
    (s.setCx v).intInhibit = s.intInhibit := rfl

@[simp] theorem State.setCx_tfAtStart (s : State) (v : Word) :
    (s.setCx v).tfAtStart = s.tfAtStart := rfl

@[simp] theorem State.setCx_intrHeld (s : State) (v : Word) :
    (s.setCx v).intrHeld = s.intrHeld := rfl

@[simp] theorem State.setCx_boundaryStep (s : State) (v : Word) :
    (s.setCx v).boundaryStep = s.boundaryStep := rfl

@[simp] theorem State.setCx_pxOverrun (s : State) (v : Word) :
    (s.setCx v).pxOverrun = s.pxOverrun := rfl

@[simp] theorem State.setCx_pxOperand (s : State) (v : Word) :
    (s.setCx v).pxOperand = s.pxOperand := rfl

@[simp] theorem State.setCx_pxInhibit (s : State) (v : Word) :
    (s.setCx v).pxInhibit = s.pxInhibit := rfl

@[simp] theorem State.setCx_modeSwitch (s : State) (v : Word) :
    (s.setCx v).modeSwitch = s.modeSwitch := rfl

@[simp] theorem State.setCx_pre (s : State) (v : Word) :
    (s.setCx v).pre = s.pre := rfl

@[simp] theorem State.setCx_stale (s : State) (v : Word) :
    (s.setCx v).stale = s.stale := rfl

@[simp] theorem State.setCx_stores (s : State) (v : Word) :
    (s.setCx v).stores = s.stores := rfl

@[simp] theorem State.setCx_clock (s : State) (v : Word) :
    (s.setCx v).clock = s.clock := rfl

@[simp] theorem State.setCx_flushed (s : State) (v : Word) :
    (s.setCx v).flushed = s.flushed := rfl

@[simp] theorem State.setCx_mem (s : State) (v : Word) :
    (s.setCx v).mem = s.mem := rfl

@[simp] theorem State.setCx_pins (s : State) (v : Word) :
    (s.setCx v).pins = s.pins := rfl

@[simp] theorem State.setCx_platform (s : State) (v : Word) :
    (s.setCx v).platform = s.platform := rfl

@[simp] theorem State.setCx_out (s : State) (v : Word) :
    (s.setCx v).out = s.out := rfl

@[simp] theorem State.setCx_draws (s : State) (v : Word) :
    (s.setCx v).draws = s.draws := rfl

@[simp] theorem State.setCx_seg (s : State) (v : Word) (q : SReg) :
    (s.setCx v).seg q = s.seg q := by cases q <;> simp [State.seg]

@[simp] theorem State.setDx_ip (s : State) (v : Word) :
    (s.setDx v).ip = s.ip := rfl

@[simp] theorem State.setDx_ipCarry (s : State) (v : Word) :
    (s.setDx v).ipCarry = s.ipCarry := rfl

@[simp] theorem State.setDx_curIp (s : State) (v : Word) :
    (s.setDx v).curIp = s.curIp := rfl

@[simp] theorem State.setDx_flags (s : State) (v : Word) :
    (s.setDx v).flags = s.flags := rfl

@[simp] theorem State.setDx_msw (s : State) (v : Word) :
    (s.setDx v).msw = s.msw := rfl

@[simp] theorem State.setDx_es (s : State) (v : Word) :
    (s.setDx v).es = s.es := rfl

@[simp] theorem State.setDx_cs (s : State) (v : Word) :
    (s.setDx v).cs = s.cs := rfl

@[simp] theorem State.setDx_ss (s : State) (v : Word) :
    (s.setDx v).ss = s.ss := rfl

@[simp] theorem State.setDx_ds (s : State) (v : Word) :
    (s.setDx v).ds = s.ds := rfl

@[simp] theorem State.setDx_cpl (s : State) (v : Word) :
    (s.setDx v).cpl = s.cpl := rfl

@[simp] theorem State.setDx_gdtr (s : State) (v : Word) :
    (s.setDx v).gdtr = s.gdtr := rfl

@[simp] theorem State.setDx_idtr (s : State) (v : Word) :
    (s.setDx v).idtr = s.idtr := rfl

@[simp] theorem State.setDx_ldtr (s : State) (v : Word) :
    (s.setDx v).ldtr = s.ldtr := rfl

@[simp] theorem State.setDx_tr (s : State) (v : Word) :
    (s.setDx v).tr = s.tr := rfl

@[simp] theorem State.setDx_run (s : State) (v : Word) :
    (s.setDx v).run = s.run := rfl

@[simp] theorem State.setDx_nmiPending (s : State) (v : Word) :
    (s.setDx v).nmiPending = s.nmiPending := rfl

@[simp] theorem State.setDx_nmiInService (s : State) (v : Word) :
    (s.setDx v).nmiInService = s.nmiInService := rfl

@[simp] theorem State.setDx_nmiLast (s : State) (v : Word) :
    (s.setDx v).nmiLast = s.nmiLast := rfl

@[simp] theorem State.setDx_intInhibit (s : State) (v : Word) :
    (s.setDx v).intInhibit = s.intInhibit := rfl

@[simp] theorem State.setDx_tfAtStart (s : State) (v : Word) :
    (s.setDx v).tfAtStart = s.tfAtStart := rfl

@[simp] theorem State.setDx_intrHeld (s : State) (v : Word) :
    (s.setDx v).intrHeld = s.intrHeld := rfl

@[simp] theorem State.setDx_boundaryStep (s : State) (v : Word) :
    (s.setDx v).boundaryStep = s.boundaryStep := rfl

@[simp] theorem State.setDx_pxOverrun (s : State) (v : Word) :
    (s.setDx v).pxOverrun = s.pxOverrun := rfl

@[simp] theorem State.setDx_pxOperand (s : State) (v : Word) :
    (s.setDx v).pxOperand = s.pxOperand := rfl

@[simp] theorem State.setDx_pxInhibit (s : State) (v : Word) :
    (s.setDx v).pxInhibit = s.pxInhibit := rfl

@[simp] theorem State.setDx_modeSwitch (s : State) (v : Word) :
    (s.setDx v).modeSwitch = s.modeSwitch := rfl

@[simp] theorem State.setDx_pre (s : State) (v : Word) :
    (s.setDx v).pre = s.pre := rfl

@[simp] theorem State.setDx_stale (s : State) (v : Word) :
    (s.setDx v).stale = s.stale := rfl

@[simp] theorem State.setDx_stores (s : State) (v : Word) :
    (s.setDx v).stores = s.stores := rfl

@[simp] theorem State.setDx_clock (s : State) (v : Word) :
    (s.setDx v).clock = s.clock := rfl

@[simp] theorem State.setDx_flushed (s : State) (v : Word) :
    (s.setDx v).flushed = s.flushed := rfl

@[simp] theorem State.setDx_mem (s : State) (v : Word) :
    (s.setDx v).mem = s.mem := rfl

@[simp] theorem State.setDx_pins (s : State) (v : Word) :
    (s.setDx v).pins = s.pins := rfl

@[simp] theorem State.setDx_platform (s : State) (v : Word) :
    (s.setDx v).platform = s.platform := rfl

@[simp] theorem State.setDx_out (s : State) (v : Word) :
    (s.setDx v).out = s.out := rfl

@[simp] theorem State.setDx_draws (s : State) (v : Word) :
    (s.setDx v).draws = s.draws := rfl

@[simp] theorem State.setDx_seg (s : State) (v : Word) (q : SReg) :
    (s.setDx v).seg q = s.seg q := by cases q <;> simp [State.seg]

@[simp] theorem State.setSp_ip (s : State) (v : Word) :
    (s.setSp v).ip = s.ip := rfl

@[simp] theorem State.setSp_ipCarry (s : State) (v : Word) :
    (s.setSp v).ipCarry = s.ipCarry := rfl

@[simp] theorem State.setSp_curIp (s : State) (v : Word) :
    (s.setSp v).curIp = s.curIp := rfl

@[simp] theorem State.setSp_flags (s : State) (v : Word) :
    (s.setSp v).flags = s.flags := rfl

@[simp] theorem State.setSp_msw (s : State) (v : Word) :
    (s.setSp v).msw = s.msw := rfl

@[simp] theorem State.setSp_es (s : State) (v : Word) :
    (s.setSp v).es = s.es := rfl

@[simp] theorem State.setSp_cs (s : State) (v : Word) :
    (s.setSp v).cs = s.cs := rfl

@[simp] theorem State.setSp_ss (s : State) (v : Word) :
    (s.setSp v).ss = s.ss := rfl

@[simp] theorem State.setSp_ds (s : State) (v : Word) :
    (s.setSp v).ds = s.ds := rfl

@[simp] theorem State.setSp_cpl (s : State) (v : Word) :
    (s.setSp v).cpl = s.cpl := rfl

@[simp] theorem State.setSp_gdtr (s : State) (v : Word) :
    (s.setSp v).gdtr = s.gdtr := rfl

@[simp] theorem State.setSp_idtr (s : State) (v : Word) :
    (s.setSp v).idtr = s.idtr := rfl

@[simp] theorem State.setSp_ldtr (s : State) (v : Word) :
    (s.setSp v).ldtr = s.ldtr := rfl

@[simp] theorem State.setSp_tr (s : State) (v : Word) :
    (s.setSp v).tr = s.tr := rfl

@[simp] theorem State.setSp_run (s : State) (v : Word) :
    (s.setSp v).run = s.run := rfl

@[simp] theorem State.setSp_nmiPending (s : State) (v : Word) :
    (s.setSp v).nmiPending = s.nmiPending := rfl

@[simp] theorem State.setSp_nmiInService (s : State) (v : Word) :
    (s.setSp v).nmiInService = s.nmiInService := rfl

@[simp] theorem State.setSp_nmiLast (s : State) (v : Word) :
    (s.setSp v).nmiLast = s.nmiLast := rfl

@[simp] theorem State.setSp_intInhibit (s : State) (v : Word) :
    (s.setSp v).intInhibit = s.intInhibit := rfl

@[simp] theorem State.setSp_tfAtStart (s : State) (v : Word) :
    (s.setSp v).tfAtStart = s.tfAtStart := rfl

@[simp] theorem State.setSp_intrHeld (s : State) (v : Word) :
    (s.setSp v).intrHeld = s.intrHeld := rfl

@[simp] theorem State.setSp_boundaryStep (s : State) (v : Word) :
    (s.setSp v).boundaryStep = s.boundaryStep := rfl

@[simp] theorem State.setSp_pxOverrun (s : State) (v : Word) :
    (s.setSp v).pxOverrun = s.pxOverrun := rfl

@[simp] theorem State.setSp_pxOperand (s : State) (v : Word) :
    (s.setSp v).pxOperand = s.pxOperand := rfl

@[simp] theorem State.setSp_pxInhibit (s : State) (v : Word) :
    (s.setSp v).pxInhibit = s.pxInhibit := rfl

@[simp] theorem State.setSp_modeSwitch (s : State) (v : Word) :
    (s.setSp v).modeSwitch = s.modeSwitch := rfl

@[simp] theorem State.setSp_pre (s : State) (v : Word) :
    (s.setSp v).pre = s.pre := rfl

@[simp] theorem State.setSp_stale (s : State) (v : Word) :
    (s.setSp v).stale = s.stale := rfl

@[simp] theorem State.setSp_stores (s : State) (v : Word) :
    (s.setSp v).stores = s.stores := rfl

@[simp] theorem State.setSp_clock (s : State) (v : Word) :
    (s.setSp v).clock = s.clock := rfl

@[simp] theorem State.setSp_flushed (s : State) (v : Word) :
    (s.setSp v).flushed = s.flushed := rfl

@[simp] theorem State.setSp_mem (s : State) (v : Word) :
    (s.setSp v).mem = s.mem := rfl

@[simp] theorem State.setSp_pins (s : State) (v : Word) :
    (s.setSp v).pins = s.pins := rfl

@[simp] theorem State.setSp_platform (s : State) (v : Word) :
    (s.setSp v).platform = s.platform := rfl

@[simp] theorem State.setSp_out (s : State) (v : Word) :
    (s.setSp v).out = s.out := rfl

@[simp] theorem State.setSp_draws (s : State) (v : Word) :
    (s.setSp v).draws = s.draws := rfl

@[simp] theorem State.setSp_seg (s : State) (v : Word) (q : SReg) :
    (s.setSp v).seg q = s.seg q := by cases q <;> simp [State.seg]

@[simp] theorem State.setBp_ip (s : State) (v : Word) :
    (s.setBp v).ip = s.ip := rfl

@[simp] theorem State.setBp_ipCarry (s : State) (v : Word) :
    (s.setBp v).ipCarry = s.ipCarry := rfl

@[simp] theorem State.setBp_curIp (s : State) (v : Word) :
    (s.setBp v).curIp = s.curIp := rfl

@[simp] theorem State.setBp_flags (s : State) (v : Word) :
    (s.setBp v).flags = s.flags := rfl

@[simp] theorem State.setBp_msw (s : State) (v : Word) :
    (s.setBp v).msw = s.msw := rfl

@[simp] theorem State.setBp_es (s : State) (v : Word) :
    (s.setBp v).es = s.es := rfl

@[simp] theorem State.setBp_cs (s : State) (v : Word) :
    (s.setBp v).cs = s.cs := rfl

@[simp] theorem State.setBp_ss (s : State) (v : Word) :
    (s.setBp v).ss = s.ss := rfl

@[simp] theorem State.setBp_ds (s : State) (v : Word) :
    (s.setBp v).ds = s.ds := rfl

@[simp] theorem State.setBp_cpl (s : State) (v : Word) :
    (s.setBp v).cpl = s.cpl := rfl

@[simp] theorem State.setBp_gdtr (s : State) (v : Word) :
    (s.setBp v).gdtr = s.gdtr := rfl

@[simp] theorem State.setBp_idtr (s : State) (v : Word) :
    (s.setBp v).idtr = s.idtr := rfl

@[simp] theorem State.setBp_ldtr (s : State) (v : Word) :
    (s.setBp v).ldtr = s.ldtr := rfl

@[simp] theorem State.setBp_tr (s : State) (v : Word) :
    (s.setBp v).tr = s.tr := rfl

@[simp] theorem State.setBp_run (s : State) (v : Word) :
    (s.setBp v).run = s.run := rfl

@[simp] theorem State.setBp_nmiPending (s : State) (v : Word) :
    (s.setBp v).nmiPending = s.nmiPending := rfl

@[simp] theorem State.setBp_nmiInService (s : State) (v : Word) :
    (s.setBp v).nmiInService = s.nmiInService := rfl

@[simp] theorem State.setBp_nmiLast (s : State) (v : Word) :
    (s.setBp v).nmiLast = s.nmiLast := rfl

@[simp] theorem State.setBp_intInhibit (s : State) (v : Word) :
    (s.setBp v).intInhibit = s.intInhibit := rfl

@[simp] theorem State.setBp_tfAtStart (s : State) (v : Word) :
    (s.setBp v).tfAtStart = s.tfAtStart := rfl

@[simp] theorem State.setBp_intrHeld (s : State) (v : Word) :
    (s.setBp v).intrHeld = s.intrHeld := rfl

@[simp] theorem State.setBp_boundaryStep (s : State) (v : Word) :
    (s.setBp v).boundaryStep = s.boundaryStep := rfl

@[simp] theorem State.setBp_pxOverrun (s : State) (v : Word) :
    (s.setBp v).pxOverrun = s.pxOverrun := rfl

@[simp] theorem State.setBp_pxOperand (s : State) (v : Word) :
    (s.setBp v).pxOperand = s.pxOperand := rfl

@[simp] theorem State.setBp_pxInhibit (s : State) (v : Word) :
    (s.setBp v).pxInhibit = s.pxInhibit := rfl

@[simp] theorem State.setBp_modeSwitch (s : State) (v : Word) :
    (s.setBp v).modeSwitch = s.modeSwitch := rfl

@[simp] theorem State.setBp_pre (s : State) (v : Word) :
    (s.setBp v).pre = s.pre := rfl

@[simp] theorem State.setBp_stale (s : State) (v : Word) :
    (s.setBp v).stale = s.stale := rfl

@[simp] theorem State.setBp_stores (s : State) (v : Word) :
    (s.setBp v).stores = s.stores := rfl

@[simp] theorem State.setBp_clock (s : State) (v : Word) :
    (s.setBp v).clock = s.clock := rfl

@[simp] theorem State.setBp_flushed (s : State) (v : Word) :
    (s.setBp v).flushed = s.flushed := rfl

@[simp] theorem State.setBp_mem (s : State) (v : Word) :
    (s.setBp v).mem = s.mem := rfl

@[simp] theorem State.setBp_pins (s : State) (v : Word) :
    (s.setBp v).pins = s.pins := rfl

@[simp] theorem State.setBp_platform (s : State) (v : Word) :
    (s.setBp v).platform = s.platform := rfl

@[simp] theorem State.setBp_out (s : State) (v : Word) :
    (s.setBp v).out = s.out := rfl

@[simp] theorem State.setBp_draws (s : State) (v : Word) :
    (s.setBp v).draws = s.draws := rfl

@[simp] theorem State.setBp_seg (s : State) (v : Word) (q : SReg) :
    (s.setBp v).seg q = s.seg q := by cases q <;> simp [State.seg]

@[simp] theorem State.stepSi_ip (s : State) (w : Width) :
    (s.stepSi w).ip = s.ip := rfl

@[simp] theorem State.stepSi_ipCarry (s : State) (w : Width) :
    (s.stepSi w).ipCarry = s.ipCarry := rfl

@[simp] theorem State.stepSi_curIp (s : State) (w : Width) :
    (s.stepSi w).curIp = s.curIp := rfl

@[simp] theorem State.stepSi_flags (s : State) (w : Width) :
    (s.stepSi w).flags = s.flags := rfl

@[simp] theorem State.stepSi_msw (s : State) (w : Width) :
    (s.stepSi w).msw = s.msw := rfl

@[simp] theorem State.stepSi_es (s : State) (w : Width) :
    (s.stepSi w).es = s.es := rfl

@[simp] theorem State.stepSi_cs (s : State) (w : Width) :
    (s.stepSi w).cs = s.cs := rfl

@[simp] theorem State.stepSi_ss (s : State) (w : Width) :
    (s.stepSi w).ss = s.ss := rfl

@[simp] theorem State.stepSi_ds (s : State) (w : Width) :
    (s.stepSi w).ds = s.ds := rfl

@[simp] theorem State.stepSi_cpl (s : State) (w : Width) :
    (s.stepSi w).cpl = s.cpl := rfl

@[simp] theorem State.stepSi_gdtr (s : State) (w : Width) :
    (s.stepSi w).gdtr = s.gdtr := rfl

@[simp] theorem State.stepSi_idtr (s : State) (w : Width) :
    (s.stepSi w).idtr = s.idtr := rfl

@[simp] theorem State.stepSi_ldtr (s : State) (w : Width) :
    (s.stepSi w).ldtr = s.ldtr := rfl

@[simp] theorem State.stepSi_tr (s : State) (w : Width) :
    (s.stepSi w).tr = s.tr := rfl

@[simp] theorem State.stepSi_run (s : State) (w : Width) :
    (s.stepSi w).run = s.run := rfl

@[simp] theorem State.stepSi_nmiPending (s : State) (w : Width) :
    (s.stepSi w).nmiPending = s.nmiPending := rfl

@[simp] theorem State.stepSi_nmiInService (s : State) (w : Width) :
    (s.stepSi w).nmiInService = s.nmiInService := rfl

@[simp] theorem State.stepSi_nmiLast (s : State) (w : Width) :
    (s.stepSi w).nmiLast = s.nmiLast := rfl

@[simp] theorem State.stepSi_intInhibit (s : State) (w : Width) :
    (s.stepSi w).intInhibit = s.intInhibit := rfl

@[simp] theorem State.stepSi_tfAtStart (s : State) (w : Width) :
    (s.stepSi w).tfAtStart = s.tfAtStart := rfl

@[simp] theorem State.stepSi_intrHeld (s : State) (w : Width) :
    (s.stepSi w).intrHeld = s.intrHeld := rfl

@[simp] theorem State.stepSi_boundaryStep (s : State) (w : Width) :
    (s.stepSi w).boundaryStep = s.boundaryStep := rfl

@[simp] theorem State.stepSi_pxOverrun (s : State) (w : Width) :
    (s.stepSi w).pxOverrun = s.pxOverrun := rfl

@[simp] theorem State.stepSi_pxOperand (s : State) (w : Width) :
    (s.stepSi w).pxOperand = s.pxOperand := rfl

@[simp] theorem State.stepSi_pxInhibit (s : State) (w : Width) :
    (s.stepSi w).pxInhibit = s.pxInhibit := rfl

@[simp] theorem State.stepSi_modeSwitch (s : State) (w : Width) :
    (s.stepSi w).modeSwitch = s.modeSwitch := rfl

@[simp] theorem State.stepSi_pre (s : State) (w : Width) :
    (s.stepSi w).pre = s.pre := rfl

@[simp] theorem State.stepSi_stale (s : State) (w : Width) :
    (s.stepSi w).stale = s.stale := rfl

@[simp] theorem State.stepSi_stores (s : State) (w : Width) :
    (s.stepSi w).stores = s.stores := rfl

@[simp] theorem State.stepSi_clock (s : State) (w : Width) :
    (s.stepSi w).clock = s.clock := rfl

@[simp] theorem State.stepSi_flushed (s : State) (w : Width) :
    (s.stepSi w).flushed = s.flushed := rfl

@[simp] theorem State.stepSi_mem (s : State) (w : Width) :
    (s.stepSi w).mem = s.mem := rfl

@[simp] theorem State.stepSi_pins (s : State) (w : Width) :
    (s.stepSi w).pins = s.pins := rfl

@[simp] theorem State.stepSi_platform (s : State) (w : Width) :
    (s.stepSi w).platform = s.platform := rfl

@[simp] theorem State.stepSi_out (s : State) (w : Width) :
    (s.stepSi w).out = s.out := rfl

@[simp] theorem State.stepSi_draws (s : State) (w : Width) :
    (s.stepSi w).draws = s.draws := rfl

@[simp] theorem State.stepSi_seg (s : State) (w : Width) (q : SReg) :
    (s.stepSi w).seg q = s.seg q := by cases q <;> simp [State.seg]

@[simp] theorem State.stepDi_ip (s : State) (w : Width) :
    (s.stepDi w).ip = s.ip := rfl

@[simp] theorem State.stepDi_ipCarry (s : State) (w : Width) :
    (s.stepDi w).ipCarry = s.ipCarry := rfl

@[simp] theorem State.stepDi_curIp (s : State) (w : Width) :
    (s.stepDi w).curIp = s.curIp := rfl

@[simp] theorem State.stepDi_flags (s : State) (w : Width) :
    (s.stepDi w).flags = s.flags := rfl

@[simp] theorem State.stepDi_msw (s : State) (w : Width) :
    (s.stepDi w).msw = s.msw := rfl

@[simp] theorem State.stepDi_es (s : State) (w : Width) :
    (s.stepDi w).es = s.es := rfl

@[simp] theorem State.stepDi_cs (s : State) (w : Width) :
    (s.stepDi w).cs = s.cs := rfl

@[simp] theorem State.stepDi_ss (s : State) (w : Width) :
    (s.stepDi w).ss = s.ss := rfl

@[simp] theorem State.stepDi_ds (s : State) (w : Width) :
    (s.stepDi w).ds = s.ds := rfl

@[simp] theorem State.stepDi_cpl (s : State) (w : Width) :
    (s.stepDi w).cpl = s.cpl := rfl

@[simp] theorem State.stepDi_gdtr (s : State) (w : Width) :
    (s.stepDi w).gdtr = s.gdtr := rfl

@[simp] theorem State.stepDi_idtr (s : State) (w : Width) :
    (s.stepDi w).idtr = s.idtr := rfl

@[simp] theorem State.stepDi_ldtr (s : State) (w : Width) :
    (s.stepDi w).ldtr = s.ldtr := rfl

@[simp] theorem State.stepDi_tr (s : State) (w : Width) :
    (s.stepDi w).tr = s.tr := rfl

@[simp] theorem State.stepDi_run (s : State) (w : Width) :
    (s.stepDi w).run = s.run := rfl

@[simp] theorem State.stepDi_nmiPending (s : State) (w : Width) :
    (s.stepDi w).nmiPending = s.nmiPending := rfl

@[simp] theorem State.stepDi_nmiInService (s : State) (w : Width) :
    (s.stepDi w).nmiInService = s.nmiInService := rfl

@[simp] theorem State.stepDi_nmiLast (s : State) (w : Width) :
    (s.stepDi w).nmiLast = s.nmiLast := rfl

@[simp] theorem State.stepDi_intInhibit (s : State) (w : Width) :
    (s.stepDi w).intInhibit = s.intInhibit := rfl

@[simp] theorem State.stepDi_tfAtStart (s : State) (w : Width) :
    (s.stepDi w).tfAtStart = s.tfAtStart := rfl

@[simp] theorem State.stepDi_intrHeld (s : State) (w : Width) :
    (s.stepDi w).intrHeld = s.intrHeld := rfl

@[simp] theorem State.stepDi_boundaryStep (s : State) (w : Width) :
    (s.stepDi w).boundaryStep = s.boundaryStep := rfl

@[simp] theorem State.stepDi_pxOverrun (s : State) (w : Width) :
    (s.stepDi w).pxOverrun = s.pxOverrun := rfl

@[simp] theorem State.stepDi_pxOperand (s : State) (w : Width) :
    (s.stepDi w).pxOperand = s.pxOperand := rfl

@[simp] theorem State.stepDi_pxInhibit (s : State) (w : Width) :
    (s.stepDi w).pxInhibit = s.pxInhibit := rfl

@[simp] theorem State.stepDi_modeSwitch (s : State) (w : Width) :
    (s.stepDi w).modeSwitch = s.modeSwitch := rfl

@[simp] theorem State.stepDi_pre (s : State) (w : Width) :
    (s.stepDi w).pre = s.pre := rfl

@[simp] theorem State.stepDi_stale (s : State) (w : Width) :
    (s.stepDi w).stale = s.stale := rfl

@[simp] theorem State.stepDi_stores (s : State) (w : Width) :
    (s.stepDi w).stores = s.stores := rfl

@[simp] theorem State.stepDi_clock (s : State) (w : Width) :
    (s.stepDi w).clock = s.clock := rfl

@[simp] theorem State.stepDi_flushed (s : State) (w : Width) :
    (s.stepDi w).flushed = s.flushed := rfl

@[simp] theorem State.stepDi_mem (s : State) (w : Width) :
    (s.stepDi w).mem = s.mem := rfl

@[simp] theorem State.stepDi_pins (s : State) (w : Width) :
    (s.stepDi w).pins = s.pins := rfl

@[simp] theorem State.stepDi_platform (s : State) (w : Width) :
    (s.stepDi w).platform = s.platform := rfl

@[simp] theorem State.stepDi_out (s : State) (w : Width) :
    (s.stepDi w).out = s.out := rfl

@[simp] theorem State.stepDi_draws (s : State) (w : Width) :
    (s.stepDi w).draws = s.draws := rfl

@[simp] theorem State.stepDi_seg (s : State) (w : Width) (q : SReg) :
    (s.stepDi w).seg q = s.seg q := by cases q <;> simp [State.seg]

@[simp] theorem State.setFlags_regs (s : State) (f : Flags) :
    (s.setFlags f).regs = s.regs := rfl

@[simp] theorem State.setFlags_ip (s : State) (f : Flags) :
    (s.setFlags f).ip = s.ip := rfl

@[simp] theorem State.setFlags_ipCarry (s : State) (f : Flags) :
    (s.setFlags f).ipCarry = s.ipCarry := rfl

@[simp] theorem State.setFlags_curIp (s : State) (f : Flags) :
    (s.setFlags f).curIp = s.curIp := rfl

@[simp] theorem State.setFlags_msw (s : State) (f : Flags) :
    (s.setFlags f).msw = s.msw := rfl

@[simp] theorem State.setFlags_es (s : State) (f : Flags) :
    (s.setFlags f).es = s.es := rfl

@[simp] theorem State.setFlags_cs (s : State) (f : Flags) :
    (s.setFlags f).cs = s.cs := rfl

@[simp] theorem State.setFlags_ss (s : State) (f : Flags) :
    (s.setFlags f).ss = s.ss := rfl

@[simp] theorem State.setFlags_ds (s : State) (f : Flags) :
    (s.setFlags f).ds = s.ds := rfl

@[simp] theorem State.setFlags_cpl (s : State) (f : Flags) :
    (s.setFlags f).cpl = s.cpl := rfl

@[simp] theorem State.setFlags_gdtr (s : State) (f : Flags) :
    (s.setFlags f).gdtr = s.gdtr := rfl

@[simp] theorem State.setFlags_idtr (s : State) (f : Flags) :
    (s.setFlags f).idtr = s.idtr := rfl

@[simp] theorem State.setFlags_ldtr (s : State) (f : Flags) :
    (s.setFlags f).ldtr = s.ldtr := rfl

@[simp] theorem State.setFlags_tr (s : State) (f : Flags) :
    (s.setFlags f).tr = s.tr := rfl

@[simp] theorem State.setFlags_run (s : State) (f : Flags) :
    (s.setFlags f).run = s.run := rfl

@[simp] theorem State.setFlags_nmiPending (s : State) (f : Flags) :
    (s.setFlags f).nmiPending = s.nmiPending := rfl

@[simp] theorem State.setFlags_nmiInService (s : State) (f : Flags) :
    (s.setFlags f).nmiInService = s.nmiInService := rfl

@[simp] theorem State.setFlags_nmiLast (s : State) (f : Flags) :
    (s.setFlags f).nmiLast = s.nmiLast := rfl

@[simp] theorem State.setFlags_intInhibit (s : State) (f : Flags) :
    (s.setFlags f).intInhibit = s.intInhibit := rfl

@[simp] theorem State.setFlags_tfAtStart (s : State) (f : Flags) :
    (s.setFlags f).tfAtStart = s.tfAtStart := rfl

@[simp] theorem State.setFlags_intrHeld (s : State) (f : Flags) :
    (s.setFlags f).intrHeld = s.intrHeld := rfl

@[simp] theorem State.setFlags_boundaryStep (s : State) (f : Flags) :
    (s.setFlags f).boundaryStep = s.boundaryStep := rfl

@[simp] theorem State.setFlags_pxOverrun (s : State) (f : Flags) :
    (s.setFlags f).pxOverrun = s.pxOverrun := rfl

@[simp] theorem State.setFlags_pxOperand (s : State) (f : Flags) :
    (s.setFlags f).pxOperand = s.pxOperand := rfl

@[simp] theorem State.setFlags_pxInhibit (s : State) (f : Flags) :
    (s.setFlags f).pxInhibit = s.pxInhibit := rfl

@[simp] theorem State.setFlags_modeSwitch (s : State) (f : Flags) :
    (s.setFlags f).modeSwitch = s.modeSwitch := rfl

@[simp] theorem State.setFlags_pre (s : State) (f : Flags) :
    (s.setFlags f).pre = s.pre := rfl

@[simp] theorem State.setFlags_stale (s : State) (f : Flags) :
    (s.setFlags f).stale = s.stale := rfl

@[simp] theorem State.setFlags_stores (s : State) (f : Flags) :
    (s.setFlags f).stores = s.stores := rfl

@[simp] theorem State.setFlags_clock (s : State) (f : Flags) :
    (s.setFlags f).clock = s.clock := rfl

@[simp] theorem State.setFlags_flushed (s : State) (f : Flags) :
    (s.setFlags f).flushed = s.flushed := rfl

@[simp] theorem State.setFlags_mem (s : State) (f : Flags) :
    (s.setFlags f).mem = s.mem := rfl

@[simp] theorem State.setFlags_pins (s : State) (f : Flags) :
    (s.setFlags f).pins = s.pins := rfl

@[simp] theorem State.setFlags_platform (s : State) (f : Flags) :
    (s.setFlags f).platform = s.platform := rfl

@[simp] theorem State.setFlags_out (s : State) (f : Flags) :
    (s.setFlags f).out = s.out := rfl

@[simp] theorem State.setFlags_draws (s : State) (f : Flags) :
    (s.setFlags f).draws = s.draws := rfl

@[simp] theorem State.setFlags_seg (s : State) (f : Flags) (q : SReg) :
    (s.setFlags f).seg q = s.seg q := by cases q <;> simp [State.seg]

@[simp] theorem State.setZf_regs (s : State) (z : Bool) :
    (s.setZf z).regs = s.regs := rfl

@[simp] theorem State.setZf_ip (s : State) (z : Bool) :
    (s.setZf z).ip = s.ip := rfl

@[simp] theorem State.setZf_ipCarry (s : State) (z : Bool) :
    (s.setZf z).ipCarry = s.ipCarry := rfl

@[simp] theorem State.setZf_curIp (s : State) (z : Bool) :
    (s.setZf z).curIp = s.curIp := rfl

@[simp] theorem State.setZf_msw (s : State) (z : Bool) :
    (s.setZf z).msw = s.msw := rfl

@[simp] theorem State.setZf_es (s : State) (z : Bool) :
    (s.setZf z).es = s.es := rfl

@[simp] theorem State.setZf_cs (s : State) (z : Bool) :
    (s.setZf z).cs = s.cs := rfl

@[simp] theorem State.setZf_ss (s : State) (z : Bool) :
    (s.setZf z).ss = s.ss := rfl

@[simp] theorem State.setZf_ds (s : State) (z : Bool) :
    (s.setZf z).ds = s.ds := rfl

@[simp] theorem State.setZf_cpl (s : State) (z : Bool) :
    (s.setZf z).cpl = s.cpl := rfl

@[simp] theorem State.setZf_gdtr (s : State) (z : Bool) :
    (s.setZf z).gdtr = s.gdtr := rfl

@[simp] theorem State.setZf_idtr (s : State) (z : Bool) :
    (s.setZf z).idtr = s.idtr := rfl

@[simp] theorem State.setZf_ldtr (s : State) (z : Bool) :
    (s.setZf z).ldtr = s.ldtr := rfl

@[simp] theorem State.setZf_tr (s : State) (z : Bool) :
    (s.setZf z).tr = s.tr := rfl

@[simp] theorem State.setZf_run (s : State) (z : Bool) :
    (s.setZf z).run = s.run := rfl

@[simp] theorem State.setZf_nmiPending (s : State) (z : Bool) :
    (s.setZf z).nmiPending = s.nmiPending := rfl

@[simp] theorem State.setZf_nmiInService (s : State) (z : Bool) :
    (s.setZf z).nmiInService = s.nmiInService := rfl

@[simp] theorem State.setZf_nmiLast (s : State) (z : Bool) :
    (s.setZf z).nmiLast = s.nmiLast := rfl

@[simp] theorem State.setZf_intInhibit (s : State) (z : Bool) :
    (s.setZf z).intInhibit = s.intInhibit := rfl

@[simp] theorem State.setZf_tfAtStart (s : State) (z : Bool) :
    (s.setZf z).tfAtStart = s.tfAtStart := rfl

@[simp] theorem State.setZf_intrHeld (s : State) (z : Bool) :
    (s.setZf z).intrHeld = s.intrHeld := rfl

@[simp] theorem State.setZf_boundaryStep (s : State) (z : Bool) :
    (s.setZf z).boundaryStep = s.boundaryStep := rfl

@[simp] theorem State.setZf_pxOverrun (s : State) (z : Bool) :
    (s.setZf z).pxOverrun = s.pxOverrun := rfl

@[simp] theorem State.setZf_pxOperand (s : State) (z : Bool) :
    (s.setZf z).pxOperand = s.pxOperand := rfl

@[simp] theorem State.setZf_pxInhibit (s : State) (z : Bool) :
    (s.setZf z).pxInhibit = s.pxInhibit := rfl

@[simp] theorem State.setZf_modeSwitch (s : State) (z : Bool) :
    (s.setZf z).modeSwitch = s.modeSwitch := rfl

@[simp] theorem State.setZf_pre (s : State) (z : Bool) :
    (s.setZf z).pre = s.pre := rfl

@[simp] theorem State.setZf_stale (s : State) (z : Bool) :
    (s.setZf z).stale = s.stale := rfl

@[simp] theorem State.setZf_stores (s : State) (z : Bool) :
    (s.setZf z).stores = s.stores := rfl

@[simp] theorem State.setZf_clock (s : State) (z : Bool) :
    (s.setZf z).clock = s.clock := rfl

@[simp] theorem State.setZf_flushed (s : State) (z : Bool) :
    (s.setZf z).flushed = s.flushed := rfl

@[simp] theorem State.setZf_mem (s : State) (z : Bool) :
    (s.setZf z).mem = s.mem := rfl

@[simp] theorem State.setZf_pins (s : State) (z : Bool) :
    (s.setZf z).pins = s.pins := rfl

@[simp] theorem State.setZf_platform (s : State) (z : Bool) :
    (s.setZf z).platform = s.platform := rfl

@[simp] theorem State.setZf_out (s : State) (z : Bool) :
    (s.setZf z).out = s.out := rfl

@[simp] theorem State.setZf_draws (s : State) (z : Bool) :
    (s.setZf z).draws = s.draws := rfl

@[simp] theorem State.setZf_seg (s : State) (z : Bool) (q : SReg) :
    (s.setZf z).seg q = s.seg q := by cases q <;> simp [State.seg]

@[simp] theorem State.writeByte_regs (s : State) (a : Addr) (v : Byte) :
    (s.writeByte a v).regs = s.regs := by simp only [State.writeByte]

@[simp] theorem State.writeByte_ip (s : State) (a : Addr) (v : Byte) :
    (s.writeByte a v).ip = s.ip := by simp only [State.writeByte]

@[simp] theorem State.writeByte_ipCarry (s : State) (a : Addr) (v : Byte) :
    (s.writeByte a v).ipCarry = s.ipCarry := by simp only [State.writeByte]

@[simp] theorem State.writeByte_curIp (s : State) (a : Addr) (v : Byte) :
    (s.writeByte a v).curIp = s.curIp := by simp only [State.writeByte]

@[simp] theorem State.writeByte_flags (s : State) (a : Addr) (v : Byte) :
    (s.writeByte a v).flags = s.flags := by simp only [State.writeByte]

@[simp] theorem State.writeByte_msw (s : State) (a : Addr) (v : Byte) :
    (s.writeByte a v).msw = s.msw := by simp only [State.writeByte]

@[simp] theorem State.writeByte_es (s : State) (a : Addr) (v : Byte) :
    (s.writeByte a v).es = s.es := by simp only [State.writeByte]

@[simp] theorem State.writeByte_cs (s : State) (a : Addr) (v : Byte) :
    (s.writeByte a v).cs = s.cs := by simp only [State.writeByte]

@[simp] theorem State.writeByte_ss (s : State) (a : Addr) (v : Byte) :
    (s.writeByte a v).ss = s.ss := by simp only [State.writeByte]

@[simp] theorem State.writeByte_ds (s : State) (a : Addr) (v : Byte) :
    (s.writeByte a v).ds = s.ds := by simp only [State.writeByte]

@[simp] theorem State.writeByte_cpl (s : State) (a : Addr) (v : Byte) :
    (s.writeByte a v).cpl = s.cpl := by simp only [State.writeByte]

@[simp] theorem State.writeByte_gdtr (s : State) (a : Addr) (v : Byte) :
    (s.writeByte a v).gdtr = s.gdtr := by simp only [State.writeByte]

@[simp] theorem State.writeByte_idtr (s : State) (a : Addr) (v : Byte) :
    (s.writeByte a v).idtr = s.idtr := by simp only [State.writeByte]

@[simp] theorem State.writeByte_ldtr (s : State) (a : Addr) (v : Byte) :
    (s.writeByte a v).ldtr = s.ldtr := by simp only [State.writeByte]

@[simp] theorem State.writeByte_tr (s : State) (a : Addr) (v : Byte) :
    (s.writeByte a v).tr = s.tr := by simp only [State.writeByte]

@[simp] theorem State.writeByte_run (s : State) (a : Addr) (v : Byte) :
    (s.writeByte a v).run = s.run := by simp only [State.writeByte]

@[simp] theorem State.writeByte_nmiPending (s : State) (a : Addr) (v : Byte) :
    (s.writeByte a v).nmiPending = s.nmiPending := by simp only [State.writeByte]

@[simp] theorem State.writeByte_nmiInService (s : State) (a : Addr) (v : Byte) :
    (s.writeByte a v).nmiInService = s.nmiInService := by simp only [State.writeByte]

@[simp] theorem State.writeByte_nmiLast (s : State) (a : Addr) (v : Byte) :
    (s.writeByte a v).nmiLast = s.nmiLast := by simp only [State.writeByte]

@[simp] theorem State.writeByte_intInhibit (s : State) (a : Addr) (v : Byte) :
    (s.writeByte a v).intInhibit = s.intInhibit := by simp only [State.writeByte]

@[simp] theorem State.writeByte_tfAtStart (s : State) (a : Addr) (v : Byte) :
    (s.writeByte a v).tfAtStart = s.tfAtStart := by simp only [State.writeByte]

@[simp] theorem State.writeByte_intrHeld (s : State) (a : Addr) (v : Byte) :
    (s.writeByte a v).intrHeld = s.intrHeld := by simp only [State.writeByte]

@[simp] theorem State.writeByte_boundaryStep (s : State) (a : Addr) (v : Byte) :
    (s.writeByte a v).boundaryStep = s.boundaryStep := by simp only [State.writeByte]

@[simp] theorem State.writeByte_pxOverrun (s : State) (a : Addr) (v : Byte) :
    (s.writeByte a v).pxOverrun = s.pxOverrun := by simp only [State.writeByte]

@[simp] theorem State.writeByte_pxOperand (s : State) (a : Addr) (v : Byte) :
    (s.writeByte a v).pxOperand = s.pxOperand := by simp only [State.writeByte]

@[simp] theorem State.writeByte_pxInhibit (s : State) (a : Addr) (v : Byte) :
    (s.writeByte a v).pxInhibit = s.pxInhibit := by simp only [State.writeByte]

@[simp] theorem State.writeByte_modeSwitch (s : State) (a : Addr) (v : Byte) :
    (s.writeByte a v).modeSwitch = s.modeSwitch := by simp only [State.writeByte]

@[simp] theorem State.writeByte_pre (s : State) (a : Addr) (v : Byte) :
    (s.writeByte a v).pre = s.pre := by simp only [State.writeByte]

@[simp] theorem State.writeByte_clock (s : State) (a : Addr) (v : Byte) :
    (s.writeByte a v).clock = s.clock := by simp only [State.writeByte]

@[simp] theorem State.writeByte_flushed (s : State) (a : Addr) (v : Byte) :
    (s.writeByte a v).flushed = s.flushed := by simp only [State.writeByte]

@[simp] theorem State.writeByte_pins (s : State) (a : Addr) (v : Byte) :
    (s.writeByte a v).pins = s.pins := by simp only [State.writeByte]

@[simp] theorem State.writeByte_platform (s : State) (a : Addr) (v : Byte) :
    (s.writeByte a v).platform = s.platform := by simp only [State.writeByte]

@[simp] theorem State.writeByte_out (s : State) (a : Addr) (v : Byte) :
    (s.writeByte a v).out = s.out := by simp only [State.writeByte]

@[simp] theorem State.writeByte_draws (s : State) (a : Addr) (v : Byte) :
    (s.writeByte a v).draws = s.draws := by simp only [State.writeByte]

@[simp] theorem State.writeByte_seg (s : State) (a : Addr) (v : Byte) (q : SReg) :
    (s.writeByte a v).seg q = s.seg q := by cases q <;> simp [State.seg]

@[simp] theorem State.setStores_regs (s : State) (l : List Store) :
    (s.setStores l).regs = s.regs := rfl

@[simp] theorem State.setStores_ip (s : State) (l : List Store) :
    (s.setStores l).ip = s.ip := rfl

@[simp] theorem State.setStores_ipCarry (s : State) (l : List Store) :
    (s.setStores l).ipCarry = s.ipCarry := rfl

@[simp] theorem State.setStores_curIp (s : State) (l : List Store) :
    (s.setStores l).curIp = s.curIp := rfl

@[simp] theorem State.setStores_flags (s : State) (l : List Store) :
    (s.setStores l).flags = s.flags := rfl

@[simp] theorem State.setStores_msw (s : State) (l : List Store) :
    (s.setStores l).msw = s.msw := rfl

@[simp] theorem State.setStores_es (s : State) (l : List Store) :
    (s.setStores l).es = s.es := rfl

@[simp] theorem State.setStores_cs (s : State) (l : List Store) :
    (s.setStores l).cs = s.cs := rfl

@[simp] theorem State.setStores_ss (s : State) (l : List Store) :
    (s.setStores l).ss = s.ss := rfl

@[simp] theorem State.setStores_ds (s : State) (l : List Store) :
    (s.setStores l).ds = s.ds := rfl

@[simp] theorem State.setStores_cpl (s : State) (l : List Store) :
    (s.setStores l).cpl = s.cpl := rfl

@[simp] theorem State.setStores_gdtr (s : State) (l : List Store) :
    (s.setStores l).gdtr = s.gdtr := rfl

@[simp] theorem State.setStores_idtr (s : State) (l : List Store) :
    (s.setStores l).idtr = s.idtr := rfl

@[simp] theorem State.setStores_ldtr (s : State) (l : List Store) :
    (s.setStores l).ldtr = s.ldtr := rfl

@[simp] theorem State.setStores_tr (s : State) (l : List Store) :
    (s.setStores l).tr = s.tr := rfl

@[simp] theorem State.setStores_run (s : State) (l : List Store) :
    (s.setStores l).run = s.run := rfl

@[simp] theorem State.setStores_nmiPending (s : State) (l : List Store) :
    (s.setStores l).nmiPending = s.nmiPending := rfl

@[simp] theorem State.setStores_nmiInService (s : State) (l : List Store) :
    (s.setStores l).nmiInService = s.nmiInService := rfl

@[simp] theorem State.setStores_nmiLast (s : State) (l : List Store) :
    (s.setStores l).nmiLast = s.nmiLast := rfl

@[simp] theorem State.setStores_intInhibit (s : State) (l : List Store) :
    (s.setStores l).intInhibit = s.intInhibit := rfl

@[simp] theorem State.setStores_tfAtStart (s : State) (l : List Store) :
    (s.setStores l).tfAtStart = s.tfAtStart := rfl

@[simp] theorem State.setStores_intrHeld (s : State) (l : List Store) :
    (s.setStores l).intrHeld = s.intrHeld := rfl

@[simp] theorem State.setStores_boundaryStep (s : State) (l : List Store) :
    (s.setStores l).boundaryStep = s.boundaryStep := rfl

@[simp] theorem State.setStores_pxOverrun (s : State) (l : List Store) :
    (s.setStores l).pxOverrun = s.pxOverrun := rfl

@[simp] theorem State.setStores_pxOperand (s : State) (l : List Store) :
    (s.setStores l).pxOperand = s.pxOperand := rfl

@[simp] theorem State.setStores_pxInhibit (s : State) (l : List Store) :
    (s.setStores l).pxInhibit = s.pxInhibit := rfl

@[simp] theorem State.setStores_modeSwitch (s : State) (l : List Store) :
    (s.setStores l).modeSwitch = s.modeSwitch := rfl

@[simp] theorem State.setStores_pre (s : State) (l : List Store) :
    (s.setStores l).pre = s.pre := rfl

@[simp] theorem State.setStores_stale (s : State) (l : List Store) :
    (s.setStores l).stale = s.stale := rfl

@[simp] theorem State.setStores_clock (s : State) (l : List Store) :
    (s.setStores l).clock = s.clock := rfl

@[simp] theorem State.setStores_flushed (s : State) (l : List Store) :
    (s.setStores l).flushed = s.flushed := rfl

@[simp] theorem State.setStores_mem (s : State) (l : List Store) :
    (s.setStores l).mem = s.mem := rfl

@[simp] theorem State.setStores_pins (s : State) (l : List Store) :
    (s.setStores l).pins = s.pins := rfl

@[simp] theorem State.setStores_platform (s : State) (l : List Store) :
    (s.setStores l).platform = s.platform := rfl

@[simp] theorem State.setStores_out (s : State) (l : List Store) :
    (s.setStores l).out = s.out := rfl

@[simp] theorem State.setStores_draws (s : State) (l : List Store) :
    (s.setStores l).draws = s.draws := rfl

@[simp] theorem State.setStores_seg (s : State) (l : List Store) (q : SReg) :
    (s.setStores l).seg q = s.seg q := by cases q <;> simp [State.seg]

@[simp] theorem State.writeWord_regs (s : State) (a : Addr) (v : Word) :
    (s.writeWord a v).regs = s.regs := by simp only [State.writeWord, State.setStores_regs, State.writeByte_regs]

@[simp] theorem State.writeWord_ip (s : State) (a : Addr) (v : Word) :
    (s.writeWord a v).ip = s.ip := by simp only [State.writeWord, State.setStores_ip, State.writeByte_ip]

@[simp] theorem State.writeWord_ipCarry (s : State) (a : Addr) (v : Word) :
    (s.writeWord a v).ipCarry = s.ipCarry := by simp only [State.writeWord, State.setStores_ipCarry, State.writeByte_ipCarry]

@[simp] theorem State.writeWord_curIp (s : State) (a : Addr) (v : Word) :
    (s.writeWord a v).curIp = s.curIp := by simp only [State.writeWord, State.setStores_curIp, State.writeByte_curIp]

@[simp] theorem State.writeWord_flags (s : State) (a : Addr) (v : Word) :
    (s.writeWord a v).flags = s.flags := by simp only [State.writeWord, State.setStores_flags, State.writeByte_flags]

@[simp] theorem State.writeWord_msw (s : State) (a : Addr) (v : Word) :
    (s.writeWord a v).msw = s.msw := by simp only [State.writeWord, State.setStores_msw, State.writeByte_msw]

@[simp] theorem State.writeWord_es (s : State) (a : Addr) (v : Word) :
    (s.writeWord a v).es = s.es := by simp only [State.writeWord, State.setStores_es, State.writeByte_es]

@[simp] theorem State.writeWord_cs (s : State) (a : Addr) (v : Word) :
    (s.writeWord a v).cs = s.cs := by simp only [State.writeWord, State.setStores_cs, State.writeByte_cs]

@[simp] theorem State.writeWord_ss (s : State) (a : Addr) (v : Word) :
    (s.writeWord a v).ss = s.ss := by simp only [State.writeWord, State.setStores_ss, State.writeByte_ss]

@[simp] theorem State.writeWord_ds (s : State) (a : Addr) (v : Word) :
    (s.writeWord a v).ds = s.ds := by simp only [State.writeWord, State.setStores_ds, State.writeByte_ds]

@[simp] theorem State.writeWord_cpl (s : State) (a : Addr) (v : Word) :
    (s.writeWord a v).cpl = s.cpl := by simp only [State.writeWord, State.setStores_cpl, State.writeByte_cpl]

@[simp] theorem State.writeWord_gdtr (s : State) (a : Addr) (v : Word) :
    (s.writeWord a v).gdtr = s.gdtr := by simp only [State.writeWord, State.setStores_gdtr, State.writeByte_gdtr]

@[simp] theorem State.writeWord_idtr (s : State) (a : Addr) (v : Word) :
    (s.writeWord a v).idtr = s.idtr := by simp only [State.writeWord, State.setStores_idtr, State.writeByte_idtr]

@[simp] theorem State.writeWord_ldtr (s : State) (a : Addr) (v : Word) :
    (s.writeWord a v).ldtr = s.ldtr := by simp only [State.writeWord, State.setStores_ldtr, State.writeByte_ldtr]

@[simp] theorem State.writeWord_tr (s : State) (a : Addr) (v : Word) :
    (s.writeWord a v).tr = s.tr := by simp only [State.writeWord, State.setStores_tr, State.writeByte_tr]

@[simp] theorem State.writeWord_run (s : State) (a : Addr) (v : Word) :
    (s.writeWord a v).run = s.run := by simp only [State.writeWord, State.setStores_run, State.writeByte_run]

@[simp] theorem State.writeWord_nmiPending (s : State) (a : Addr) (v : Word) :
    (s.writeWord a v).nmiPending = s.nmiPending := by simp only [State.writeWord, State.setStores_nmiPending, State.writeByte_nmiPending]

@[simp] theorem State.writeWord_nmiInService (s : State) (a : Addr) (v : Word) :
    (s.writeWord a v).nmiInService = s.nmiInService := by simp only [State.writeWord, State.setStores_nmiInService, State.writeByte_nmiInService]

@[simp] theorem State.writeWord_nmiLast (s : State) (a : Addr) (v : Word) :
    (s.writeWord a v).nmiLast = s.nmiLast := by simp only [State.writeWord, State.setStores_nmiLast, State.writeByte_nmiLast]

@[simp] theorem State.writeWord_intInhibit (s : State) (a : Addr) (v : Word) :
    (s.writeWord a v).intInhibit = s.intInhibit := by simp only [State.writeWord, State.setStores_intInhibit, State.writeByte_intInhibit]

@[simp] theorem State.writeWord_tfAtStart (s : State) (a : Addr) (v : Word) :
    (s.writeWord a v).tfAtStart = s.tfAtStart := by simp only [State.writeWord, State.setStores_tfAtStart, State.writeByte_tfAtStart]

@[simp] theorem State.writeWord_intrHeld (s : State) (a : Addr) (v : Word) :
    (s.writeWord a v).intrHeld = s.intrHeld := by simp only [State.writeWord, State.setStores_intrHeld, State.writeByte_intrHeld]

@[simp] theorem State.writeWord_boundaryStep (s : State) (a : Addr) (v : Word) :
    (s.writeWord a v).boundaryStep = s.boundaryStep := by simp only [State.writeWord, State.setStores_boundaryStep, State.writeByte_boundaryStep]

@[simp] theorem State.writeWord_pxOverrun (s : State) (a : Addr) (v : Word) :
    (s.writeWord a v).pxOverrun = s.pxOverrun := by simp only [State.writeWord, State.setStores_pxOverrun, State.writeByte_pxOverrun]

@[simp] theorem State.writeWord_pxOperand (s : State) (a : Addr) (v : Word) :
    (s.writeWord a v).pxOperand = s.pxOperand := by simp only [State.writeWord, State.setStores_pxOperand, State.writeByte_pxOperand]

@[simp] theorem State.writeWord_pxInhibit (s : State) (a : Addr) (v : Word) :
    (s.writeWord a v).pxInhibit = s.pxInhibit := by simp only [State.writeWord, State.setStores_pxInhibit, State.writeByte_pxInhibit]

@[simp] theorem State.writeWord_modeSwitch (s : State) (a : Addr) (v : Word) :
    (s.writeWord a v).modeSwitch = s.modeSwitch := by simp only [State.writeWord, State.setStores_modeSwitch, State.writeByte_modeSwitch]

@[simp] theorem State.writeWord_pre (s : State) (a : Addr) (v : Word) :
    (s.writeWord a v).pre = s.pre := by simp only [State.writeWord, State.setStores_pre, State.writeByte_pre]

@[simp] theorem State.writeWord_clock (s : State) (a : Addr) (v : Word) :
    (s.writeWord a v).clock = s.clock := by simp only [State.writeWord, State.setStores_clock, State.writeByte_clock]

@[simp] theorem State.writeWord_flushed (s : State) (a : Addr) (v : Word) :
    (s.writeWord a v).flushed = s.flushed := by simp only [State.writeWord, State.setStores_flushed, State.writeByte_flushed]

@[simp] theorem State.writeWord_pins (s : State) (a : Addr) (v : Word) :
    (s.writeWord a v).pins = s.pins := by simp only [State.writeWord, State.setStores_pins, State.writeByte_pins]

@[simp] theorem State.writeWord_platform (s : State) (a : Addr) (v : Word) :
    (s.writeWord a v).platform = s.platform := by simp only [State.writeWord, State.setStores_platform, State.writeByte_platform]

@[simp] theorem State.writeWord_out (s : State) (a : Addr) (v : Word) :
    (s.writeWord a v).out = s.out := by simp only [State.writeWord, State.setStores_out, State.writeByte_out]

@[simp] theorem State.writeWord_draws (s : State) (a : Addr) (v : Word) :
    (s.writeWord a v).draws = s.draws := by simp only [State.writeWord, State.setStores_draws, State.writeByte_draws]

@[simp] theorem State.writeWord_seg (s : State) (a : Addr) (v : Word) (q : SReg) :
    (s.writeWord a v).seg q = s.seg q := by cases q <;> simp [State.seg]

@[simp] theorem State.store_regs (s : State) (r : SReg) (o : Word) (w : Width) (v : Word) :
    (s.store r o w v).regs = s.regs := by
  cases w <;> simp only [State.store, State.writeByte_regs, State.writeWord_regs]

@[simp] theorem State.store_ip (s : State) (r : SReg) (o : Word) (w : Width) (v : Word) :
    (s.store r o w v).ip = s.ip := by
  cases w <;> simp only [State.store, State.writeByte_ip, State.writeWord_ip]

@[simp] theorem State.store_ipCarry (s : State) (r : SReg) (o : Word) (w : Width) (v : Word) :
    (s.store r o w v).ipCarry = s.ipCarry := by
  cases w <;> simp only [State.store, State.writeByte_ipCarry, State.writeWord_ipCarry]

@[simp] theorem State.store_curIp (s : State) (r : SReg) (o : Word) (w : Width) (v : Word) :
    (s.store r o w v).curIp = s.curIp := by
  cases w <;> simp only [State.store, State.writeByte_curIp, State.writeWord_curIp]

@[simp] theorem State.store_flags (s : State) (r : SReg) (o : Word) (w : Width) (v : Word) :
    (s.store r o w v).flags = s.flags := by
  cases w <;> simp only [State.store, State.writeByte_flags, State.writeWord_flags]

@[simp] theorem State.store_msw (s : State) (r : SReg) (o : Word) (w : Width) (v : Word) :
    (s.store r o w v).msw = s.msw := by
  cases w <;> simp only [State.store, State.writeByte_msw, State.writeWord_msw]

@[simp] theorem State.store_es (s : State) (r : SReg) (o : Word) (w : Width) (v : Word) :
    (s.store r o w v).es = s.es := by
  cases w <;> simp only [State.store, State.writeByte_es, State.writeWord_es]

@[simp] theorem State.store_cs (s : State) (r : SReg) (o : Word) (w : Width) (v : Word) :
    (s.store r o w v).cs = s.cs := by
  cases w <;> simp only [State.store, State.writeByte_cs, State.writeWord_cs]

@[simp] theorem State.store_ss (s : State) (r : SReg) (o : Word) (w : Width) (v : Word) :
    (s.store r o w v).ss = s.ss := by
  cases w <;> simp only [State.store, State.writeByte_ss, State.writeWord_ss]

@[simp] theorem State.store_ds (s : State) (r : SReg) (o : Word) (w : Width) (v : Word) :
    (s.store r o w v).ds = s.ds := by
  cases w <;> simp only [State.store, State.writeByte_ds, State.writeWord_ds]

@[simp] theorem State.store_cpl (s : State) (r : SReg) (o : Word) (w : Width) (v : Word) :
    (s.store r o w v).cpl = s.cpl := by
  cases w <;> simp only [State.store, State.writeByte_cpl, State.writeWord_cpl]

@[simp] theorem State.store_gdtr (s : State) (r : SReg) (o : Word) (w : Width) (v : Word) :
    (s.store r o w v).gdtr = s.gdtr := by
  cases w <;> simp only [State.store, State.writeByte_gdtr, State.writeWord_gdtr]

@[simp] theorem State.store_idtr (s : State) (r : SReg) (o : Word) (w : Width) (v : Word) :
    (s.store r o w v).idtr = s.idtr := by
  cases w <;> simp only [State.store, State.writeByte_idtr, State.writeWord_idtr]

@[simp] theorem State.store_ldtr (s : State) (r : SReg) (o : Word) (w : Width) (v : Word) :
    (s.store r o w v).ldtr = s.ldtr := by
  cases w <;> simp only [State.store, State.writeByte_ldtr, State.writeWord_ldtr]

@[simp] theorem State.store_tr (s : State) (r : SReg) (o : Word) (w : Width) (v : Word) :
    (s.store r o w v).tr = s.tr := by
  cases w <;> simp only [State.store, State.writeByte_tr, State.writeWord_tr]

@[simp] theorem State.store_run (s : State) (r : SReg) (o : Word) (w : Width) (v : Word) :
    (s.store r o w v).run = s.run := by
  cases w <;> simp only [State.store, State.writeByte_run, State.writeWord_run]

@[simp] theorem State.store_nmiPending (s : State) (r : SReg) (o : Word) (w : Width) (v : Word) :
    (s.store r o w v).nmiPending = s.nmiPending := by
  cases w <;> simp only [State.store, State.writeByte_nmiPending, State.writeWord_nmiPending]

@[simp] theorem State.store_nmiInService (s : State) (r : SReg) (o : Word) (w : Width) (v : Word) :
    (s.store r o w v).nmiInService = s.nmiInService := by
  cases w <;> simp only [State.store, State.writeByte_nmiInService, State.writeWord_nmiInService]

@[simp] theorem State.store_nmiLast (s : State) (r : SReg) (o : Word) (w : Width) (v : Word) :
    (s.store r o w v).nmiLast = s.nmiLast := by
  cases w <;> simp only [State.store, State.writeByte_nmiLast, State.writeWord_nmiLast]

@[simp] theorem State.store_intInhibit (s : State) (r : SReg) (o : Word) (w : Width) (v : Word) :
    (s.store r o w v).intInhibit = s.intInhibit := by
  cases w <;> simp only [State.store, State.writeByte_intInhibit, State.writeWord_intInhibit]

@[simp] theorem State.store_tfAtStart (s : State) (r : SReg) (o : Word) (w : Width) (v : Word) :
    (s.store r o w v).tfAtStart = s.tfAtStart := by
  cases w <;> simp only [State.store, State.writeByte_tfAtStart, State.writeWord_tfAtStart]

@[simp] theorem State.store_intrHeld (s : State) (r : SReg) (o : Word) (w : Width) (v : Word) :
    (s.store r o w v).intrHeld = s.intrHeld := by
  cases w <;> simp only [State.store, State.writeByte_intrHeld, State.writeWord_intrHeld]

@[simp] theorem State.store_boundaryStep (s : State) (r : SReg) (o : Word) (w : Width) (v : Word) :
    (s.store r o w v).boundaryStep = s.boundaryStep := by
  cases w <;> simp only [State.store, State.writeByte_boundaryStep, State.writeWord_boundaryStep]

@[simp] theorem State.store_pxOverrun (s : State) (r : SReg) (o : Word) (w : Width) (v : Word) :
    (s.store r o w v).pxOverrun = s.pxOverrun := by
  cases w <;> simp only [State.store, State.writeByte_pxOverrun, State.writeWord_pxOverrun]

@[simp] theorem State.store_pxOperand (s : State) (r : SReg) (o : Word) (w : Width) (v : Word) :
    (s.store r o w v).pxOperand = s.pxOperand := by
  cases w <;> simp only [State.store, State.writeByte_pxOperand, State.writeWord_pxOperand]

@[simp] theorem State.store_pxInhibit (s : State) (r : SReg) (o : Word) (w : Width) (v : Word) :
    (s.store r o w v).pxInhibit = s.pxInhibit := by
  cases w <;> simp only [State.store, State.writeByte_pxInhibit, State.writeWord_pxInhibit]

@[simp] theorem State.store_modeSwitch (s : State) (r : SReg) (o : Word) (w : Width) (v : Word) :
    (s.store r o w v).modeSwitch = s.modeSwitch := by
  cases w <;> simp only [State.store, State.writeByte_modeSwitch, State.writeWord_modeSwitch]

@[simp] theorem State.store_pre (s : State) (r : SReg) (o : Word) (w : Width) (v : Word) :
    (s.store r o w v).pre = s.pre := by
  cases w <;> simp only [State.store, State.writeByte_pre, State.writeWord_pre]

@[simp] theorem State.store_clock (s : State) (r : SReg) (o : Word) (w : Width) (v : Word) :
    (s.store r o w v).clock = s.clock := by
  cases w <;> simp only [State.store, State.writeByte_clock, State.writeWord_clock]

@[simp] theorem State.store_flushed (s : State) (r : SReg) (o : Word) (w : Width) (v : Word) :
    (s.store r o w v).flushed = s.flushed := by
  cases w <;> simp only [State.store, State.writeByte_flushed, State.writeWord_flushed]

@[simp] theorem State.store_pins (s : State) (r : SReg) (o : Word) (w : Width) (v : Word) :
    (s.store r o w v).pins = s.pins := by
  cases w <;> simp only [State.store, State.writeByte_pins, State.writeWord_pins]

@[simp] theorem State.store_platform (s : State) (r : SReg) (o : Word) (w : Width) (v : Word) :
    (s.store r o w v).platform = s.platform := by
  cases w <;> simp only [State.store, State.writeByte_platform, State.writeWord_platform]

@[simp] theorem State.store_out (s : State) (r : SReg) (o : Word) (w : Width) (v : Word) :
    (s.store r o w v).out = s.out := by
  cases w <;> simp only [State.store, State.writeByte_out, State.writeWord_out]

@[simp] theorem State.store_draws (s : State) (r : SReg) (o : Word) (w : Width) (v : Word) :
    (s.store r o w v).draws = s.draws := by
  cases w <;> simp only [State.store, State.writeByte_draws, State.writeWord_draws]

@[simp] theorem State.store_seg (s : State) (r : SReg) (o : Word) (w : Width) (v : Word) (q : SReg) :
    (s.store r o w v).seg q = s.seg q := by cases q <;> simp [State.seg]

@[simp] theorem State.pushRaw_ip (s : State) (v : Word) :
    (s.pushRaw v).ip = s.ip := by
  simp only [State.pushRaw, State.setSp_ip, State.writeWord_ip]

@[simp] theorem State.pushRaw_ipCarry (s : State) (v : Word) :
    (s.pushRaw v).ipCarry = s.ipCarry := by
  simp only [State.pushRaw, State.setSp_ipCarry, State.writeWord_ipCarry]

@[simp] theorem State.pushRaw_curIp (s : State) (v : Word) :
    (s.pushRaw v).curIp = s.curIp := by
  simp only [State.pushRaw, State.setSp_curIp, State.writeWord_curIp]

@[simp] theorem State.pushRaw_flags (s : State) (v : Word) :
    (s.pushRaw v).flags = s.flags := by
  simp only [State.pushRaw, State.setSp_flags, State.writeWord_flags]

@[simp] theorem State.pushRaw_msw (s : State) (v : Word) :
    (s.pushRaw v).msw = s.msw := by
  simp only [State.pushRaw, State.setSp_msw, State.writeWord_msw]

@[simp] theorem State.pushRaw_es (s : State) (v : Word) :
    (s.pushRaw v).es = s.es := by
  simp only [State.pushRaw, State.setSp_es, State.writeWord_es]

@[simp] theorem State.pushRaw_cs (s : State) (v : Word) :
    (s.pushRaw v).cs = s.cs := by
  simp only [State.pushRaw, State.setSp_cs, State.writeWord_cs]

@[simp] theorem State.pushRaw_ss (s : State) (v : Word) :
    (s.pushRaw v).ss = s.ss := by
  simp only [State.pushRaw, State.setSp_ss, State.writeWord_ss]

@[simp] theorem State.pushRaw_ds (s : State) (v : Word) :
    (s.pushRaw v).ds = s.ds := by
  simp only [State.pushRaw, State.setSp_ds, State.writeWord_ds]

@[simp] theorem State.pushRaw_cpl (s : State) (v : Word) :
    (s.pushRaw v).cpl = s.cpl := by
  simp only [State.pushRaw, State.setSp_cpl, State.writeWord_cpl]

@[simp] theorem State.pushRaw_gdtr (s : State) (v : Word) :
    (s.pushRaw v).gdtr = s.gdtr := by
  simp only [State.pushRaw, State.setSp_gdtr, State.writeWord_gdtr]

@[simp] theorem State.pushRaw_idtr (s : State) (v : Word) :
    (s.pushRaw v).idtr = s.idtr := by
  simp only [State.pushRaw, State.setSp_idtr, State.writeWord_idtr]

@[simp] theorem State.pushRaw_ldtr (s : State) (v : Word) :
    (s.pushRaw v).ldtr = s.ldtr := by
  simp only [State.pushRaw, State.setSp_ldtr, State.writeWord_ldtr]

@[simp] theorem State.pushRaw_tr (s : State) (v : Word) :
    (s.pushRaw v).tr = s.tr := by
  simp only [State.pushRaw, State.setSp_tr, State.writeWord_tr]

@[simp] theorem State.pushRaw_run (s : State) (v : Word) :
    (s.pushRaw v).run = s.run := by
  simp only [State.pushRaw, State.setSp_run, State.writeWord_run]

@[simp] theorem State.pushRaw_nmiPending (s : State) (v : Word) :
    (s.pushRaw v).nmiPending = s.nmiPending := by
  simp only [State.pushRaw, State.setSp_nmiPending, State.writeWord_nmiPending]

@[simp] theorem State.pushRaw_nmiInService (s : State) (v : Word) :
    (s.pushRaw v).nmiInService = s.nmiInService := by
  simp only [State.pushRaw, State.setSp_nmiInService, State.writeWord_nmiInService]

@[simp] theorem State.pushRaw_nmiLast (s : State) (v : Word) :
    (s.pushRaw v).nmiLast = s.nmiLast := by
  simp only [State.pushRaw, State.setSp_nmiLast, State.writeWord_nmiLast]

@[simp] theorem State.pushRaw_intInhibit (s : State) (v : Word) :
    (s.pushRaw v).intInhibit = s.intInhibit := by
  simp only [State.pushRaw, State.setSp_intInhibit, State.writeWord_intInhibit]

@[simp] theorem State.pushRaw_tfAtStart (s : State) (v : Word) :
    (s.pushRaw v).tfAtStart = s.tfAtStart := by
  simp only [State.pushRaw, State.setSp_tfAtStart, State.writeWord_tfAtStart]

@[simp] theorem State.pushRaw_intrHeld (s : State) (v : Word) :
    (s.pushRaw v).intrHeld = s.intrHeld := by
  simp only [State.pushRaw, State.setSp_intrHeld, State.writeWord_intrHeld]

@[simp] theorem State.pushRaw_boundaryStep (s : State) (v : Word) :
    (s.pushRaw v).boundaryStep = s.boundaryStep := by
  simp only [State.pushRaw, State.setSp_boundaryStep, State.writeWord_boundaryStep]

@[simp] theorem State.pushRaw_pxOverrun (s : State) (v : Word) :
    (s.pushRaw v).pxOverrun = s.pxOverrun := by
  simp only [State.pushRaw, State.setSp_pxOverrun, State.writeWord_pxOverrun]

@[simp] theorem State.pushRaw_pxOperand (s : State) (v : Word) :
    (s.pushRaw v).pxOperand = s.pxOperand := by
  simp only [State.pushRaw, State.setSp_pxOperand, State.writeWord_pxOperand]

@[simp] theorem State.pushRaw_pxInhibit (s : State) (v : Word) :
    (s.pushRaw v).pxInhibit = s.pxInhibit := by
  simp only [State.pushRaw, State.setSp_pxInhibit, State.writeWord_pxInhibit]

@[simp] theorem State.pushRaw_modeSwitch (s : State) (v : Word) :
    (s.pushRaw v).modeSwitch = s.modeSwitch := by
  simp only [State.pushRaw, State.setSp_modeSwitch, State.writeWord_modeSwitch]

@[simp] theorem State.pushRaw_pre (s : State) (v : Word) :
    (s.pushRaw v).pre = s.pre := by
  simp only [State.pushRaw, State.setSp_pre, State.writeWord_pre]

@[simp] theorem State.pushRaw_clock (s : State) (v : Word) :
    (s.pushRaw v).clock = s.clock := by
  simp only [State.pushRaw, State.setSp_clock, State.writeWord_clock]

@[simp] theorem State.pushRaw_flushed (s : State) (v : Word) :
    (s.pushRaw v).flushed = s.flushed := by
  simp only [State.pushRaw, State.setSp_flushed, State.writeWord_flushed]

@[simp] theorem State.pushRaw_pins (s : State) (v : Word) :
    (s.pushRaw v).pins = s.pins := by
  simp only [State.pushRaw, State.setSp_pins, State.writeWord_pins]

@[simp] theorem State.pushRaw_platform (s : State) (v : Word) :
    (s.pushRaw v).platform = s.platform := by
  simp only [State.pushRaw, State.setSp_platform, State.writeWord_platform]

@[simp] theorem State.pushRaw_out (s : State) (v : Word) :
    (s.pushRaw v).out = s.out := by
  simp only [State.pushRaw, State.setSp_out, State.writeWord_out]

@[simp] theorem State.pushRaw_draws (s : State) (v : Word) :
    (s.pushRaw v).draws = s.draws := by
  simp only [State.pushRaw, State.setSp_draws, State.writeWord_draws]

@[simp] theorem State.pushRaw_seg (s : State) (v : Word) (q : SReg) :
    (s.pushRaw v).seg q = s.seg q := by cases q <;> simp [State.seg]

@[simp] theorem State.rmPut_ip (s : State) (w : Width) (rm : RM) (v : Word) :
    (s.rmPut w rm v).ip = s.ip := by
  cases rm <;> simp only [State.rmPut, State.setReg_ip, State.store_ip]

@[simp] theorem State.rmPut_ipCarry (s : State) (w : Width) (rm : RM) (v : Word) :
    (s.rmPut w rm v).ipCarry = s.ipCarry := by
  cases rm <;> simp only [State.rmPut, State.setReg_ipCarry, State.store_ipCarry]

@[simp] theorem State.rmPut_curIp (s : State) (w : Width) (rm : RM) (v : Word) :
    (s.rmPut w rm v).curIp = s.curIp := by
  cases rm <;> simp only [State.rmPut, State.setReg_curIp, State.store_curIp]

@[simp] theorem State.rmPut_flags (s : State) (w : Width) (rm : RM) (v : Word) :
    (s.rmPut w rm v).flags = s.flags := by
  cases rm <;> simp only [State.rmPut, State.setReg_flags, State.store_flags]

@[simp] theorem State.rmPut_msw (s : State) (w : Width) (rm : RM) (v : Word) :
    (s.rmPut w rm v).msw = s.msw := by
  cases rm <;> simp only [State.rmPut, State.setReg_msw, State.store_msw]

@[simp] theorem State.rmPut_es (s : State) (w : Width) (rm : RM) (v : Word) :
    (s.rmPut w rm v).es = s.es := by
  cases rm <;> simp only [State.rmPut, State.setReg_es, State.store_es]

@[simp] theorem State.rmPut_cs (s : State) (w : Width) (rm : RM) (v : Word) :
    (s.rmPut w rm v).cs = s.cs := by
  cases rm <;> simp only [State.rmPut, State.setReg_cs, State.store_cs]

@[simp] theorem State.rmPut_ss (s : State) (w : Width) (rm : RM) (v : Word) :
    (s.rmPut w rm v).ss = s.ss := by
  cases rm <;> simp only [State.rmPut, State.setReg_ss, State.store_ss]

@[simp] theorem State.rmPut_ds (s : State) (w : Width) (rm : RM) (v : Word) :
    (s.rmPut w rm v).ds = s.ds := by
  cases rm <;> simp only [State.rmPut, State.setReg_ds, State.store_ds]

@[simp] theorem State.rmPut_cpl (s : State) (w : Width) (rm : RM) (v : Word) :
    (s.rmPut w rm v).cpl = s.cpl := by
  cases rm <;> simp only [State.rmPut, State.setReg_cpl, State.store_cpl]

@[simp] theorem State.rmPut_gdtr (s : State) (w : Width) (rm : RM) (v : Word) :
    (s.rmPut w rm v).gdtr = s.gdtr := by
  cases rm <;> simp only [State.rmPut, State.setReg_gdtr, State.store_gdtr]

@[simp] theorem State.rmPut_idtr (s : State) (w : Width) (rm : RM) (v : Word) :
    (s.rmPut w rm v).idtr = s.idtr := by
  cases rm <;> simp only [State.rmPut, State.setReg_idtr, State.store_idtr]

@[simp] theorem State.rmPut_ldtr (s : State) (w : Width) (rm : RM) (v : Word) :
    (s.rmPut w rm v).ldtr = s.ldtr := by
  cases rm <;> simp only [State.rmPut, State.setReg_ldtr, State.store_ldtr]

@[simp] theorem State.rmPut_tr (s : State) (w : Width) (rm : RM) (v : Word) :
    (s.rmPut w rm v).tr = s.tr := by
  cases rm <;> simp only [State.rmPut, State.setReg_tr, State.store_tr]

@[simp] theorem State.rmPut_run (s : State) (w : Width) (rm : RM) (v : Word) :
    (s.rmPut w rm v).run = s.run := by
  cases rm <;> simp only [State.rmPut, State.setReg_run, State.store_run]

@[simp] theorem State.rmPut_nmiPending (s : State) (w : Width) (rm : RM) (v : Word) :
    (s.rmPut w rm v).nmiPending = s.nmiPending := by
  cases rm <;> simp only [State.rmPut, State.setReg_nmiPending, State.store_nmiPending]

@[simp] theorem State.rmPut_nmiInService (s : State) (w : Width) (rm : RM) (v : Word) :
    (s.rmPut w rm v).nmiInService = s.nmiInService := by
  cases rm <;> simp only [State.rmPut, State.setReg_nmiInService, State.store_nmiInService]

@[simp] theorem State.rmPut_nmiLast (s : State) (w : Width) (rm : RM) (v : Word) :
    (s.rmPut w rm v).nmiLast = s.nmiLast := by
  cases rm <;> simp only [State.rmPut, State.setReg_nmiLast, State.store_nmiLast]

@[simp] theorem State.rmPut_intInhibit (s : State) (w : Width) (rm : RM) (v : Word) :
    (s.rmPut w rm v).intInhibit = s.intInhibit := by
  cases rm <;> simp only [State.rmPut, State.setReg_intInhibit, State.store_intInhibit]

@[simp] theorem State.rmPut_tfAtStart (s : State) (w : Width) (rm : RM) (v : Word) :
    (s.rmPut w rm v).tfAtStart = s.tfAtStart := by
  cases rm <;> simp only [State.rmPut, State.setReg_tfAtStart, State.store_tfAtStart]

@[simp] theorem State.rmPut_intrHeld (s : State) (w : Width) (rm : RM) (v : Word) :
    (s.rmPut w rm v).intrHeld = s.intrHeld := by
  cases rm <;> simp only [State.rmPut, State.setReg_intrHeld, State.store_intrHeld]

@[simp] theorem State.rmPut_boundaryStep (s : State) (w : Width) (rm : RM) (v : Word) :
    (s.rmPut w rm v).boundaryStep = s.boundaryStep := by
  cases rm <;> simp only [State.rmPut, State.setReg_boundaryStep, State.store_boundaryStep]

@[simp] theorem State.rmPut_pxOverrun (s : State) (w : Width) (rm : RM) (v : Word) :
    (s.rmPut w rm v).pxOverrun = s.pxOverrun := by
  cases rm <;> simp only [State.rmPut, State.setReg_pxOverrun, State.store_pxOverrun]

@[simp] theorem State.rmPut_pxOperand (s : State) (w : Width) (rm : RM) (v : Word) :
    (s.rmPut w rm v).pxOperand = s.pxOperand := by
  cases rm <;> simp only [State.rmPut, State.setReg_pxOperand, State.store_pxOperand]

@[simp] theorem State.rmPut_pxInhibit (s : State) (w : Width) (rm : RM) (v : Word) :
    (s.rmPut w rm v).pxInhibit = s.pxInhibit := by
  cases rm <;> simp only [State.rmPut, State.setReg_pxInhibit, State.store_pxInhibit]

@[simp] theorem State.rmPut_modeSwitch (s : State) (w : Width) (rm : RM) (v : Word) :
    (s.rmPut w rm v).modeSwitch = s.modeSwitch := by
  cases rm <;> simp only [State.rmPut, State.setReg_modeSwitch, State.store_modeSwitch]

@[simp] theorem State.rmPut_pre (s : State) (w : Width) (rm : RM) (v : Word) :
    (s.rmPut w rm v).pre = s.pre := by
  cases rm <;> simp only [State.rmPut, State.setReg_pre, State.store_pre]

@[simp] theorem State.rmPut_clock (s : State) (w : Width) (rm : RM) (v : Word) :
    (s.rmPut w rm v).clock = s.clock := by
  cases rm <;> simp only [State.rmPut, State.setReg_clock, State.store_clock]

@[simp] theorem State.rmPut_flushed (s : State) (w : Width) (rm : RM) (v : Word) :
    (s.rmPut w rm v).flushed = s.flushed := by
  cases rm <;> simp only [State.rmPut, State.setReg_flushed, State.store_flushed]

@[simp] theorem State.rmPut_pins (s : State) (w : Width) (rm : RM) (v : Word) :
    (s.rmPut w rm v).pins = s.pins := by
  cases rm <;> simp only [State.rmPut, State.setReg_pins, State.store_pins]

@[simp] theorem State.rmPut_platform (s : State) (w : Width) (rm : RM) (v : Word) :
    (s.rmPut w rm v).platform = s.platform := by
  cases rm <;> simp only [State.rmPut, State.setReg_platform, State.store_platform]

@[simp] theorem State.rmPut_out (s : State) (w : Width) (rm : RM) (v : Word) :
    (s.rmPut w rm v).out = s.out := by
  cases rm <;> simp only [State.rmPut, State.setReg_out, State.store_out]

@[simp] theorem State.rmPut_draws (s : State) (w : Width) (rm : RM) (v : Word) :
    (s.rmPut w rm v).draws = s.draws := by
  cases rm <;> simp only [State.rmPut, State.setReg_draws, State.store_draws]

@[simp] theorem State.rmPut_seg (s : State) (w : Width) (rm : RM) (v : Word) (q : SReg) :
    (s.rmPut w rm v).seg q = s.seg q := by cases q <;> simp [State.seg]

@[simp] theorem State.setSeg_regs (s : State) (r : SReg) (v : SegReg) :
    (s.setSeg r v).regs = s.regs := by cases r <;> rfl

@[simp] theorem State.setSeg_ip (s : State) (r : SReg) (v : SegReg) :
    (s.setSeg r v).ip = s.ip := by cases r <;> rfl

@[simp] theorem State.setSeg_ipCarry (s : State) (r : SReg) (v : SegReg) :
    (s.setSeg r v).ipCarry = s.ipCarry := by cases r <;> rfl

@[simp] theorem State.setSeg_curIp (s : State) (r : SReg) (v : SegReg) :
    (s.setSeg r v).curIp = s.curIp := by cases r <;> rfl

@[simp] theorem State.setSeg_flags (s : State) (r : SReg) (v : SegReg) :
    (s.setSeg r v).flags = s.flags := by cases r <;> rfl

@[simp] theorem State.setSeg_msw (s : State) (r : SReg) (v : SegReg) :
    (s.setSeg r v).msw = s.msw := by cases r <;> rfl

@[simp] theorem State.setSeg_cpl (s : State) (r : SReg) (v : SegReg) :
    (s.setSeg r v).cpl = s.cpl := by cases r <;> rfl

@[simp] theorem State.setSeg_gdtr (s : State) (r : SReg) (v : SegReg) :
    (s.setSeg r v).gdtr = s.gdtr := by cases r <;> rfl

@[simp] theorem State.setSeg_idtr (s : State) (r : SReg) (v : SegReg) :
    (s.setSeg r v).idtr = s.idtr := by cases r <;> rfl

@[simp] theorem State.setSeg_ldtr (s : State) (r : SReg) (v : SegReg) :
    (s.setSeg r v).ldtr = s.ldtr := by cases r <;> rfl

@[simp] theorem State.setSeg_tr (s : State) (r : SReg) (v : SegReg) :
    (s.setSeg r v).tr = s.tr := by cases r <;> rfl

@[simp] theorem State.setSeg_run (s : State) (r : SReg) (v : SegReg) :
    (s.setSeg r v).run = s.run := by cases r <;> rfl

@[simp] theorem State.setSeg_nmiPending (s : State) (r : SReg) (v : SegReg) :
    (s.setSeg r v).nmiPending = s.nmiPending := by cases r <;> rfl

@[simp] theorem State.setSeg_nmiInService (s : State) (r : SReg) (v : SegReg) :
    (s.setSeg r v).nmiInService = s.nmiInService := by cases r <;> rfl

@[simp] theorem State.setSeg_nmiLast (s : State) (r : SReg) (v : SegReg) :
    (s.setSeg r v).nmiLast = s.nmiLast := by cases r <;> rfl

@[simp] theorem State.setSeg_intInhibit (s : State) (r : SReg) (v : SegReg) :
    (s.setSeg r v).intInhibit = s.intInhibit := by cases r <;> rfl

@[simp] theorem State.setSeg_tfAtStart (s : State) (r : SReg) (v : SegReg) :
    (s.setSeg r v).tfAtStart = s.tfAtStart := by cases r <;> rfl

@[simp] theorem State.setSeg_intrHeld (s : State) (r : SReg) (v : SegReg) :
    (s.setSeg r v).intrHeld = s.intrHeld := by cases r <;> rfl

@[simp] theorem State.setSeg_boundaryStep (s : State) (r : SReg) (v : SegReg) :
    (s.setSeg r v).boundaryStep = s.boundaryStep := by cases r <;> rfl

@[simp] theorem State.setSeg_pxOverrun (s : State) (r : SReg) (v : SegReg) :
    (s.setSeg r v).pxOverrun = s.pxOverrun := by cases r <;> rfl

@[simp] theorem State.setSeg_pxOperand (s : State) (r : SReg) (v : SegReg) :
    (s.setSeg r v).pxOperand = s.pxOperand := by cases r <;> rfl

@[simp] theorem State.setSeg_pxInhibit (s : State) (r : SReg) (v : SegReg) :
    (s.setSeg r v).pxInhibit = s.pxInhibit := by cases r <;> rfl

@[simp] theorem State.setSeg_modeSwitch (s : State) (r : SReg) (v : SegReg) :
    (s.setSeg r v).modeSwitch = s.modeSwitch := by cases r <;> rfl

@[simp] theorem State.setSeg_pre (s : State) (r : SReg) (v : SegReg) :
    (s.setSeg r v).pre = s.pre := by cases r <;> rfl

@[simp] theorem State.setSeg_stale (s : State) (r : SReg) (v : SegReg) :
    (s.setSeg r v).stale = s.stale := by cases r <;> rfl

@[simp] theorem State.setSeg_stores (s : State) (r : SReg) (v : SegReg) :
    (s.setSeg r v).stores = s.stores := by cases r <;> rfl

@[simp] theorem State.setSeg_clock (s : State) (r : SReg) (v : SegReg) :
    (s.setSeg r v).clock = s.clock := by cases r <;> rfl

@[simp] theorem State.setSeg_flushed (s : State) (r : SReg) (v : SegReg) :
    (s.setSeg r v).flushed = s.flushed := by cases r <;> rfl

@[simp] theorem State.setSeg_mem (s : State) (r : SReg) (v : SegReg) :
    (s.setSeg r v).mem = s.mem := by cases r <;> rfl

@[simp] theorem State.setSeg_pins (s : State) (r : SReg) (v : SegReg) :
    (s.setSeg r v).pins = s.pins := by cases r <;> rfl

@[simp] theorem State.setSeg_platform (s : State) (r : SReg) (v : SegReg) :
    (s.setSeg r v).platform = s.platform := by cases r <;> rfl

@[simp] theorem State.setSeg_out (s : State) (r : SReg) (v : SegReg) :
    (s.setSeg r v).out = s.out := by cases r <;> rfl

@[simp] theorem State.setSeg_draws (s : State) (r : SReg) (v : SegReg) :
    (s.setSeg r v).draws = s.draws := by cases r <;> rfl

@[simp] theorem State.jump_regs (s : State) (t : Word) :
    (s.jump t).regs = s.regs := rfl

@[simp] theorem State.jump_curIp (s : State) (t : Word) :
    (s.jump t).curIp = s.curIp := rfl

@[simp] theorem State.jump_flags (s : State) (t : Word) :
    (s.jump t).flags = s.flags := rfl

@[simp] theorem State.jump_msw (s : State) (t : Word) :
    (s.jump t).msw = s.msw := rfl

@[simp] theorem State.jump_es (s : State) (t : Word) :
    (s.jump t).es = s.es := rfl

@[simp] theorem State.jump_cs (s : State) (t : Word) :
    (s.jump t).cs = s.cs := rfl

@[simp] theorem State.jump_ss (s : State) (t : Word) :
    (s.jump t).ss = s.ss := rfl

@[simp] theorem State.jump_ds (s : State) (t : Word) :
    (s.jump t).ds = s.ds := rfl

@[simp] theorem State.jump_cpl (s : State) (t : Word) :
    (s.jump t).cpl = s.cpl := rfl

@[simp] theorem State.jump_gdtr (s : State) (t : Word) :
    (s.jump t).gdtr = s.gdtr := rfl

@[simp] theorem State.jump_idtr (s : State) (t : Word) :
    (s.jump t).idtr = s.idtr := rfl

@[simp] theorem State.jump_ldtr (s : State) (t : Word) :
    (s.jump t).ldtr = s.ldtr := rfl

@[simp] theorem State.jump_tr (s : State) (t : Word) :
    (s.jump t).tr = s.tr := rfl

@[simp] theorem State.jump_run (s : State) (t : Word) :
    (s.jump t).run = s.run := rfl

@[simp] theorem State.jump_nmiPending (s : State) (t : Word) :
    (s.jump t).nmiPending = s.nmiPending := rfl

@[simp] theorem State.jump_nmiInService (s : State) (t : Word) :
    (s.jump t).nmiInService = s.nmiInService := rfl

@[simp] theorem State.jump_nmiLast (s : State) (t : Word) :
    (s.jump t).nmiLast = s.nmiLast := rfl

@[simp] theorem State.jump_intInhibit (s : State) (t : Word) :
    (s.jump t).intInhibit = s.intInhibit := rfl

@[simp] theorem State.jump_tfAtStart (s : State) (t : Word) :
    (s.jump t).tfAtStart = s.tfAtStart := rfl

@[simp] theorem State.jump_intrHeld (s : State) (t : Word) :
    (s.jump t).intrHeld = s.intrHeld := rfl

@[simp] theorem State.jump_boundaryStep (s : State) (t : Word) :
    (s.jump t).boundaryStep = s.boundaryStep := rfl

@[simp] theorem State.jump_pxOverrun (s : State) (t : Word) :
    (s.jump t).pxOverrun = s.pxOverrun := rfl

@[simp] theorem State.jump_pxOperand (s : State) (t : Word) :
    (s.jump t).pxOperand = s.pxOperand := rfl

@[simp] theorem State.jump_pxInhibit (s : State) (t : Word) :
    (s.jump t).pxInhibit = s.pxInhibit := rfl

@[simp] theorem State.jump_modeSwitch (s : State) (t : Word) :
    (s.jump t).modeSwitch = s.modeSwitch := rfl

@[simp] theorem State.jump_pre (s : State) (t : Word) :
    (s.jump t).pre = s.pre := rfl

@[simp] theorem State.jump_stores (s : State) (t : Word) :
    (s.jump t).stores = s.stores := rfl

@[simp] theorem State.jump_clock (s : State) (t : Word) :
    (s.jump t).clock = s.clock := rfl

@[simp] theorem State.jump_mem (s : State) (t : Word) :
    (s.jump t).mem = s.mem := rfl

@[simp] theorem State.jump_pins (s : State) (t : Word) :
    (s.jump t).pins = s.pins := rfl

@[simp] theorem State.jump_platform (s : State) (t : Word) :
    (s.jump t).platform = s.platform := rfl

@[simp] theorem State.jump_out (s : State) (t : Word) :
    (s.jump t).out = s.out := rfl

@[simp] theorem State.jump_draws (s : State) (t : Word) :
    (s.jump t).draws = s.draws := rfl

@[simp] theorem State.jump_seg (s : State) (t : Word) (q : SReg) :
    (s.jump t).seg q = s.seg q := by cases q <;> simp [State.seg]

@[simp] theorem State.realFar_regs (s : State) (sel off : Word) :
    (s.realFar sel off).regs = s.regs := rfl

@[simp] theorem State.realFar_curIp (s : State) (sel off : Word) :
    (s.realFar sel off).curIp = s.curIp := rfl

@[simp] theorem State.realFar_flags (s : State) (sel off : Word) :
    (s.realFar sel off).flags = s.flags := rfl

@[simp] theorem State.realFar_msw (s : State) (sel off : Word) :
    (s.realFar sel off).msw = s.msw := rfl

@[simp] theorem State.realFar_es (s : State) (sel off : Word) :
    (s.realFar sel off).es = s.es := rfl

@[simp] theorem State.realFar_ss (s : State) (sel off : Word) :
    (s.realFar sel off).ss = s.ss := rfl

@[simp] theorem State.realFar_ds (s : State) (sel off : Word) :
    (s.realFar sel off).ds = s.ds := rfl

@[simp] theorem State.realFar_cpl (s : State) (sel off : Word) :
    (s.realFar sel off).cpl = s.cpl := rfl

@[simp] theorem State.realFar_gdtr (s : State) (sel off : Word) :
    (s.realFar sel off).gdtr = s.gdtr := rfl

@[simp] theorem State.realFar_idtr (s : State) (sel off : Word) :
    (s.realFar sel off).idtr = s.idtr := rfl

@[simp] theorem State.realFar_ldtr (s : State) (sel off : Word) :
    (s.realFar sel off).ldtr = s.ldtr := rfl

@[simp] theorem State.realFar_tr (s : State) (sel off : Word) :
    (s.realFar sel off).tr = s.tr := rfl

@[simp] theorem State.realFar_run (s : State) (sel off : Word) :
    (s.realFar sel off).run = s.run := rfl

@[simp] theorem State.realFar_nmiPending (s : State) (sel off : Word) :
    (s.realFar sel off).nmiPending = s.nmiPending := rfl

@[simp] theorem State.realFar_nmiInService (s : State) (sel off : Word) :
    (s.realFar sel off).nmiInService = s.nmiInService := rfl

@[simp] theorem State.realFar_nmiLast (s : State) (sel off : Word) :
    (s.realFar sel off).nmiLast = s.nmiLast := rfl

@[simp] theorem State.realFar_intInhibit (s : State) (sel off : Word) :
    (s.realFar sel off).intInhibit = s.intInhibit := rfl

@[simp] theorem State.realFar_tfAtStart (s : State) (sel off : Word) :
    (s.realFar sel off).tfAtStart = s.tfAtStart := rfl

@[simp] theorem State.realFar_intrHeld (s : State) (sel off : Word) :
    (s.realFar sel off).intrHeld = s.intrHeld := rfl

@[simp] theorem State.realFar_boundaryStep (s : State) (sel off : Word) :
    (s.realFar sel off).boundaryStep = s.boundaryStep := rfl

@[simp] theorem State.realFar_pxOverrun (s : State) (sel off : Word) :
    (s.realFar sel off).pxOverrun = s.pxOverrun := rfl

@[simp] theorem State.realFar_pxOperand (s : State) (sel off : Word) :
    (s.realFar sel off).pxOperand = s.pxOperand := rfl

@[simp] theorem State.realFar_pxInhibit (s : State) (sel off : Word) :
    (s.realFar sel off).pxInhibit = s.pxInhibit := rfl

@[simp] theorem State.realFar_modeSwitch (s : State) (sel off : Word) :
    (s.realFar sel off).modeSwitch = s.modeSwitch := rfl

@[simp] theorem State.realFar_pre (s : State) (sel off : Word) :
    (s.realFar sel off).pre = s.pre := rfl

@[simp] theorem State.realFar_stores (s : State) (sel off : Word) :
    (s.realFar sel off).stores = s.stores := rfl

@[simp] theorem State.realFar_clock (s : State) (sel off : Word) :
    (s.realFar sel off).clock = s.clock := rfl

@[simp] theorem State.realFar_mem (s : State) (sel off : Word) :
    (s.realFar sel off).mem = s.mem := rfl

@[simp] theorem State.realFar_pins (s : State) (sel off : Word) :
    (s.realFar sel off).pins = s.pins := rfl

@[simp] theorem State.realFar_platform (s : State) (sel off : Word) :
    (s.realFar sel off).platform = s.platform := rfl

@[simp] theorem State.realFar_out (s : State) (sel off : Word) :
    (s.realFar sel off).out = s.out := rfl

@[simp] theorem State.realFar_draws (s : State) (sel off : Word) :
    (s.realFar sel off).draws = s.draws := rfl

@[simp] theorem State.loadReal_regs (s : State) (r : SReg) (sel : Word) :
    (s.loadReal r sel).regs = s.regs := by cases r <;> rfl

@[simp] theorem State.loadReal_ip (s : State) (r : SReg) (sel : Word) :
    (s.loadReal r sel).ip = s.ip := by cases r <;> rfl

@[simp] theorem State.loadReal_ipCarry (s : State) (r : SReg) (sel : Word) :
    (s.loadReal r sel).ipCarry = s.ipCarry := by cases r <;> rfl

@[simp] theorem State.loadReal_curIp (s : State) (r : SReg) (sel : Word) :
    (s.loadReal r sel).curIp = s.curIp := by cases r <;> rfl

@[simp] theorem State.loadReal_flags (s : State) (r : SReg) (sel : Word) :
    (s.loadReal r sel).flags = s.flags := by cases r <;> rfl

@[simp] theorem State.loadReal_msw (s : State) (r : SReg) (sel : Word) :
    (s.loadReal r sel).msw = s.msw := by cases r <;> rfl

@[simp] theorem State.loadReal_cpl (s : State) (r : SReg) (sel : Word) :
    (s.loadReal r sel).cpl = s.cpl := by cases r <;> rfl

@[simp] theorem State.loadReal_gdtr (s : State) (r : SReg) (sel : Word) :
    (s.loadReal r sel).gdtr = s.gdtr := by cases r <;> rfl

@[simp] theorem State.loadReal_idtr (s : State) (r : SReg) (sel : Word) :
    (s.loadReal r sel).idtr = s.idtr := by cases r <;> rfl

@[simp] theorem State.loadReal_ldtr (s : State) (r : SReg) (sel : Word) :
    (s.loadReal r sel).ldtr = s.ldtr := by cases r <;> rfl

@[simp] theorem State.loadReal_tr (s : State) (r : SReg) (sel : Word) :
    (s.loadReal r sel).tr = s.tr := by cases r <;> rfl

@[simp] theorem State.loadReal_run (s : State) (r : SReg) (sel : Word) :
    (s.loadReal r sel).run = s.run := by cases r <;> rfl

@[simp] theorem State.loadReal_nmiPending (s : State) (r : SReg) (sel : Word) :
    (s.loadReal r sel).nmiPending = s.nmiPending := by cases r <;> rfl

@[simp] theorem State.loadReal_nmiInService (s : State) (r : SReg) (sel : Word) :
    (s.loadReal r sel).nmiInService = s.nmiInService := by cases r <;> rfl

@[simp] theorem State.loadReal_nmiLast (s : State) (r : SReg) (sel : Word) :
    (s.loadReal r sel).nmiLast = s.nmiLast := by cases r <;> rfl

@[simp] theorem State.loadReal_intInhibit (s : State) (r : SReg) (sel : Word) :
    (s.loadReal r sel).intInhibit = s.intInhibit := by cases r <;> rfl

@[simp] theorem State.loadReal_tfAtStart (s : State) (r : SReg) (sel : Word) :
    (s.loadReal r sel).tfAtStart = s.tfAtStart := by cases r <;> rfl

@[simp] theorem State.loadReal_intrHeld (s : State) (r : SReg) (sel : Word) :
    (s.loadReal r sel).intrHeld = s.intrHeld := by cases r <;> rfl

@[simp] theorem State.loadReal_boundaryStep (s : State) (r : SReg) (sel : Word) :
    (s.loadReal r sel).boundaryStep = s.boundaryStep := by cases r <;> rfl

@[simp] theorem State.loadReal_pxOverrun (s : State) (r : SReg) (sel : Word) :
    (s.loadReal r sel).pxOverrun = s.pxOverrun := by cases r <;> rfl

@[simp] theorem State.loadReal_pxOperand (s : State) (r : SReg) (sel : Word) :
    (s.loadReal r sel).pxOperand = s.pxOperand := by cases r <;> rfl

@[simp] theorem State.loadReal_pxInhibit (s : State) (r : SReg) (sel : Word) :
    (s.loadReal r sel).pxInhibit = s.pxInhibit := by cases r <;> rfl

@[simp] theorem State.loadReal_modeSwitch (s : State) (r : SReg) (sel : Word) :
    (s.loadReal r sel).modeSwitch = s.modeSwitch := by cases r <;> rfl

@[simp] theorem State.loadReal_pre (s : State) (r : SReg) (sel : Word) :
    (s.loadReal r sel).pre = s.pre := by cases r <;> rfl

@[simp] theorem State.loadReal_stale (s : State) (r : SReg) (sel : Word) :
    (s.loadReal r sel).stale = s.stale := by cases r <;> rfl

@[simp] theorem State.loadReal_stores (s : State) (r : SReg) (sel : Word) :
    (s.loadReal r sel).stores = s.stores := by cases r <;> rfl

@[simp] theorem State.loadReal_clock (s : State) (r : SReg) (sel : Word) :
    (s.loadReal r sel).clock = s.clock := by cases r <;> rfl

@[simp] theorem State.loadReal_flushed (s : State) (r : SReg) (sel : Word) :
    (s.loadReal r sel).flushed = s.flushed := by cases r <;> rfl

@[simp] theorem State.loadReal_mem (s : State) (r : SReg) (sel : Word) :
    (s.loadReal r sel).mem = s.mem := by cases r <;> rfl

@[simp] theorem State.loadReal_pins (s : State) (r : SReg) (sel : Word) :
    (s.loadReal r sel).pins = s.pins := by cases r <;> rfl

@[simp] theorem State.loadReal_platform (s : State) (r : SReg) (sel : Word) :
    (s.loadReal r sel).platform = s.platform := by cases r <;> rfl

@[simp] theorem State.loadReal_out (s : State) (r : SReg) (sel : Word) :
    (s.loadReal r sel).out = s.out := by cases r <;> rfl

@[simp] theorem State.loadReal_draws (s : State) (r : SReg) (sel : Word) :
    (s.loadReal r sel).draws = s.draws := by cases r <;> rfl

@[simp] theorem State.emit_regs (s : State) (e : Event) :
    (s.emit e).regs = s.regs := rfl

@[simp] theorem State.emit_ip (s : State) (e : Event) :
    (s.emit e).ip = s.ip := rfl

@[simp] theorem State.emit_ipCarry (s : State) (e : Event) :
    (s.emit e).ipCarry = s.ipCarry := rfl

@[simp] theorem State.emit_curIp (s : State) (e : Event) :
    (s.emit e).curIp = s.curIp := rfl

@[simp] theorem State.emit_flags (s : State) (e : Event) :
    (s.emit e).flags = s.flags := rfl

@[simp] theorem State.emit_msw (s : State) (e : Event) :
    (s.emit e).msw = s.msw := rfl

@[simp] theorem State.emit_es (s : State) (e : Event) :
    (s.emit e).es = s.es := rfl

@[simp] theorem State.emit_cs (s : State) (e : Event) :
    (s.emit e).cs = s.cs := rfl

@[simp] theorem State.emit_ss (s : State) (e : Event) :
    (s.emit e).ss = s.ss := rfl

@[simp] theorem State.emit_ds (s : State) (e : Event) :
    (s.emit e).ds = s.ds := rfl

@[simp] theorem State.emit_cpl (s : State) (e : Event) :
    (s.emit e).cpl = s.cpl := rfl

@[simp] theorem State.emit_gdtr (s : State) (e : Event) :
    (s.emit e).gdtr = s.gdtr := rfl

@[simp] theorem State.emit_idtr (s : State) (e : Event) :
    (s.emit e).idtr = s.idtr := rfl

@[simp] theorem State.emit_ldtr (s : State) (e : Event) :
    (s.emit e).ldtr = s.ldtr := rfl

@[simp] theorem State.emit_tr (s : State) (e : Event) :
    (s.emit e).tr = s.tr := rfl

@[simp] theorem State.emit_run (s : State) (e : Event) :
    (s.emit e).run = s.run := rfl

@[simp] theorem State.emit_nmiPending (s : State) (e : Event) :
    (s.emit e).nmiPending = s.nmiPending := rfl

@[simp] theorem State.emit_nmiInService (s : State) (e : Event) :
    (s.emit e).nmiInService = s.nmiInService := rfl

@[simp] theorem State.emit_nmiLast (s : State) (e : Event) :
    (s.emit e).nmiLast = s.nmiLast := rfl

@[simp] theorem State.emit_intInhibit (s : State) (e : Event) :
    (s.emit e).intInhibit = s.intInhibit := rfl

@[simp] theorem State.emit_tfAtStart (s : State) (e : Event) :
    (s.emit e).tfAtStart = s.tfAtStart := rfl

@[simp] theorem State.emit_intrHeld (s : State) (e : Event) :
    (s.emit e).intrHeld = s.intrHeld := rfl

@[simp] theorem State.emit_boundaryStep (s : State) (e : Event) :
    (s.emit e).boundaryStep = s.boundaryStep := rfl

@[simp] theorem State.emit_pxOverrun (s : State) (e : Event) :
    (s.emit e).pxOverrun = s.pxOverrun := rfl

@[simp] theorem State.emit_pxOperand (s : State) (e : Event) :
    (s.emit e).pxOperand = s.pxOperand := rfl

@[simp] theorem State.emit_pxInhibit (s : State) (e : Event) :
    (s.emit e).pxInhibit = s.pxInhibit := rfl

@[simp] theorem State.emit_modeSwitch (s : State) (e : Event) :
    (s.emit e).modeSwitch = s.modeSwitch := rfl

@[simp] theorem State.emit_pre (s : State) (e : Event) :
    (s.emit e).pre = s.pre := rfl

@[simp] theorem State.emit_stale (s : State) (e : Event) :
    (s.emit e).stale = s.stale := rfl

@[simp] theorem State.emit_stores (s : State) (e : Event) :
    (s.emit e).stores = s.stores := rfl

@[simp] theorem State.emit_clock (s : State) (e : Event) :
    (s.emit e).clock = s.clock := rfl

@[simp] theorem State.emit_flushed (s : State) (e : Event) :
    (s.emit e).flushed = s.flushed := rfl

@[simp] theorem State.emit_mem (s : State) (e : Event) :
    (s.emit e).mem = s.mem := rfl

@[simp] theorem State.emit_pins (s : State) (e : Event) :
    (s.emit e).pins = s.pins := rfl

@[simp] theorem State.emit_platform (s : State) (e : Event) :
    (s.emit e).platform = s.platform := rfl

@[simp] theorem State.emit_draws (s : State) (e : Event) :
    (s.emit e).draws = s.draws := rfl

@[simp] theorem State.emit_seg (s : State) (e : Event) (q : SReg) :
    (s.emit e).seg q = s.seg q := by cases q <;> simp [State.seg]

@[simp] theorem State.lockedSince_regs (s : State) (t : State) (n : Nat) :
    (s.lockedSince t n).regs = s.regs := rfl

@[simp] theorem State.lockedSince_ip (s : State) (t : State) (n : Nat) :
    (s.lockedSince t n).ip = s.ip := rfl

@[simp] theorem State.lockedSince_ipCarry (s : State) (t : State) (n : Nat) :
    (s.lockedSince t n).ipCarry = s.ipCarry := rfl

@[simp] theorem State.lockedSince_curIp (s : State) (t : State) (n : Nat) :
    (s.lockedSince t n).curIp = s.curIp := rfl

@[simp] theorem State.lockedSince_flags (s : State) (t : State) (n : Nat) :
    (s.lockedSince t n).flags = s.flags := rfl

@[simp] theorem State.lockedSince_msw (s : State) (t : State) (n : Nat) :
    (s.lockedSince t n).msw = s.msw := rfl

@[simp] theorem State.lockedSince_es (s : State) (t : State) (n : Nat) :
    (s.lockedSince t n).es = s.es := rfl

@[simp] theorem State.lockedSince_cs (s : State) (t : State) (n : Nat) :
    (s.lockedSince t n).cs = s.cs := rfl

@[simp] theorem State.lockedSince_ss (s : State) (t : State) (n : Nat) :
    (s.lockedSince t n).ss = s.ss := rfl

@[simp] theorem State.lockedSince_ds (s : State) (t : State) (n : Nat) :
    (s.lockedSince t n).ds = s.ds := rfl

@[simp] theorem State.lockedSince_cpl (s : State) (t : State) (n : Nat) :
    (s.lockedSince t n).cpl = s.cpl := rfl

@[simp] theorem State.lockedSince_gdtr (s : State) (t : State) (n : Nat) :
    (s.lockedSince t n).gdtr = s.gdtr := rfl

@[simp] theorem State.lockedSince_idtr (s : State) (t : State) (n : Nat) :
    (s.lockedSince t n).idtr = s.idtr := rfl

@[simp] theorem State.lockedSince_ldtr (s : State) (t : State) (n : Nat) :
    (s.lockedSince t n).ldtr = s.ldtr := rfl

@[simp] theorem State.lockedSince_tr (s : State) (t : State) (n : Nat) :
    (s.lockedSince t n).tr = s.tr := rfl

@[simp] theorem State.lockedSince_run (s : State) (t : State) (n : Nat) :
    (s.lockedSince t n).run = s.run := rfl

@[simp] theorem State.lockedSince_nmiPending (s : State) (t : State) (n : Nat) :
    (s.lockedSince t n).nmiPending = s.nmiPending := rfl

@[simp] theorem State.lockedSince_nmiInService (s : State) (t : State) (n : Nat) :
    (s.lockedSince t n).nmiInService = s.nmiInService := rfl

@[simp] theorem State.lockedSince_nmiLast (s : State) (t : State) (n : Nat) :
    (s.lockedSince t n).nmiLast = s.nmiLast := rfl

@[simp] theorem State.lockedSince_intInhibit (s : State) (t : State) (n : Nat) :
    (s.lockedSince t n).intInhibit = s.intInhibit := rfl

@[simp] theorem State.lockedSince_tfAtStart (s : State) (t : State) (n : Nat) :
    (s.lockedSince t n).tfAtStart = s.tfAtStart := rfl

@[simp] theorem State.lockedSince_intrHeld (s : State) (t : State) (n : Nat) :
    (s.lockedSince t n).intrHeld = s.intrHeld := rfl

@[simp] theorem State.lockedSince_boundaryStep (s : State) (t : State) (n : Nat) :
    (s.lockedSince t n).boundaryStep = s.boundaryStep := rfl

@[simp] theorem State.lockedSince_pxOverrun (s : State) (t : State) (n : Nat) :
    (s.lockedSince t n).pxOverrun = s.pxOverrun := rfl

@[simp] theorem State.lockedSince_pxOperand (s : State) (t : State) (n : Nat) :
    (s.lockedSince t n).pxOperand = s.pxOperand := rfl

@[simp] theorem State.lockedSince_pxInhibit (s : State) (t : State) (n : Nat) :
    (s.lockedSince t n).pxInhibit = s.pxInhibit := rfl

@[simp] theorem State.lockedSince_modeSwitch (s : State) (t : State) (n : Nat) :
    (s.lockedSince t n).modeSwitch = s.modeSwitch := rfl

@[simp] theorem State.lockedSince_pre (s : State) (t : State) (n : Nat) :
    (s.lockedSince t n).pre = s.pre := rfl

@[simp] theorem State.lockedSince_stale (s : State) (t : State) (n : Nat) :
    (s.lockedSince t n).stale = s.stale := rfl

@[simp] theorem State.lockedSince_clock (s : State) (t : State) (n : Nat) :
    (s.lockedSince t n).clock = s.clock := rfl

@[simp] theorem State.lockedSince_flushed (s : State) (t : State) (n : Nat) :
    (s.lockedSince t n).flushed = s.flushed := rfl

@[simp] theorem State.lockedSince_mem (s : State) (t : State) (n : Nat) :
    (s.lockedSince t n).mem = s.mem := rfl

@[simp] theorem State.lockedSince_pins (s : State) (t : State) (n : Nat) :
    (s.lockedSince t n).pins = s.pins := rfl

@[simp] theorem State.lockedSince_platform (s : State) (t : State) (n : Nat) :
    (s.lockedSince t n).platform = s.platform := rfl

@[simp] theorem State.lockedSince_out (s : State) (t : State) (n : Nat) :
    (s.lockedSince t n).out = s.out := rfl

@[simp] theorem State.lockedSince_draws (s : State) (t : State) (n : Nat) :
    (s.lockedSince t n).draws = s.draws := rfl

@[simp] theorem State.lockedSince_seg (s : State) (t : State) (n : Nat) (q : SReg) :
    (s.lockedSince t n).seg q = s.seg q := by cases q <;> simp [State.seg]

@[simp] theorem State.setAccessed_regs (s : State) (a : Addr) (d : Desc) :
    (s.setAccessed a d).regs = s.regs := by
  unfold State.setAccessed; split <;> simp only [State.lockedSince_regs, State.writeByte_regs]

@[simp] theorem State.setAccessed_ip (s : State) (a : Addr) (d : Desc) :
    (s.setAccessed a d).ip = s.ip := by
  unfold State.setAccessed; split <;> simp only [State.lockedSince_ip, State.writeByte_ip]

@[simp] theorem State.setAccessed_ipCarry (s : State) (a : Addr) (d : Desc) :
    (s.setAccessed a d).ipCarry = s.ipCarry := by
  unfold State.setAccessed; split <;> simp only [State.lockedSince_ipCarry, State.writeByte_ipCarry]

@[simp] theorem State.setAccessed_curIp (s : State) (a : Addr) (d : Desc) :
    (s.setAccessed a d).curIp = s.curIp := by
  unfold State.setAccessed; split <;> simp only [State.lockedSince_curIp, State.writeByte_curIp]

@[simp] theorem State.setAccessed_flags (s : State) (a : Addr) (d : Desc) :
    (s.setAccessed a d).flags = s.flags := by
  unfold State.setAccessed; split <;> simp only [State.lockedSince_flags, State.writeByte_flags]

@[simp] theorem State.setAccessed_msw (s : State) (a : Addr) (d : Desc) :
    (s.setAccessed a d).msw = s.msw := by
  unfold State.setAccessed; split <;> simp only [State.lockedSince_msw, State.writeByte_msw]

@[simp] theorem State.setAccessed_es (s : State) (a : Addr) (d : Desc) :
    (s.setAccessed a d).es = s.es := by
  unfold State.setAccessed; split <;> simp only [State.lockedSince_es, State.writeByte_es]

@[simp] theorem State.setAccessed_cs (s : State) (a : Addr) (d : Desc) :
    (s.setAccessed a d).cs = s.cs := by
  unfold State.setAccessed; split <;> simp only [State.lockedSince_cs, State.writeByte_cs]

@[simp] theorem State.setAccessed_ss (s : State) (a : Addr) (d : Desc) :
    (s.setAccessed a d).ss = s.ss := by
  unfold State.setAccessed; split <;> simp only [State.lockedSince_ss, State.writeByte_ss]

@[simp] theorem State.setAccessed_ds (s : State) (a : Addr) (d : Desc) :
    (s.setAccessed a d).ds = s.ds := by
  unfold State.setAccessed; split <;> simp only [State.lockedSince_ds, State.writeByte_ds]

@[simp] theorem State.setAccessed_cpl (s : State) (a : Addr) (d : Desc) :
    (s.setAccessed a d).cpl = s.cpl := by
  unfold State.setAccessed; split <;> simp only [State.lockedSince_cpl, State.writeByte_cpl]

@[simp] theorem State.setAccessed_gdtr (s : State) (a : Addr) (d : Desc) :
    (s.setAccessed a d).gdtr = s.gdtr := by
  unfold State.setAccessed; split <;> simp only [State.lockedSince_gdtr, State.writeByte_gdtr]

@[simp] theorem State.setAccessed_idtr (s : State) (a : Addr) (d : Desc) :
    (s.setAccessed a d).idtr = s.idtr := by
  unfold State.setAccessed; split <;> simp only [State.lockedSince_idtr, State.writeByte_idtr]

@[simp] theorem State.setAccessed_ldtr (s : State) (a : Addr) (d : Desc) :
    (s.setAccessed a d).ldtr = s.ldtr := by
  unfold State.setAccessed; split <;> simp only [State.lockedSince_ldtr, State.writeByte_ldtr]

@[simp] theorem State.setAccessed_tr (s : State) (a : Addr) (d : Desc) :
    (s.setAccessed a d).tr = s.tr := by
  unfold State.setAccessed; split <;> simp only [State.lockedSince_tr, State.writeByte_tr]

@[simp] theorem State.setAccessed_run (s : State) (a : Addr) (d : Desc) :
    (s.setAccessed a d).run = s.run := by
  unfold State.setAccessed; split <;> simp only [State.lockedSince_run, State.writeByte_run]

@[simp] theorem State.setAccessed_nmiPending (s : State) (a : Addr) (d : Desc) :
    (s.setAccessed a d).nmiPending = s.nmiPending := by
  unfold State.setAccessed; split <;> simp only [State.lockedSince_nmiPending, State.writeByte_nmiPending]

@[simp] theorem State.setAccessed_nmiInService (s : State) (a : Addr) (d : Desc) :
    (s.setAccessed a d).nmiInService = s.nmiInService := by
  unfold State.setAccessed; split <;> simp only [State.lockedSince_nmiInService, State.writeByte_nmiInService]

@[simp] theorem State.setAccessed_nmiLast (s : State) (a : Addr) (d : Desc) :
    (s.setAccessed a d).nmiLast = s.nmiLast := by
  unfold State.setAccessed; split <;> simp only [State.lockedSince_nmiLast, State.writeByte_nmiLast]

@[simp] theorem State.setAccessed_intInhibit (s : State) (a : Addr) (d : Desc) :
    (s.setAccessed a d).intInhibit = s.intInhibit := by
  unfold State.setAccessed; split <;> simp only [State.lockedSince_intInhibit, State.writeByte_intInhibit]

@[simp] theorem State.setAccessed_tfAtStart (s : State) (a : Addr) (d : Desc) :
    (s.setAccessed a d).tfAtStart = s.tfAtStart := by
  unfold State.setAccessed; split <;> simp only [State.lockedSince_tfAtStart, State.writeByte_tfAtStart]

@[simp] theorem State.setAccessed_intrHeld (s : State) (a : Addr) (d : Desc) :
    (s.setAccessed a d).intrHeld = s.intrHeld := by
  unfold State.setAccessed; split <;> simp only [State.lockedSince_intrHeld, State.writeByte_intrHeld]

@[simp] theorem State.setAccessed_boundaryStep (s : State) (a : Addr) (d : Desc) :
    (s.setAccessed a d).boundaryStep = s.boundaryStep := by
  unfold State.setAccessed; split <;> simp only [State.lockedSince_boundaryStep, State.writeByte_boundaryStep]

@[simp] theorem State.setAccessed_pxOverrun (s : State) (a : Addr) (d : Desc) :
    (s.setAccessed a d).pxOverrun = s.pxOverrun := by
  unfold State.setAccessed; split <;> simp only [State.lockedSince_pxOverrun, State.writeByte_pxOverrun]

@[simp] theorem State.setAccessed_pxOperand (s : State) (a : Addr) (d : Desc) :
    (s.setAccessed a d).pxOperand = s.pxOperand := by
  unfold State.setAccessed; split <;> simp only [State.lockedSince_pxOperand, State.writeByte_pxOperand]

@[simp] theorem State.setAccessed_pxInhibit (s : State) (a : Addr) (d : Desc) :
    (s.setAccessed a d).pxInhibit = s.pxInhibit := by
  unfold State.setAccessed; split <;> simp only [State.lockedSince_pxInhibit, State.writeByte_pxInhibit]

@[simp] theorem State.setAccessed_modeSwitch (s : State) (a : Addr) (d : Desc) :
    (s.setAccessed a d).modeSwitch = s.modeSwitch := by
  unfold State.setAccessed; split <;> simp only [State.lockedSince_modeSwitch, State.writeByte_modeSwitch]

@[simp] theorem State.setAccessed_pre (s : State) (a : Addr) (d : Desc) :
    (s.setAccessed a d).pre = s.pre := by
  unfold State.setAccessed; split <;> simp only [State.lockedSince_pre, State.writeByte_pre]

@[simp] theorem State.setAccessed_clock (s : State) (a : Addr) (d : Desc) :
    (s.setAccessed a d).clock = s.clock := by
  unfold State.setAccessed; split <;> simp only [State.lockedSince_clock, State.writeByte_clock]

@[simp] theorem State.setAccessed_flushed (s : State) (a : Addr) (d : Desc) :
    (s.setAccessed a d).flushed = s.flushed := by
  unfold State.setAccessed; split <;> simp only [State.lockedSince_flushed, State.writeByte_flushed]

@[simp] theorem State.setAccessed_pins (s : State) (a : Addr) (d : Desc) :
    (s.setAccessed a d).pins = s.pins := by
  unfold State.setAccessed; split <;> simp only [State.lockedSince_pins, State.writeByte_pins]

@[simp] theorem State.setAccessed_platform (s : State) (a : Addr) (d : Desc) :
    (s.setAccessed a d).platform = s.platform := by
  unfold State.setAccessed; split <;> simp only [State.lockedSince_platform, State.writeByte_platform]

@[simp] theorem State.setAccessed_out (s : State) (a : Addr) (d : Desc) :
    (s.setAccessed a d).out = s.out := by
  unfold State.setAccessed; split <;> simp only [State.lockedSince_out, State.writeByte_out]

@[simp] theorem State.setAccessed_draws (s : State) (a : Addr) (d : Desc) :
    (s.setAccessed a d).draws = s.draws := by
  unfold State.setAccessed; split <;> simp only [State.lockedSince_draws, State.writeByte_draws]

@[simp] theorem State.setAccessed_seg (s : State) (a : Addr) (d : Desc) (q : SReg) :
    (s.setAccessed a d).seg q = s.seg q := by cases q <;> simp [State.seg]

@[simp] theorem State.pushAllRaw_ip (s : State) (vs : List Word) :
    (s.pushAllRaw vs).ip = s.ip := by
  induction vs generalizing s with
  | nil => rfl
  | cons v vs ih => rw [State.pushAllRaw, ih, State.pushRaw_ip]

@[simp] theorem State.pushAllRaw_ipCarry (s : State) (vs : List Word) :
    (s.pushAllRaw vs).ipCarry = s.ipCarry := by
  induction vs generalizing s with
  | nil => rfl
  | cons v vs ih => rw [State.pushAllRaw, ih, State.pushRaw_ipCarry]

@[simp] theorem State.pushAllRaw_curIp (s : State) (vs : List Word) :
    (s.pushAllRaw vs).curIp = s.curIp := by
  induction vs generalizing s with
  | nil => rfl
  | cons v vs ih => rw [State.pushAllRaw, ih, State.pushRaw_curIp]

@[simp] theorem State.pushAllRaw_flags (s : State) (vs : List Word) :
    (s.pushAllRaw vs).flags = s.flags := by
  induction vs generalizing s with
  | nil => rfl
  | cons v vs ih => rw [State.pushAllRaw, ih, State.pushRaw_flags]

@[simp] theorem State.pushAllRaw_msw (s : State) (vs : List Word) :
    (s.pushAllRaw vs).msw = s.msw := by
  induction vs generalizing s with
  | nil => rfl
  | cons v vs ih => rw [State.pushAllRaw, ih, State.pushRaw_msw]

@[simp] theorem State.pushAllRaw_es (s : State) (vs : List Word) :
    (s.pushAllRaw vs).es = s.es := by
  induction vs generalizing s with
  | nil => rfl
  | cons v vs ih => rw [State.pushAllRaw, ih, State.pushRaw_es]

@[simp] theorem State.pushAllRaw_cs (s : State) (vs : List Word) :
    (s.pushAllRaw vs).cs = s.cs := by
  induction vs generalizing s with
  | nil => rfl
  | cons v vs ih => rw [State.pushAllRaw, ih, State.pushRaw_cs]

@[simp] theorem State.pushAllRaw_ss (s : State) (vs : List Word) :
    (s.pushAllRaw vs).ss = s.ss := by
  induction vs generalizing s with
  | nil => rfl
  | cons v vs ih => rw [State.pushAllRaw, ih, State.pushRaw_ss]

@[simp] theorem State.pushAllRaw_ds (s : State) (vs : List Word) :
    (s.pushAllRaw vs).ds = s.ds := by
  induction vs generalizing s with
  | nil => rfl
  | cons v vs ih => rw [State.pushAllRaw, ih, State.pushRaw_ds]

@[simp] theorem State.pushAllRaw_cpl (s : State) (vs : List Word) :
    (s.pushAllRaw vs).cpl = s.cpl := by
  induction vs generalizing s with
  | nil => rfl
  | cons v vs ih => rw [State.pushAllRaw, ih, State.pushRaw_cpl]

@[simp] theorem State.pushAllRaw_gdtr (s : State) (vs : List Word) :
    (s.pushAllRaw vs).gdtr = s.gdtr := by
  induction vs generalizing s with
  | nil => rfl
  | cons v vs ih => rw [State.pushAllRaw, ih, State.pushRaw_gdtr]

@[simp] theorem State.pushAllRaw_idtr (s : State) (vs : List Word) :
    (s.pushAllRaw vs).idtr = s.idtr := by
  induction vs generalizing s with
  | nil => rfl
  | cons v vs ih => rw [State.pushAllRaw, ih, State.pushRaw_idtr]

@[simp] theorem State.pushAllRaw_ldtr (s : State) (vs : List Word) :
    (s.pushAllRaw vs).ldtr = s.ldtr := by
  induction vs generalizing s with
  | nil => rfl
  | cons v vs ih => rw [State.pushAllRaw, ih, State.pushRaw_ldtr]

@[simp] theorem State.pushAllRaw_tr (s : State) (vs : List Word) :
    (s.pushAllRaw vs).tr = s.tr := by
  induction vs generalizing s with
  | nil => rfl
  | cons v vs ih => rw [State.pushAllRaw, ih, State.pushRaw_tr]

@[simp] theorem State.pushAllRaw_run (s : State) (vs : List Word) :
    (s.pushAllRaw vs).run = s.run := by
  induction vs generalizing s with
  | nil => rfl
  | cons v vs ih => rw [State.pushAllRaw, ih, State.pushRaw_run]

@[simp] theorem State.pushAllRaw_nmiPending (s : State) (vs : List Word) :
    (s.pushAllRaw vs).nmiPending = s.nmiPending := by
  induction vs generalizing s with
  | nil => rfl
  | cons v vs ih => rw [State.pushAllRaw, ih, State.pushRaw_nmiPending]

@[simp] theorem State.pushAllRaw_nmiInService (s : State) (vs : List Word) :
    (s.pushAllRaw vs).nmiInService = s.nmiInService := by
  induction vs generalizing s with
  | nil => rfl
  | cons v vs ih => rw [State.pushAllRaw, ih, State.pushRaw_nmiInService]

@[simp] theorem State.pushAllRaw_nmiLast (s : State) (vs : List Word) :
    (s.pushAllRaw vs).nmiLast = s.nmiLast := by
  induction vs generalizing s with
  | nil => rfl
  | cons v vs ih => rw [State.pushAllRaw, ih, State.pushRaw_nmiLast]

@[simp] theorem State.pushAllRaw_intInhibit (s : State) (vs : List Word) :
    (s.pushAllRaw vs).intInhibit = s.intInhibit := by
  induction vs generalizing s with
  | nil => rfl
  | cons v vs ih => rw [State.pushAllRaw, ih, State.pushRaw_intInhibit]

@[simp] theorem State.pushAllRaw_tfAtStart (s : State) (vs : List Word) :
    (s.pushAllRaw vs).tfAtStart = s.tfAtStart := by
  induction vs generalizing s with
  | nil => rfl
  | cons v vs ih => rw [State.pushAllRaw, ih, State.pushRaw_tfAtStart]

@[simp] theorem State.pushAllRaw_intrHeld (s : State) (vs : List Word) :
    (s.pushAllRaw vs).intrHeld = s.intrHeld := by
  induction vs generalizing s with
  | nil => rfl
  | cons v vs ih => rw [State.pushAllRaw, ih, State.pushRaw_intrHeld]

@[simp] theorem State.pushAllRaw_boundaryStep (s : State) (vs : List Word) :
    (s.pushAllRaw vs).boundaryStep = s.boundaryStep := by
  induction vs generalizing s with
  | nil => rfl
  | cons v vs ih => rw [State.pushAllRaw, ih, State.pushRaw_boundaryStep]

@[simp] theorem State.pushAllRaw_pxOverrun (s : State) (vs : List Word) :
    (s.pushAllRaw vs).pxOverrun = s.pxOverrun := by
  induction vs generalizing s with
  | nil => rfl
  | cons v vs ih => rw [State.pushAllRaw, ih, State.pushRaw_pxOverrun]

@[simp] theorem State.pushAllRaw_pxOperand (s : State) (vs : List Word) :
    (s.pushAllRaw vs).pxOperand = s.pxOperand := by
  induction vs generalizing s with
  | nil => rfl
  | cons v vs ih => rw [State.pushAllRaw, ih, State.pushRaw_pxOperand]

@[simp] theorem State.pushAllRaw_pxInhibit (s : State) (vs : List Word) :
    (s.pushAllRaw vs).pxInhibit = s.pxInhibit := by
  induction vs generalizing s with
  | nil => rfl
  | cons v vs ih => rw [State.pushAllRaw, ih, State.pushRaw_pxInhibit]

@[simp] theorem State.pushAllRaw_modeSwitch (s : State) (vs : List Word) :
    (s.pushAllRaw vs).modeSwitch = s.modeSwitch := by
  induction vs generalizing s with
  | nil => rfl
  | cons v vs ih => rw [State.pushAllRaw, ih, State.pushRaw_modeSwitch]

@[simp] theorem State.pushAllRaw_pre (s : State) (vs : List Word) :
    (s.pushAllRaw vs).pre = s.pre := by
  induction vs generalizing s with
  | nil => rfl
  | cons v vs ih => rw [State.pushAllRaw, ih, State.pushRaw_pre]

@[simp] theorem State.pushAllRaw_clock (s : State) (vs : List Word) :
    (s.pushAllRaw vs).clock = s.clock := by
  induction vs generalizing s with
  | nil => rfl
  | cons v vs ih => rw [State.pushAllRaw, ih, State.pushRaw_clock]

@[simp] theorem State.pushAllRaw_flushed (s : State) (vs : List Word) :
    (s.pushAllRaw vs).flushed = s.flushed := by
  induction vs generalizing s with
  | nil => rfl
  | cons v vs ih => rw [State.pushAllRaw, ih, State.pushRaw_flushed]

@[simp] theorem State.pushAllRaw_pins (s : State) (vs : List Word) :
    (s.pushAllRaw vs).pins = s.pins := by
  induction vs generalizing s with
  | nil => rfl
  | cons v vs ih => rw [State.pushAllRaw, ih, State.pushRaw_pins]

@[simp] theorem State.pushAllRaw_platform (s : State) (vs : List Word) :
    (s.pushAllRaw vs).platform = s.platform := by
  induction vs generalizing s with
  | nil => rfl
  | cons v vs ih => rw [State.pushAllRaw, ih, State.pushRaw_platform]

@[simp] theorem State.pushAllRaw_out (s : State) (vs : List Word) :
    (s.pushAllRaw vs).out = s.out := by
  induction vs generalizing s with
  | nil => rfl
  | cons v vs ih => rw [State.pushAllRaw, ih, State.pushRaw_out]

@[simp] theorem State.pushAllRaw_draws (s : State) (vs : List Word) :
    (s.pushAllRaw vs).draws = s.draws := by
  induction vs generalizing s with
  | nil => rfl
  | cons v vs ih => rw [State.pushAllRaw, ih, State.pushRaw_draws]

@[simp] theorem State.pushAllRaw_seg (s : State) (vs : List Word) (q : SReg) :
    (s.pushAllRaw vs).seg q = s.seg q := by cases q <;> simp [State.seg]

@[simp] theorem State.writeWords_regs (s : State) (vs : List Word) (a : Addr) :
    (s.writeWords vs a).regs = s.regs := by
  induction vs generalizing s a with
  | nil => rfl
  | cons v vs ih => simp only [State.writeWords, ih, State.writeWord_regs]

@[simp] theorem State.writeWords_ip (s : State) (vs : List Word) (a : Addr) :
    (s.writeWords vs a).ip = s.ip := by
  induction vs generalizing s a with
  | nil => rfl
  | cons v vs ih => simp only [State.writeWords, ih, State.writeWord_ip]

@[simp] theorem State.writeWords_ipCarry (s : State) (vs : List Word) (a : Addr) :
    (s.writeWords vs a).ipCarry = s.ipCarry := by
  induction vs generalizing s a with
  | nil => rfl
  | cons v vs ih => simp only [State.writeWords, ih, State.writeWord_ipCarry]

@[simp] theorem State.writeWords_curIp (s : State) (vs : List Word) (a : Addr) :
    (s.writeWords vs a).curIp = s.curIp := by
  induction vs generalizing s a with
  | nil => rfl
  | cons v vs ih => simp only [State.writeWords, ih, State.writeWord_curIp]

@[simp] theorem State.writeWords_flags (s : State) (vs : List Word) (a : Addr) :
    (s.writeWords vs a).flags = s.flags := by
  induction vs generalizing s a with
  | nil => rfl
  | cons v vs ih => simp only [State.writeWords, ih, State.writeWord_flags]

@[simp] theorem State.writeWords_msw (s : State) (vs : List Word) (a : Addr) :
    (s.writeWords vs a).msw = s.msw := by
  induction vs generalizing s a with
  | nil => rfl
  | cons v vs ih => simp only [State.writeWords, ih, State.writeWord_msw]

@[simp] theorem State.writeWords_es (s : State) (vs : List Word) (a : Addr) :
    (s.writeWords vs a).es = s.es := by
  induction vs generalizing s a with
  | nil => rfl
  | cons v vs ih => simp only [State.writeWords, ih, State.writeWord_es]

@[simp] theorem State.writeWords_cs (s : State) (vs : List Word) (a : Addr) :
    (s.writeWords vs a).cs = s.cs := by
  induction vs generalizing s a with
  | nil => rfl
  | cons v vs ih => simp only [State.writeWords, ih, State.writeWord_cs]

@[simp] theorem State.writeWords_ss (s : State) (vs : List Word) (a : Addr) :
    (s.writeWords vs a).ss = s.ss := by
  induction vs generalizing s a with
  | nil => rfl
  | cons v vs ih => simp only [State.writeWords, ih, State.writeWord_ss]

@[simp] theorem State.writeWords_ds (s : State) (vs : List Word) (a : Addr) :
    (s.writeWords vs a).ds = s.ds := by
  induction vs generalizing s a with
  | nil => rfl
  | cons v vs ih => simp only [State.writeWords, ih, State.writeWord_ds]

@[simp] theorem State.writeWords_cpl (s : State) (vs : List Word) (a : Addr) :
    (s.writeWords vs a).cpl = s.cpl := by
  induction vs generalizing s a with
  | nil => rfl
  | cons v vs ih => simp only [State.writeWords, ih, State.writeWord_cpl]

@[simp] theorem State.writeWords_gdtr (s : State) (vs : List Word) (a : Addr) :
    (s.writeWords vs a).gdtr = s.gdtr := by
  induction vs generalizing s a with
  | nil => rfl
  | cons v vs ih => simp only [State.writeWords, ih, State.writeWord_gdtr]

@[simp] theorem State.writeWords_idtr (s : State) (vs : List Word) (a : Addr) :
    (s.writeWords vs a).idtr = s.idtr := by
  induction vs generalizing s a with
  | nil => rfl
  | cons v vs ih => simp only [State.writeWords, ih, State.writeWord_idtr]

@[simp] theorem State.writeWords_ldtr (s : State) (vs : List Word) (a : Addr) :
    (s.writeWords vs a).ldtr = s.ldtr := by
  induction vs generalizing s a with
  | nil => rfl
  | cons v vs ih => simp only [State.writeWords, ih, State.writeWord_ldtr]

@[simp] theorem State.writeWords_tr (s : State) (vs : List Word) (a : Addr) :
    (s.writeWords vs a).tr = s.tr := by
  induction vs generalizing s a with
  | nil => rfl
  | cons v vs ih => simp only [State.writeWords, ih, State.writeWord_tr]

@[simp] theorem State.writeWords_run (s : State) (vs : List Word) (a : Addr) :
    (s.writeWords vs a).run = s.run := by
  induction vs generalizing s a with
  | nil => rfl
  | cons v vs ih => simp only [State.writeWords, ih, State.writeWord_run]

@[simp] theorem State.writeWords_nmiPending (s : State) (vs : List Word) (a : Addr) :
    (s.writeWords vs a).nmiPending = s.nmiPending := by
  induction vs generalizing s a with
  | nil => rfl
  | cons v vs ih => simp only [State.writeWords, ih, State.writeWord_nmiPending]

@[simp] theorem State.writeWords_nmiInService (s : State) (vs : List Word) (a : Addr) :
    (s.writeWords vs a).nmiInService = s.nmiInService := by
  induction vs generalizing s a with
  | nil => rfl
  | cons v vs ih => simp only [State.writeWords, ih, State.writeWord_nmiInService]

@[simp] theorem State.writeWords_nmiLast (s : State) (vs : List Word) (a : Addr) :
    (s.writeWords vs a).nmiLast = s.nmiLast := by
  induction vs generalizing s a with
  | nil => rfl
  | cons v vs ih => simp only [State.writeWords, ih, State.writeWord_nmiLast]

@[simp] theorem State.writeWords_intInhibit (s : State) (vs : List Word) (a : Addr) :
    (s.writeWords vs a).intInhibit = s.intInhibit := by
  induction vs generalizing s a with
  | nil => rfl
  | cons v vs ih => simp only [State.writeWords, ih, State.writeWord_intInhibit]

@[simp] theorem State.writeWords_tfAtStart (s : State) (vs : List Word) (a : Addr) :
    (s.writeWords vs a).tfAtStart = s.tfAtStart := by
  induction vs generalizing s a with
  | nil => rfl
  | cons v vs ih => simp only [State.writeWords, ih, State.writeWord_tfAtStart]

@[simp] theorem State.writeWords_intrHeld (s : State) (vs : List Word) (a : Addr) :
    (s.writeWords vs a).intrHeld = s.intrHeld := by
  induction vs generalizing s a with
  | nil => rfl
  | cons v vs ih => simp only [State.writeWords, ih, State.writeWord_intrHeld]

@[simp] theorem State.writeWords_boundaryStep (s : State) (vs : List Word) (a : Addr) :
    (s.writeWords vs a).boundaryStep = s.boundaryStep := by
  induction vs generalizing s a with
  | nil => rfl
  | cons v vs ih => simp only [State.writeWords, ih, State.writeWord_boundaryStep]

@[simp] theorem State.writeWords_pxOverrun (s : State) (vs : List Word) (a : Addr) :
    (s.writeWords vs a).pxOverrun = s.pxOverrun := by
  induction vs generalizing s a with
  | nil => rfl
  | cons v vs ih => simp only [State.writeWords, ih, State.writeWord_pxOverrun]

@[simp] theorem State.writeWords_pxOperand (s : State) (vs : List Word) (a : Addr) :
    (s.writeWords vs a).pxOperand = s.pxOperand := by
  induction vs generalizing s a with
  | nil => rfl
  | cons v vs ih => simp only [State.writeWords, ih, State.writeWord_pxOperand]

@[simp] theorem State.writeWords_pxInhibit (s : State) (vs : List Word) (a : Addr) :
    (s.writeWords vs a).pxInhibit = s.pxInhibit := by
  induction vs generalizing s a with
  | nil => rfl
  | cons v vs ih => simp only [State.writeWords, ih, State.writeWord_pxInhibit]

@[simp] theorem State.writeWords_modeSwitch (s : State) (vs : List Word) (a : Addr) :
    (s.writeWords vs a).modeSwitch = s.modeSwitch := by
  induction vs generalizing s a with
  | nil => rfl
  | cons v vs ih => simp only [State.writeWords, ih, State.writeWord_modeSwitch]

@[simp] theorem State.writeWords_pre (s : State) (vs : List Word) (a : Addr) :
    (s.writeWords vs a).pre = s.pre := by
  induction vs generalizing s a with
  | nil => rfl
  | cons v vs ih => simp only [State.writeWords, ih, State.writeWord_pre]

@[simp] theorem State.writeWords_clock (s : State) (vs : List Word) (a : Addr) :
    (s.writeWords vs a).clock = s.clock := by
  induction vs generalizing s a with
  | nil => rfl
  | cons v vs ih => simp only [State.writeWords, ih, State.writeWord_clock]

@[simp] theorem State.writeWords_flushed (s : State) (vs : List Word) (a : Addr) :
    (s.writeWords vs a).flushed = s.flushed := by
  induction vs generalizing s a with
  | nil => rfl
  | cons v vs ih => simp only [State.writeWords, ih, State.writeWord_flushed]

@[simp] theorem State.writeWords_pins (s : State) (vs : List Word) (a : Addr) :
    (s.writeWords vs a).pins = s.pins := by
  induction vs generalizing s a with
  | nil => rfl
  | cons v vs ih => simp only [State.writeWords, ih, State.writeWord_pins]

@[simp] theorem State.writeWords_platform (s : State) (vs : List Word) (a : Addr) :
    (s.writeWords vs a).platform = s.platform := by
  induction vs generalizing s a with
  | nil => rfl
  | cons v vs ih => simp only [State.writeWords, ih, State.writeWord_platform]

@[simp] theorem State.writeWords_out (s : State) (vs : List Word) (a : Addr) :
    (s.writeWords vs a).out = s.out := by
  induction vs generalizing s a with
  | nil => rfl
  | cons v vs ih => simp only [State.writeWords, ih, State.writeWord_out]

@[simp] theorem State.writeWords_draws (s : State) (vs : List Word) (a : Addr) :
    (s.writeWords vs a).draws = s.draws := by
  induction vs generalizing s a with
  | nil => rfl
  | cons v vs ih => simp only [State.writeWords, ih, State.writeWord_draws]

@[simp] theorem State.writeWords_seg (s : State) (vs : List Word) (a : Addr) (q : SReg) :
    (s.writeWords vs a).seg q = s.seg q := by cases q <;> simp [State.seg]

@[simp] theorem State.putStack_regs (s : State) (sel : Word) (d : Addr × Desc) :
    (s.putStack sel d).regs = s.regs := by
  simp only [State.putStack, State.setAccessed_regs]

@[simp] theorem State.putStack_ip (s : State) (sel : Word) (d : Addr × Desc) :
    (s.putStack sel d).ip = s.ip := by
  simp only [State.putStack, State.setAccessed_ip]

@[simp] theorem State.putStack_ipCarry (s : State) (sel : Word) (d : Addr × Desc) :
    (s.putStack sel d).ipCarry = s.ipCarry := by
  simp only [State.putStack, State.setAccessed_ipCarry]

@[simp] theorem State.putStack_curIp (s : State) (sel : Word) (d : Addr × Desc) :
    (s.putStack sel d).curIp = s.curIp := by
  simp only [State.putStack, State.setAccessed_curIp]

@[simp] theorem State.putStack_flags (s : State) (sel : Word) (d : Addr × Desc) :
    (s.putStack sel d).flags = s.flags := by
  simp only [State.putStack, State.setAccessed_flags]

@[simp] theorem State.putStack_msw (s : State) (sel : Word) (d : Addr × Desc) :
    (s.putStack sel d).msw = s.msw := by
  simp only [State.putStack, State.setAccessed_msw]

@[simp] theorem State.putStack_es (s : State) (sel : Word) (d : Addr × Desc) :
    (s.putStack sel d).es = s.es := by
  simp only [State.putStack, State.setAccessed_es]

@[simp] theorem State.putStack_cs (s : State) (sel : Word) (d : Addr × Desc) :
    (s.putStack sel d).cs = s.cs := by
  simp only [State.putStack, State.setAccessed_cs]

@[simp] theorem State.putStack_ds (s : State) (sel : Word) (d : Addr × Desc) :
    (s.putStack sel d).ds = s.ds := by
  simp only [State.putStack, State.setAccessed_ds]

@[simp] theorem State.putStack_cpl (s : State) (sel : Word) (d : Addr × Desc) :
    (s.putStack sel d).cpl = s.cpl := by
  simp only [State.putStack, State.setAccessed_cpl]

@[simp] theorem State.putStack_gdtr (s : State) (sel : Word) (d : Addr × Desc) :
    (s.putStack sel d).gdtr = s.gdtr := by
  simp only [State.putStack, State.setAccessed_gdtr]

@[simp] theorem State.putStack_idtr (s : State) (sel : Word) (d : Addr × Desc) :
    (s.putStack sel d).idtr = s.idtr := by
  simp only [State.putStack, State.setAccessed_idtr]

@[simp] theorem State.putStack_ldtr (s : State) (sel : Word) (d : Addr × Desc) :
    (s.putStack sel d).ldtr = s.ldtr := by
  simp only [State.putStack, State.setAccessed_ldtr]

@[simp] theorem State.putStack_tr (s : State) (sel : Word) (d : Addr × Desc) :
    (s.putStack sel d).tr = s.tr := by
  simp only [State.putStack, State.setAccessed_tr]

@[simp] theorem State.putStack_run (s : State) (sel : Word) (d : Addr × Desc) :
    (s.putStack sel d).run = s.run := by
  simp only [State.putStack, State.setAccessed_run]

@[simp] theorem State.putStack_nmiPending (s : State) (sel : Word) (d : Addr × Desc) :
    (s.putStack sel d).nmiPending = s.nmiPending := by
  simp only [State.putStack, State.setAccessed_nmiPending]

@[simp] theorem State.putStack_nmiInService (s : State) (sel : Word) (d : Addr × Desc) :
    (s.putStack sel d).nmiInService = s.nmiInService := by
  simp only [State.putStack, State.setAccessed_nmiInService]

@[simp] theorem State.putStack_nmiLast (s : State) (sel : Word) (d : Addr × Desc) :
    (s.putStack sel d).nmiLast = s.nmiLast := by
  simp only [State.putStack, State.setAccessed_nmiLast]

@[simp] theorem State.putStack_intInhibit (s : State) (sel : Word) (d : Addr × Desc) :
    (s.putStack sel d).intInhibit = s.intInhibit := by
  simp only [State.putStack, State.setAccessed_intInhibit]

@[simp] theorem State.putStack_tfAtStart (s : State) (sel : Word) (d : Addr × Desc) :
    (s.putStack sel d).tfAtStart = s.tfAtStart := by
  simp only [State.putStack, State.setAccessed_tfAtStart]

@[simp] theorem State.putStack_intrHeld (s : State) (sel : Word) (d : Addr × Desc) :
    (s.putStack sel d).intrHeld = s.intrHeld := by
  simp only [State.putStack, State.setAccessed_intrHeld]

@[simp] theorem State.putStack_boundaryStep (s : State) (sel : Word) (d : Addr × Desc) :
    (s.putStack sel d).boundaryStep = s.boundaryStep := by
  simp only [State.putStack, State.setAccessed_boundaryStep]

@[simp] theorem State.putStack_pxOverrun (s : State) (sel : Word) (d : Addr × Desc) :
    (s.putStack sel d).pxOverrun = s.pxOverrun := by
  simp only [State.putStack, State.setAccessed_pxOverrun]

@[simp] theorem State.putStack_pxOperand (s : State) (sel : Word) (d : Addr × Desc) :
    (s.putStack sel d).pxOperand = s.pxOperand := by
  simp only [State.putStack, State.setAccessed_pxOperand]

@[simp] theorem State.putStack_pxInhibit (s : State) (sel : Word) (d : Addr × Desc) :
    (s.putStack sel d).pxInhibit = s.pxInhibit := by
  simp only [State.putStack, State.setAccessed_pxInhibit]

@[simp] theorem State.putStack_modeSwitch (s : State) (sel : Word) (d : Addr × Desc) :
    (s.putStack sel d).modeSwitch = s.modeSwitch := by
  simp only [State.putStack, State.setAccessed_modeSwitch]

@[simp] theorem State.putStack_pre (s : State) (sel : Word) (d : Addr × Desc) :
    (s.putStack sel d).pre = s.pre := by
  simp only [State.putStack, State.setAccessed_pre]

@[simp] theorem State.putStack_clock (s : State) (sel : Word) (d : Addr × Desc) :
    (s.putStack sel d).clock = s.clock := by
  simp only [State.putStack, State.setAccessed_clock]

@[simp] theorem State.putStack_flushed (s : State) (sel : Word) (d : Addr × Desc) :
    (s.putStack sel d).flushed = s.flushed := by
  simp only [State.putStack, State.setAccessed_flushed]

@[simp] theorem State.putStack_pins (s : State) (sel : Word) (d : Addr × Desc) :
    (s.putStack sel d).pins = s.pins := by
  simp only [State.putStack, State.setAccessed_pins]

@[simp] theorem State.putStack_platform (s : State) (sel : Word) (d : Addr × Desc) :
    (s.putStack sel d).platform = s.platform := by
  simp only [State.putStack, State.setAccessed_platform]

@[simp] theorem State.putStack_out (s : State) (sel : Word) (d : Addr × Desc) :
    (s.putStack sel d).out = s.out := by
  simp only [State.putStack, State.setAccessed_out]

@[simp] theorem State.putStack_draws (s : State) (sel : Word) (d : Addr × Desc) :
    (s.putStack sel d).draws = s.draws := by
  simp only [State.putStack, State.setAccessed_draws]

@[simp] theorem State.loadCs_regs (s : State) (sel : Word) (d : Addr × Desc) :
    (s.loadCs sel d).regs = s.regs := by
  simp only [State.loadCs, State.setAccessed_regs]

@[simp] theorem State.loadCs_ip (s : State) (sel : Word) (d : Addr × Desc) :
    (s.loadCs sel d).ip = s.ip := by
  simp only [State.loadCs, State.setAccessed_ip]

@[simp] theorem State.loadCs_ipCarry (s : State) (sel : Word) (d : Addr × Desc) :
    (s.loadCs sel d).ipCarry = s.ipCarry := by
  simp only [State.loadCs, State.setAccessed_ipCarry]

@[simp] theorem State.loadCs_curIp (s : State) (sel : Word) (d : Addr × Desc) :
    (s.loadCs sel d).curIp = s.curIp := by
  simp only [State.loadCs, State.setAccessed_curIp]

@[simp] theorem State.loadCs_flags (s : State) (sel : Word) (d : Addr × Desc) :
    (s.loadCs sel d).flags = s.flags := by
  simp only [State.loadCs, State.setAccessed_flags]

@[simp] theorem State.loadCs_msw (s : State) (sel : Word) (d : Addr × Desc) :
    (s.loadCs sel d).msw = s.msw := by
  simp only [State.loadCs, State.setAccessed_msw]

@[simp] theorem State.loadCs_es (s : State) (sel : Word) (d : Addr × Desc) :
    (s.loadCs sel d).es = s.es := by
  simp only [State.loadCs, State.setAccessed_es]

@[simp] theorem State.loadCs_ss (s : State) (sel : Word) (d : Addr × Desc) :
    (s.loadCs sel d).ss = s.ss := by
  simp only [State.loadCs, State.setAccessed_ss]

@[simp] theorem State.loadCs_ds (s : State) (sel : Word) (d : Addr × Desc) :
    (s.loadCs sel d).ds = s.ds := by
  simp only [State.loadCs, State.setAccessed_ds]

@[simp] theorem State.loadCs_gdtr (s : State) (sel : Word) (d : Addr × Desc) :
    (s.loadCs sel d).gdtr = s.gdtr := by
  simp only [State.loadCs, State.setAccessed_gdtr]

@[simp] theorem State.loadCs_idtr (s : State) (sel : Word) (d : Addr × Desc) :
    (s.loadCs sel d).idtr = s.idtr := by
  simp only [State.loadCs, State.setAccessed_idtr]

@[simp] theorem State.loadCs_ldtr (s : State) (sel : Word) (d : Addr × Desc) :
    (s.loadCs sel d).ldtr = s.ldtr := by
  simp only [State.loadCs, State.setAccessed_ldtr]

@[simp] theorem State.loadCs_tr (s : State) (sel : Word) (d : Addr × Desc) :
    (s.loadCs sel d).tr = s.tr := by
  simp only [State.loadCs, State.setAccessed_tr]

@[simp] theorem State.loadCs_run (s : State) (sel : Word) (d : Addr × Desc) :
    (s.loadCs sel d).run = s.run := by
  simp only [State.loadCs, State.setAccessed_run]

@[simp] theorem State.loadCs_nmiPending (s : State) (sel : Word) (d : Addr × Desc) :
    (s.loadCs sel d).nmiPending = s.nmiPending := by
  simp only [State.loadCs, State.setAccessed_nmiPending]

@[simp] theorem State.loadCs_nmiInService (s : State) (sel : Word) (d : Addr × Desc) :
    (s.loadCs sel d).nmiInService = s.nmiInService := by
  simp only [State.loadCs, State.setAccessed_nmiInService]

@[simp] theorem State.loadCs_nmiLast (s : State) (sel : Word) (d : Addr × Desc) :
    (s.loadCs sel d).nmiLast = s.nmiLast := by
  simp only [State.loadCs, State.setAccessed_nmiLast]

@[simp] theorem State.loadCs_intInhibit (s : State) (sel : Word) (d : Addr × Desc) :
    (s.loadCs sel d).intInhibit = s.intInhibit := by
  simp only [State.loadCs, State.setAccessed_intInhibit]

@[simp] theorem State.loadCs_tfAtStart (s : State) (sel : Word) (d : Addr × Desc) :
    (s.loadCs sel d).tfAtStart = s.tfAtStart := by
  simp only [State.loadCs, State.setAccessed_tfAtStart]

@[simp] theorem State.loadCs_intrHeld (s : State) (sel : Word) (d : Addr × Desc) :
    (s.loadCs sel d).intrHeld = s.intrHeld := by
  simp only [State.loadCs, State.setAccessed_intrHeld]

@[simp] theorem State.loadCs_boundaryStep (s : State) (sel : Word) (d : Addr × Desc) :
    (s.loadCs sel d).boundaryStep = s.boundaryStep := by
  simp only [State.loadCs, State.setAccessed_boundaryStep]

@[simp] theorem State.loadCs_pxOverrun (s : State) (sel : Word) (d : Addr × Desc) :
    (s.loadCs sel d).pxOverrun = s.pxOverrun := by
  simp only [State.loadCs, State.setAccessed_pxOverrun]

@[simp] theorem State.loadCs_pxOperand (s : State) (sel : Word) (d : Addr × Desc) :
    (s.loadCs sel d).pxOperand = s.pxOperand := by
  simp only [State.loadCs, State.setAccessed_pxOperand]

@[simp] theorem State.loadCs_pxInhibit (s : State) (sel : Word) (d : Addr × Desc) :
    (s.loadCs sel d).pxInhibit = s.pxInhibit := by
  simp only [State.loadCs, State.setAccessed_pxInhibit]

@[simp] theorem State.loadCs_modeSwitch (s : State) (sel : Word) (d : Addr × Desc) :
    (s.loadCs sel d).modeSwitch = s.modeSwitch := by
  simp only [State.loadCs, State.setAccessed_modeSwitch]

@[simp] theorem State.loadCs_pre (s : State) (sel : Word) (d : Addr × Desc) :
    (s.loadCs sel d).pre = s.pre := by
  simp only [State.loadCs, State.setAccessed_pre]

@[simp] theorem State.loadCs_clock (s : State) (sel : Word) (d : Addr × Desc) :
    (s.loadCs sel d).clock = s.clock := by
  simp only [State.loadCs, State.setAccessed_clock]

@[simp] theorem State.loadCs_flushed (s : State) (sel : Word) (d : Addr × Desc) :
    (s.loadCs sel d).flushed = s.flushed := by
  simp only [State.loadCs, State.setAccessed_flushed]

@[simp] theorem State.loadCs_pins (s : State) (sel : Word) (d : Addr × Desc) :
    (s.loadCs sel d).pins = s.pins := by
  simp only [State.loadCs, State.setAccessed_pins]

@[simp] theorem State.loadCs_platform (s : State) (sel : Word) (d : Addr × Desc) :
    (s.loadCs sel d).platform = s.platform := by
  simp only [State.loadCs, State.setAccessed_platform]

@[simp] theorem State.loadCs_out (s : State) (sel : Word) (d : Addr × Desc) :
    (s.loadCs sel d).out = s.out := by
  simp only [State.loadCs, State.setAccessed_out]

@[simp] theorem State.loadCs_draws (s : State) (sel : Word) (d : Addr × Desc) :
    (s.loadCs sel d).draws = s.draws := by
  simp only [State.loadCs, State.setAccessed_draws]

@[simp] theorem State.switchStack_ip (s : State) (k : Word × Word × Addr × Desc) :
    (s.switchStack k).ip = s.ip := by
  simp only [State.switchStack, State.setSp_ip, State.putStack_ip]

@[simp] theorem State.switchStack_ipCarry (s : State) (k : Word × Word × Addr × Desc) :
    (s.switchStack k).ipCarry = s.ipCarry := by
  simp only [State.switchStack, State.setSp_ipCarry, State.putStack_ipCarry]

@[simp] theorem State.switchStack_curIp (s : State) (k : Word × Word × Addr × Desc) :
    (s.switchStack k).curIp = s.curIp := by
  simp only [State.switchStack, State.setSp_curIp, State.putStack_curIp]

@[simp] theorem State.switchStack_flags (s : State) (k : Word × Word × Addr × Desc) :
    (s.switchStack k).flags = s.flags := by
  simp only [State.switchStack, State.setSp_flags, State.putStack_flags]

@[simp] theorem State.switchStack_msw (s : State) (k : Word × Word × Addr × Desc) :
    (s.switchStack k).msw = s.msw := by
  simp only [State.switchStack, State.setSp_msw, State.putStack_msw]

@[simp] theorem State.switchStack_es (s : State) (k : Word × Word × Addr × Desc) :
    (s.switchStack k).es = s.es := by
  simp only [State.switchStack, State.setSp_es, State.putStack_es]

@[simp] theorem State.switchStack_cs (s : State) (k : Word × Word × Addr × Desc) :
    (s.switchStack k).cs = s.cs := by
  simp only [State.switchStack, State.setSp_cs, State.putStack_cs]

@[simp] theorem State.switchStack_ds (s : State) (k : Word × Word × Addr × Desc) :
    (s.switchStack k).ds = s.ds := by
  simp only [State.switchStack, State.setSp_ds, State.putStack_ds]

@[simp] theorem State.switchStack_cpl (s : State) (k : Word × Word × Addr × Desc) :
    (s.switchStack k).cpl = s.cpl := by
  simp only [State.switchStack, State.setSp_cpl, State.putStack_cpl]

@[simp] theorem State.switchStack_gdtr (s : State) (k : Word × Word × Addr × Desc) :
    (s.switchStack k).gdtr = s.gdtr := by
  simp only [State.switchStack, State.setSp_gdtr, State.putStack_gdtr]

@[simp] theorem State.switchStack_idtr (s : State) (k : Word × Word × Addr × Desc) :
    (s.switchStack k).idtr = s.idtr := by
  simp only [State.switchStack, State.setSp_idtr, State.putStack_idtr]

@[simp] theorem State.switchStack_ldtr (s : State) (k : Word × Word × Addr × Desc) :
    (s.switchStack k).ldtr = s.ldtr := by
  simp only [State.switchStack, State.setSp_ldtr, State.putStack_ldtr]

@[simp] theorem State.switchStack_tr (s : State) (k : Word × Word × Addr × Desc) :
    (s.switchStack k).tr = s.tr := by
  simp only [State.switchStack, State.setSp_tr, State.putStack_tr]

@[simp] theorem State.switchStack_run (s : State) (k : Word × Word × Addr × Desc) :
    (s.switchStack k).run = s.run := by
  simp only [State.switchStack, State.setSp_run, State.putStack_run]

@[simp] theorem State.switchStack_nmiPending (s : State) (k : Word × Word × Addr × Desc) :
    (s.switchStack k).nmiPending = s.nmiPending := by
  simp only [State.switchStack, State.setSp_nmiPending, State.putStack_nmiPending]

@[simp] theorem State.switchStack_nmiInService (s : State) (k : Word × Word × Addr × Desc) :
    (s.switchStack k).nmiInService = s.nmiInService := by
  simp only [State.switchStack, State.setSp_nmiInService, State.putStack_nmiInService]

@[simp] theorem State.switchStack_nmiLast (s : State) (k : Word × Word × Addr × Desc) :
    (s.switchStack k).nmiLast = s.nmiLast := by
  simp only [State.switchStack, State.setSp_nmiLast, State.putStack_nmiLast]

@[simp] theorem State.switchStack_intInhibit (s : State) (k : Word × Word × Addr × Desc) :
    (s.switchStack k).intInhibit = s.intInhibit := by
  simp only [State.switchStack, State.setSp_intInhibit, State.putStack_intInhibit]

@[simp] theorem State.switchStack_tfAtStart (s : State) (k : Word × Word × Addr × Desc) :
    (s.switchStack k).tfAtStart = s.tfAtStart := by
  simp only [State.switchStack, State.setSp_tfAtStart, State.putStack_tfAtStart]

@[simp] theorem State.switchStack_intrHeld (s : State) (k : Word × Word × Addr × Desc) :
    (s.switchStack k).intrHeld = s.intrHeld := by
  simp only [State.switchStack, State.setSp_intrHeld, State.putStack_intrHeld]

@[simp] theorem State.switchStack_boundaryStep (s : State) (k : Word × Word × Addr × Desc) :
    (s.switchStack k).boundaryStep = s.boundaryStep := by
  simp only [State.switchStack, State.setSp_boundaryStep, State.putStack_boundaryStep]

@[simp] theorem State.switchStack_pxOverrun (s : State) (k : Word × Word × Addr × Desc) :
    (s.switchStack k).pxOverrun = s.pxOverrun := by
  simp only [State.switchStack, State.setSp_pxOverrun, State.putStack_pxOverrun]

@[simp] theorem State.switchStack_pxOperand (s : State) (k : Word × Word × Addr × Desc) :
    (s.switchStack k).pxOperand = s.pxOperand := by
  simp only [State.switchStack, State.setSp_pxOperand, State.putStack_pxOperand]

@[simp] theorem State.switchStack_pxInhibit (s : State) (k : Word × Word × Addr × Desc) :
    (s.switchStack k).pxInhibit = s.pxInhibit := by
  simp only [State.switchStack, State.setSp_pxInhibit, State.putStack_pxInhibit]

@[simp] theorem State.switchStack_modeSwitch (s : State) (k : Word × Word × Addr × Desc) :
    (s.switchStack k).modeSwitch = s.modeSwitch := by
  simp only [State.switchStack, State.setSp_modeSwitch, State.putStack_modeSwitch]

@[simp] theorem State.switchStack_pre (s : State) (k : Word × Word × Addr × Desc) :
    (s.switchStack k).pre = s.pre := by
  simp only [State.switchStack, State.setSp_pre, State.putStack_pre]

@[simp] theorem State.switchStack_clock (s : State) (k : Word × Word × Addr × Desc) :
    (s.switchStack k).clock = s.clock := by
  simp only [State.switchStack, State.setSp_clock, State.putStack_clock]

@[simp] theorem State.switchStack_flushed (s : State) (k : Word × Word × Addr × Desc) :
    (s.switchStack k).flushed = s.flushed := by
  simp only [State.switchStack, State.setSp_flushed, State.putStack_flushed]

@[simp] theorem State.switchStack_pins (s : State) (k : Word × Word × Addr × Desc) :
    (s.switchStack k).pins = s.pins := by
  simp only [State.switchStack, State.setSp_pins, State.putStack_pins]

@[simp] theorem State.switchStack_platform (s : State) (k : Word × Word × Addr × Desc) :
    (s.switchStack k).platform = s.platform := by
  simp only [State.switchStack, State.setSp_platform, State.putStack_platform]

@[simp] theorem State.switchStack_out (s : State) (k : Word × Word × Addr × Desc) :
    (s.switchStack k).out = s.out := by
  simp only [State.switchStack, State.setSp_out, State.putStack_out]

@[simp] theorem State.switchStack_draws (s : State) (k : Word × Word × Addr × Desc) :
    (s.switchStack k).draws = s.draws := by
  simp only [State.switchStack, State.setSp_draws, State.putStack_draws]

@[simp] theorem State.saveTask_regs (s : State) (k : SwitchKind) (ip : Word) :
    (s.saveTask k ip).regs = s.regs := by
  simp only [State.saveTask, State.writeWords_regs]

@[simp] theorem State.saveTask_ip (s : State) (k : SwitchKind) (ip : Word) :
    (s.saveTask k ip).ip = s.ip := by
  simp only [State.saveTask, State.writeWords_ip]

@[simp] theorem State.saveTask_ipCarry (s : State) (k : SwitchKind) (ip : Word) :
    (s.saveTask k ip).ipCarry = s.ipCarry := by
  simp only [State.saveTask, State.writeWords_ipCarry]

@[simp] theorem State.saveTask_curIp (s : State) (k : SwitchKind) (ip : Word) :
    (s.saveTask k ip).curIp = s.curIp := by
  simp only [State.saveTask, State.writeWords_curIp]

@[simp] theorem State.saveTask_flags (s : State) (k : SwitchKind) (ip : Word) :
    (s.saveTask k ip).flags = s.flags := by
  simp only [State.saveTask, State.writeWords_flags]

@[simp] theorem State.saveTask_msw (s : State) (k : SwitchKind) (ip : Word) :
    (s.saveTask k ip).msw = s.msw := by
  simp only [State.saveTask, State.writeWords_msw]

@[simp] theorem State.saveTask_es (s : State) (k : SwitchKind) (ip : Word) :
    (s.saveTask k ip).es = s.es := by
  simp only [State.saveTask, State.writeWords_es]

@[simp] theorem State.saveTask_cs (s : State) (k : SwitchKind) (ip : Word) :
    (s.saveTask k ip).cs = s.cs := by
  simp only [State.saveTask, State.writeWords_cs]

@[simp] theorem State.saveTask_ss (s : State) (k : SwitchKind) (ip : Word) :
    (s.saveTask k ip).ss = s.ss := by
  simp only [State.saveTask, State.writeWords_ss]

@[simp] theorem State.saveTask_ds (s : State) (k : SwitchKind) (ip : Word) :
    (s.saveTask k ip).ds = s.ds := by
  simp only [State.saveTask, State.writeWords_ds]

@[simp] theorem State.saveTask_cpl (s : State) (k : SwitchKind) (ip : Word) :
    (s.saveTask k ip).cpl = s.cpl := by
  simp only [State.saveTask, State.writeWords_cpl]

@[simp] theorem State.saveTask_gdtr (s : State) (k : SwitchKind) (ip : Word) :
    (s.saveTask k ip).gdtr = s.gdtr := by
  simp only [State.saveTask, State.writeWords_gdtr]

@[simp] theorem State.saveTask_idtr (s : State) (k : SwitchKind) (ip : Word) :
    (s.saveTask k ip).idtr = s.idtr := by
  simp only [State.saveTask, State.writeWords_idtr]

@[simp] theorem State.saveTask_ldtr (s : State) (k : SwitchKind) (ip : Word) :
    (s.saveTask k ip).ldtr = s.ldtr := by
  simp only [State.saveTask, State.writeWords_ldtr]

@[simp] theorem State.saveTask_tr (s : State) (k : SwitchKind) (ip : Word) :
    (s.saveTask k ip).tr = s.tr := by
  simp only [State.saveTask, State.writeWords_tr]

@[simp] theorem State.saveTask_run (s : State) (k : SwitchKind) (ip : Word) :
    (s.saveTask k ip).run = s.run := by
  simp only [State.saveTask, State.writeWords_run]

@[simp] theorem State.saveTask_nmiPending (s : State) (k : SwitchKind) (ip : Word) :
    (s.saveTask k ip).nmiPending = s.nmiPending := by
  simp only [State.saveTask, State.writeWords_nmiPending]

@[simp] theorem State.saveTask_nmiInService (s : State) (k : SwitchKind) (ip : Word) :
    (s.saveTask k ip).nmiInService = s.nmiInService := by
  simp only [State.saveTask, State.writeWords_nmiInService]

@[simp] theorem State.saveTask_nmiLast (s : State) (k : SwitchKind) (ip : Word) :
    (s.saveTask k ip).nmiLast = s.nmiLast := by
  simp only [State.saveTask, State.writeWords_nmiLast]

@[simp] theorem State.saveTask_intInhibit (s : State) (k : SwitchKind) (ip : Word) :
    (s.saveTask k ip).intInhibit = s.intInhibit := by
  simp only [State.saveTask, State.writeWords_intInhibit]

@[simp] theorem State.saveTask_tfAtStart (s : State) (k : SwitchKind) (ip : Word) :
    (s.saveTask k ip).tfAtStart = s.tfAtStart := by
  simp only [State.saveTask, State.writeWords_tfAtStart]

@[simp] theorem State.saveTask_intrHeld (s : State) (k : SwitchKind) (ip : Word) :
    (s.saveTask k ip).intrHeld = s.intrHeld := by
  simp only [State.saveTask, State.writeWords_intrHeld]

@[simp] theorem State.saveTask_boundaryStep (s : State) (k : SwitchKind) (ip : Word) :
    (s.saveTask k ip).boundaryStep = s.boundaryStep := by
  simp only [State.saveTask, State.writeWords_boundaryStep]

@[simp] theorem State.saveTask_pxOverrun (s : State) (k : SwitchKind) (ip : Word) :
    (s.saveTask k ip).pxOverrun = s.pxOverrun := by
  simp only [State.saveTask, State.writeWords_pxOverrun]

@[simp] theorem State.saveTask_pxOperand (s : State) (k : SwitchKind) (ip : Word) :
    (s.saveTask k ip).pxOperand = s.pxOperand := by
  simp only [State.saveTask, State.writeWords_pxOperand]

@[simp] theorem State.saveTask_pxInhibit (s : State) (k : SwitchKind) (ip : Word) :
    (s.saveTask k ip).pxInhibit = s.pxInhibit := by
  simp only [State.saveTask, State.writeWords_pxInhibit]

@[simp] theorem State.saveTask_modeSwitch (s : State) (k : SwitchKind) (ip : Word) :
    (s.saveTask k ip).modeSwitch = s.modeSwitch := by
  simp only [State.saveTask, State.writeWords_modeSwitch]

@[simp] theorem State.saveTask_pre (s : State) (k : SwitchKind) (ip : Word) :
    (s.saveTask k ip).pre = s.pre := by
  simp only [State.saveTask, State.writeWords_pre]

@[simp] theorem State.saveTask_clock (s : State) (k : SwitchKind) (ip : Word) :
    (s.saveTask k ip).clock = s.clock := by
  simp only [State.saveTask, State.writeWords_clock]

@[simp] theorem State.saveTask_flushed (s : State) (k : SwitchKind) (ip : Word) :
    (s.saveTask k ip).flushed = s.flushed := by
  simp only [State.saveTask, State.writeWords_flushed]

@[simp] theorem State.saveTask_pins (s : State) (k : SwitchKind) (ip : Word) :
    (s.saveTask k ip).pins = s.pins := by
  simp only [State.saveTask, State.writeWords_pins]

@[simp] theorem State.saveTask_platform (s : State) (k : SwitchKind) (ip : Word) :
    (s.saveTask k ip).platform = s.platform := by
  simp only [State.saveTask, State.writeWords_platform]

@[simp] theorem State.saveTask_out (s : State) (k : SwitchKind) (ip : Word) :
    (s.saveTask k ip).out = s.out := by
  simp only [State.saveTask, State.writeWords_out]

@[simp] theorem State.saveTask_draws (s : State) (k : SwitchKind) (ip : Word) :
    (s.saveTask k ip).draws = s.draws := by
  simp only [State.saveTask, State.writeWords_draws]

@[simp] theorem State.saveTask_seg (s : State) (k : SwitchKind) (ip : Word) (q : SReg) :
    (s.saveTask k ip).seg q = s.seg q := by cases q <;> simp [State.seg]

@[simp] theorem State.clearBusy_regs (s : State) (k : SwitchKind) :
    (s.clearBusy k).regs = s.regs := by
  unfold State.clearBusy; split <;> simp only [State.lockedSince_regs, State.writeByte_regs]

@[simp] theorem State.clearBusy_ip (s : State) (k : SwitchKind) :
    (s.clearBusy k).ip = s.ip := by
  unfold State.clearBusy; split <;> simp only [State.lockedSince_ip, State.writeByte_ip]

@[simp] theorem State.clearBusy_ipCarry (s : State) (k : SwitchKind) :
    (s.clearBusy k).ipCarry = s.ipCarry := by
  unfold State.clearBusy; split <;> simp only [State.lockedSince_ipCarry, State.writeByte_ipCarry]

@[simp] theorem State.clearBusy_curIp (s : State) (k : SwitchKind) :
    (s.clearBusy k).curIp = s.curIp := by
  unfold State.clearBusy; split <;> simp only [State.lockedSince_curIp, State.writeByte_curIp]

@[simp] theorem State.clearBusy_flags (s : State) (k : SwitchKind) :
    (s.clearBusy k).flags = s.flags := by
  unfold State.clearBusy; split <;> simp only [State.lockedSince_flags, State.writeByte_flags]

@[simp] theorem State.clearBusy_msw (s : State) (k : SwitchKind) :
    (s.clearBusy k).msw = s.msw := by
  unfold State.clearBusy; split <;> simp only [State.lockedSince_msw, State.writeByte_msw]

@[simp] theorem State.clearBusy_es (s : State) (k : SwitchKind) :
    (s.clearBusy k).es = s.es := by
  unfold State.clearBusy; split <;> simp only [State.lockedSince_es, State.writeByte_es]

@[simp] theorem State.clearBusy_cs (s : State) (k : SwitchKind) :
    (s.clearBusy k).cs = s.cs := by
  unfold State.clearBusy; split <;> simp only [State.lockedSince_cs, State.writeByte_cs]

@[simp] theorem State.clearBusy_ss (s : State) (k : SwitchKind) :
    (s.clearBusy k).ss = s.ss := by
  unfold State.clearBusy; split <;> simp only [State.lockedSince_ss, State.writeByte_ss]

@[simp] theorem State.clearBusy_ds (s : State) (k : SwitchKind) :
    (s.clearBusy k).ds = s.ds := by
  unfold State.clearBusy; split <;> simp only [State.lockedSince_ds, State.writeByte_ds]

@[simp] theorem State.clearBusy_cpl (s : State) (k : SwitchKind) :
    (s.clearBusy k).cpl = s.cpl := by
  unfold State.clearBusy; split <;> simp only [State.lockedSince_cpl, State.writeByte_cpl]

@[simp] theorem State.clearBusy_gdtr (s : State) (k : SwitchKind) :
    (s.clearBusy k).gdtr = s.gdtr := by
  unfold State.clearBusy; split <;> simp only [State.lockedSince_gdtr, State.writeByte_gdtr]

@[simp] theorem State.clearBusy_idtr (s : State) (k : SwitchKind) :
    (s.clearBusy k).idtr = s.idtr := by
  unfold State.clearBusy; split <;> simp only [State.lockedSince_idtr, State.writeByte_idtr]

@[simp] theorem State.clearBusy_ldtr (s : State) (k : SwitchKind) :
    (s.clearBusy k).ldtr = s.ldtr := by
  unfold State.clearBusy; split <;> simp only [State.lockedSince_ldtr, State.writeByte_ldtr]

@[simp] theorem State.clearBusy_tr (s : State) (k : SwitchKind) :
    (s.clearBusy k).tr = s.tr := by
  unfold State.clearBusy; split <;> simp only [State.lockedSince_tr, State.writeByte_tr]

@[simp] theorem State.clearBusy_run (s : State) (k : SwitchKind) :
    (s.clearBusy k).run = s.run := by
  unfold State.clearBusy; split <;> simp only [State.lockedSince_run, State.writeByte_run]

@[simp] theorem State.clearBusy_nmiPending (s : State) (k : SwitchKind) :
    (s.clearBusy k).nmiPending = s.nmiPending := by
  unfold State.clearBusy; split <;> simp only [State.lockedSince_nmiPending, State.writeByte_nmiPending]

@[simp] theorem State.clearBusy_nmiInService (s : State) (k : SwitchKind) :
    (s.clearBusy k).nmiInService = s.nmiInService := by
  unfold State.clearBusy; split <;> simp only [State.lockedSince_nmiInService, State.writeByte_nmiInService]

@[simp] theorem State.clearBusy_nmiLast (s : State) (k : SwitchKind) :
    (s.clearBusy k).nmiLast = s.nmiLast := by
  unfold State.clearBusy; split <;> simp only [State.lockedSince_nmiLast, State.writeByte_nmiLast]

@[simp] theorem State.clearBusy_intInhibit (s : State) (k : SwitchKind) :
    (s.clearBusy k).intInhibit = s.intInhibit := by
  unfold State.clearBusy; split <;> simp only [State.lockedSince_intInhibit, State.writeByte_intInhibit]

@[simp] theorem State.clearBusy_tfAtStart (s : State) (k : SwitchKind) :
    (s.clearBusy k).tfAtStart = s.tfAtStart := by
  unfold State.clearBusy; split <;> simp only [State.lockedSince_tfAtStart, State.writeByte_tfAtStart]

@[simp] theorem State.clearBusy_intrHeld (s : State) (k : SwitchKind) :
    (s.clearBusy k).intrHeld = s.intrHeld := by
  unfold State.clearBusy; split <;> simp only [State.lockedSince_intrHeld, State.writeByte_intrHeld]

@[simp] theorem State.clearBusy_boundaryStep (s : State) (k : SwitchKind) :
    (s.clearBusy k).boundaryStep = s.boundaryStep := by
  unfold State.clearBusy; split <;> simp only [State.lockedSince_boundaryStep, State.writeByte_boundaryStep]

@[simp] theorem State.clearBusy_pxOverrun (s : State) (k : SwitchKind) :
    (s.clearBusy k).pxOverrun = s.pxOverrun := by
  unfold State.clearBusy; split <;> simp only [State.lockedSince_pxOverrun, State.writeByte_pxOverrun]

@[simp] theorem State.clearBusy_pxOperand (s : State) (k : SwitchKind) :
    (s.clearBusy k).pxOperand = s.pxOperand := by
  unfold State.clearBusy; split <;> simp only [State.lockedSince_pxOperand, State.writeByte_pxOperand]

@[simp] theorem State.clearBusy_pxInhibit (s : State) (k : SwitchKind) :
    (s.clearBusy k).pxInhibit = s.pxInhibit := by
  unfold State.clearBusy; split <;> simp only [State.lockedSince_pxInhibit, State.writeByte_pxInhibit]

@[simp] theorem State.clearBusy_modeSwitch (s : State) (k : SwitchKind) :
    (s.clearBusy k).modeSwitch = s.modeSwitch := by
  unfold State.clearBusy; split <;> simp only [State.lockedSince_modeSwitch, State.writeByte_modeSwitch]

@[simp] theorem State.clearBusy_pre (s : State) (k : SwitchKind) :
    (s.clearBusy k).pre = s.pre := by
  unfold State.clearBusy; split <;> simp only [State.lockedSince_pre, State.writeByte_pre]

@[simp] theorem State.clearBusy_clock (s : State) (k : SwitchKind) :
    (s.clearBusy k).clock = s.clock := by
  unfold State.clearBusy; split <;> simp only [State.lockedSince_clock, State.writeByte_clock]

@[simp] theorem State.clearBusy_flushed (s : State) (k : SwitchKind) :
    (s.clearBusy k).flushed = s.flushed := by
  unfold State.clearBusy; split <;> simp only [State.lockedSince_flushed, State.writeByte_flushed]

@[simp] theorem State.clearBusy_pins (s : State) (k : SwitchKind) :
    (s.clearBusy k).pins = s.pins := by
  unfold State.clearBusy; split <;> simp only [State.lockedSince_pins, State.writeByte_pins]

@[simp] theorem State.clearBusy_platform (s : State) (k : SwitchKind) :
    (s.clearBusy k).platform = s.platform := by
  unfold State.clearBusy; split <;> simp only [State.lockedSince_platform, State.writeByte_platform]

@[simp] theorem State.clearBusy_out (s : State) (k : SwitchKind) :
    (s.clearBusy k).out = s.out := by
  unfold State.clearBusy; split <;> simp only [State.lockedSince_out, State.writeByte_out]

@[simp] theorem State.clearBusy_draws (s : State) (k : SwitchKind) :
    (s.clearBusy k).draws = s.draws := by
  unfold State.clearBusy; split <;> simp only [State.lockedSince_draws, State.writeByte_draws]

@[simp] theorem State.clearBusy_seg (s : State) (k : SwitchKind) (q : SReg) :
    (s.clearBusy k).seg q = s.seg q := by cases q <;> simp [State.seg]

@[simp] theorem State.markBusy_regs (s : State) (k : SwitchKind) (a : Addr) (d : Desc) :
    (s.markBusy k a d).regs = s.regs := by
  unfold State.markBusy; split <;> simp only [State.lockedSince_regs, State.writeByte_regs]

@[simp] theorem State.markBusy_ip (s : State) (k : SwitchKind) (a : Addr) (d : Desc) :
    (s.markBusy k a d).ip = s.ip := by
  unfold State.markBusy; split <;> simp only [State.lockedSince_ip, State.writeByte_ip]

@[simp] theorem State.markBusy_ipCarry (s : State) (k : SwitchKind) (a : Addr) (d : Desc) :
    (s.markBusy k a d).ipCarry = s.ipCarry := by
  unfold State.markBusy; split <;> simp only [State.lockedSince_ipCarry, State.writeByte_ipCarry]

@[simp] theorem State.markBusy_curIp (s : State) (k : SwitchKind) (a : Addr) (d : Desc) :
    (s.markBusy k a d).curIp = s.curIp := by
  unfold State.markBusy; split <;> simp only [State.lockedSince_curIp, State.writeByte_curIp]

@[simp] theorem State.markBusy_flags (s : State) (k : SwitchKind) (a : Addr) (d : Desc) :
    (s.markBusy k a d).flags = s.flags := by
  unfold State.markBusy; split <;> simp only [State.lockedSince_flags, State.writeByte_flags]

@[simp] theorem State.markBusy_msw (s : State) (k : SwitchKind) (a : Addr) (d : Desc) :
    (s.markBusy k a d).msw = s.msw := by
  unfold State.markBusy; split <;> simp only [State.lockedSince_msw, State.writeByte_msw]

@[simp] theorem State.markBusy_es (s : State) (k : SwitchKind) (a : Addr) (d : Desc) :
    (s.markBusy k a d).es = s.es := by
  unfold State.markBusy; split <;> simp only [State.lockedSince_es, State.writeByte_es]

@[simp] theorem State.markBusy_cs (s : State) (k : SwitchKind) (a : Addr) (d : Desc) :
    (s.markBusy k a d).cs = s.cs := by
  unfold State.markBusy; split <;> simp only [State.lockedSince_cs, State.writeByte_cs]

@[simp] theorem State.markBusy_ss (s : State) (k : SwitchKind) (a : Addr) (d : Desc) :
    (s.markBusy k a d).ss = s.ss := by
  unfold State.markBusy; split <;> simp only [State.lockedSince_ss, State.writeByte_ss]

@[simp] theorem State.markBusy_ds (s : State) (k : SwitchKind) (a : Addr) (d : Desc) :
    (s.markBusy k a d).ds = s.ds := by
  unfold State.markBusy; split <;> simp only [State.lockedSince_ds, State.writeByte_ds]

@[simp] theorem State.markBusy_cpl (s : State) (k : SwitchKind) (a : Addr) (d : Desc) :
    (s.markBusy k a d).cpl = s.cpl := by
  unfold State.markBusy; split <;> simp only [State.lockedSince_cpl, State.writeByte_cpl]

@[simp] theorem State.markBusy_gdtr (s : State) (k : SwitchKind) (a : Addr) (d : Desc) :
    (s.markBusy k a d).gdtr = s.gdtr := by
  unfold State.markBusy; split <;> simp only [State.lockedSince_gdtr, State.writeByte_gdtr]

@[simp] theorem State.markBusy_idtr (s : State) (k : SwitchKind) (a : Addr) (d : Desc) :
    (s.markBusy k a d).idtr = s.idtr := by
  unfold State.markBusy; split <;> simp only [State.lockedSince_idtr, State.writeByte_idtr]

@[simp] theorem State.markBusy_ldtr (s : State) (k : SwitchKind) (a : Addr) (d : Desc) :
    (s.markBusy k a d).ldtr = s.ldtr := by
  unfold State.markBusy; split <;> simp only [State.lockedSince_ldtr, State.writeByte_ldtr]

@[simp] theorem State.markBusy_tr (s : State) (k : SwitchKind) (a : Addr) (d : Desc) :
    (s.markBusy k a d).tr = s.tr := by
  unfold State.markBusy; split <;> simp only [State.lockedSince_tr, State.writeByte_tr]

@[simp] theorem State.markBusy_run (s : State) (k : SwitchKind) (a : Addr) (d : Desc) :
    (s.markBusy k a d).run = s.run := by
  unfold State.markBusy; split <;> simp only [State.lockedSince_run, State.writeByte_run]

@[simp] theorem State.markBusy_nmiPending (s : State) (k : SwitchKind) (a : Addr) (d : Desc) :
    (s.markBusy k a d).nmiPending = s.nmiPending := by
  unfold State.markBusy; split <;> simp only [State.lockedSince_nmiPending, State.writeByte_nmiPending]

@[simp] theorem State.markBusy_nmiInService (s : State) (k : SwitchKind) (a : Addr) (d : Desc) :
    (s.markBusy k a d).nmiInService = s.nmiInService := by
  unfold State.markBusy; split <;> simp only [State.lockedSince_nmiInService, State.writeByte_nmiInService]

@[simp] theorem State.markBusy_nmiLast (s : State) (k : SwitchKind) (a : Addr) (d : Desc) :
    (s.markBusy k a d).nmiLast = s.nmiLast := by
  unfold State.markBusy; split <;> simp only [State.lockedSince_nmiLast, State.writeByte_nmiLast]

@[simp] theorem State.markBusy_intInhibit (s : State) (k : SwitchKind) (a : Addr) (d : Desc) :
    (s.markBusy k a d).intInhibit = s.intInhibit := by
  unfold State.markBusy; split <;> simp only [State.lockedSince_intInhibit, State.writeByte_intInhibit]

@[simp] theorem State.markBusy_tfAtStart (s : State) (k : SwitchKind) (a : Addr) (d : Desc) :
    (s.markBusy k a d).tfAtStart = s.tfAtStart := by
  unfold State.markBusy; split <;> simp only [State.lockedSince_tfAtStart, State.writeByte_tfAtStart]

@[simp] theorem State.markBusy_intrHeld (s : State) (k : SwitchKind) (a : Addr) (d : Desc) :
    (s.markBusy k a d).intrHeld = s.intrHeld := by
  unfold State.markBusy; split <;> simp only [State.lockedSince_intrHeld, State.writeByte_intrHeld]

@[simp] theorem State.markBusy_boundaryStep (s : State) (k : SwitchKind) (a : Addr) (d : Desc) :
    (s.markBusy k a d).boundaryStep = s.boundaryStep := by
  unfold State.markBusy; split <;> simp only [State.lockedSince_boundaryStep, State.writeByte_boundaryStep]

@[simp] theorem State.markBusy_pxOverrun (s : State) (k : SwitchKind) (a : Addr) (d : Desc) :
    (s.markBusy k a d).pxOverrun = s.pxOverrun := by
  unfold State.markBusy; split <;> simp only [State.lockedSince_pxOverrun, State.writeByte_pxOverrun]

@[simp] theorem State.markBusy_pxOperand (s : State) (k : SwitchKind) (a : Addr) (d : Desc) :
    (s.markBusy k a d).pxOperand = s.pxOperand := by
  unfold State.markBusy; split <;> simp only [State.lockedSince_pxOperand, State.writeByte_pxOperand]

@[simp] theorem State.markBusy_pxInhibit (s : State) (k : SwitchKind) (a : Addr) (d : Desc) :
    (s.markBusy k a d).pxInhibit = s.pxInhibit := by
  unfold State.markBusy; split <;> simp only [State.lockedSince_pxInhibit, State.writeByte_pxInhibit]

@[simp] theorem State.markBusy_modeSwitch (s : State) (k : SwitchKind) (a : Addr) (d : Desc) :
    (s.markBusy k a d).modeSwitch = s.modeSwitch := by
  unfold State.markBusy; split <;> simp only [State.lockedSince_modeSwitch, State.writeByte_modeSwitch]

@[simp] theorem State.markBusy_pre (s : State) (k : SwitchKind) (a : Addr) (d : Desc) :
    (s.markBusy k a d).pre = s.pre := by
  unfold State.markBusy; split <;> simp only [State.lockedSince_pre, State.writeByte_pre]

@[simp] theorem State.markBusy_clock (s : State) (k : SwitchKind) (a : Addr) (d : Desc) :
    (s.markBusy k a d).clock = s.clock := by
  unfold State.markBusy; split <;> simp only [State.lockedSince_clock, State.writeByte_clock]

@[simp] theorem State.markBusy_flushed (s : State) (k : SwitchKind) (a : Addr) (d : Desc) :
    (s.markBusy k a d).flushed = s.flushed := by
  unfold State.markBusy; split <;> simp only [State.lockedSince_flushed, State.writeByte_flushed]

@[simp] theorem State.markBusy_pins (s : State) (k : SwitchKind) (a : Addr) (d : Desc) :
    (s.markBusy k a d).pins = s.pins := by
  unfold State.markBusy; split <;> simp only [State.lockedSince_pins, State.writeByte_pins]

@[simp] theorem State.markBusy_platform (s : State) (k : SwitchKind) (a : Addr) (d : Desc) :
    (s.markBusy k a d).platform = s.platform := by
  unfold State.markBusy; split <;> simp only [State.lockedSince_platform, State.writeByte_platform]

@[simp] theorem State.markBusy_out (s : State) (k : SwitchKind) (a : Addr) (d : Desc) :
    (s.markBusy k a d).out = s.out := by
  unfold State.markBusy; split <;> simp only [State.lockedSince_out, State.writeByte_out]

@[simp] theorem State.markBusy_draws (s : State) (k : SwitchKind) (a : Addr) (d : Desc) :
    (s.markBusy k a d).draws = s.draws := by
  unfold State.markBusy; split <;> simp only [State.lockedSince_draws, State.writeByte_draws]

@[simp] theorem State.markBusy_seg (s : State) (k : SwitchKind) (a : Addr) (d : Desc) (q : SReg) :
    (s.markBusy k a d).seg q = s.seg q := by cases q <;> simp [State.seg]

@[simp] theorem State.afterEntry_regs (s : State) (k : IntKind) (n : Nat) :
    (s.afterEntry k n).regs = s.regs := rfl

@[simp] theorem State.afterEntry_ip (s : State) (k : IntKind) (n : Nat) :
    (s.afterEntry k n).ip = s.ip := rfl

@[simp] theorem State.afterEntry_ipCarry (s : State) (k : IntKind) (n : Nat) :
    (s.afterEntry k n).ipCarry = s.ipCarry := rfl

@[simp] theorem State.afterEntry_curIp (s : State) (k : IntKind) (n : Nat) :
    (s.afterEntry k n).curIp = s.curIp := rfl

@[simp] theorem State.afterEntry_flags (s : State) (k : IntKind) (n : Nat) :
    (s.afterEntry k n).flags = s.flags := rfl

@[simp] theorem State.afterEntry_msw (s : State) (k : IntKind) (n : Nat) :
    (s.afterEntry k n).msw = s.msw := rfl

@[simp] theorem State.afterEntry_es (s : State) (k : IntKind) (n : Nat) :
    (s.afterEntry k n).es = s.es := rfl

@[simp] theorem State.afterEntry_cs (s : State) (k : IntKind) (n : Nat) :
    (s.afterEntry k n).cs = s.cs := rfl

@[simp] theorem State.afterEntry_ss (s : State) (k : IntKind) (n : Nat) :
    (s.afterEntry k n).ss = s.ss := rfl

@[simp] theorem State.afterEntry_ds (s : State) (k : IntKind) (n : Nat) :
    (s.afterEntry k n).ds = s.ds := rfl

@[simp] theorem State.afterEntry_cpl (s : State) (k : IntKind) (n : Nat) :
    (s.afterEntry k n).cpl = s.cpl := rfl

@[simp] theorem State.afterEntry_gdtr (s : State) (k : IntKind) (n : Nat) :
    (s.afterEntry k n).gdtr = s.gdtr := rfl

@[simp] theorem State.afterEntry_idtr (s : State) (k : IntKind) (n : Nat) :
    (s.afterEntry k n).idtr = s.idtr := rfl

@[simp] theorem State.afterEntry_ldtr (s : State) (k : IntKind) (n : Nat) :
    (s.afterEntry k n).ldtr = s.ldtr := rfl

@[simp] theorem State.afterEntry_tr (s : State) (k : IntKind) (n : Nat) :
    (s.afterEntry k n).tr = s.tr := rfl

@[simp] theorem State.afterEntry_nmiPending (s : State) (k : IntKind) (n : Nat) :
    (s.afterEntry k n).nmiPending = s.nmiPending := rfl

@[simp] theorem State.afterEntry_nmiInService (s : State) (k : IntKind) (n : Nat) :
    (s.afterEntry k n).nmiInService = s.nmiInService := rfl

@[simp] theorem State.afterEntry_nmiLast (s : State) (k : IntKind) (n : Nat) :
    (s.afterEntry k n).nmiLast = s.nmiLast := rfl

@[simp] theorem State.afterEntry_intInhibit (s : State) (k : IntKind) (n : Nat) :
    (s.afterEntry k n).intInhibit = s.intInhibit := rfl

@[simp] theorem State.afterEntry_intrHeld (s : State) (k : IntKind) (n : Nat) :
    (s.afterEntry k n).intrHeld = s.intrHeld := rfl

@[simp] theorem State.afterEntry_boundaryStep (s : State) (k : IntKind) (n : Nat) :
    (s.afterEntry k n).boundaryStep = s.boundaryStep := rfl

@[simp] theorem State.afterEntry_pxOverrun (s : State) (k : IntKind) (n : Nat) :
    (s.afterEntry k n).pxOverrun = s.pxOverrun := rfl

@[simp] theorem State.afterEntry_pxOperand (s : State) (k : IntKind) (n : Nat) :
    (s.afterEntry k n).pxOperand = s.pxOperand := rfl

@[simp] theorem State.afterEntry_pxInhibit (s : State) (k : IntKind) (n : Nat) :
    (s.afterEntry k n).pxInhibit = s.pxInhibit := rfl

@[simp] theorem State.afterEntry_modeSwitch (s : State) (k : IntKind) (n : Nat) :
    (s.afterEntry k n).modeSwitch = s.modeSwitch := rfl

@[simp] theorem State.afterEntry_stale (s : State) (k : IntKind) (n : Nat) :
    (s.afterEntry k n).stale = s.stale := rfl

@[simp] theorem State.afterEntry_stores (s : State) (k : IntKind) (n : Nat) :
    (s.afterEntry k n).stores = s.stores := rfl

@[simp] theorem State.afterEntry_clock (s : State) (k : IntKind) (n : Nat) :
    (s.afterEntry k n).clock = s.clock := rfl

@[simp] theorem State.afterEntry_flushed (s : State) (k : IntKind) (n : Nat) :
    (s.afterEntry k n).flushed = s.flushed := rfl

@[simp] theorem State.afterEntry_mem (s : State) (k : IntKind) (n : Nat) :
    (s.afterEntry k n).mem = s.mem := rfl

@[simp] theorem State.afterEntry_pins (s : State) (k : IntKind) (n : Nat) :
    (s.afterEntry k n).pins = s.pins := rfl

@[simp] theorem State.afterEntry_platform (s : State) (k : IntKind) (n : Nat) :
    (s.afterEntry k n).platform = s.platform := rfl

@[simp] theorem State.afterEntry_out (s : State) (k : IntKind) (n : Nat) :
    (s.afterEntry k n).out = s.out := rfl

@[simp] theorem State.afterEntry_draws (s : State) (k : IntKind) (n : Nat) :
    (s.afterEntry k n).draws = s.draws := rfl

@[simp] theorem State.afterEntry_seg (s : State) (k : IntKind) (n : Nat) (q : SReg) :
    (s.afterEntry k n).seg q = s.seg q := by cases q <;> simp [State.seg]

@[simp] theorem State.inhibitAfter_regs (s : State) (r : SReg) :
    (s.inhibitAfter r).regs = s.regs := rfl

@[simp] theorem State.inhibitAfter_ip (s : State) (r : SReg) :
    (s.inhibitAfter r).ip = s.ip := rfl

@[simp] theorem State.inhibitAfter_ipCarry (s : State) (r : SReg) :
    (s.inhibitAfter r).ipCarry = s.ipCarry := rfl

@[simp] theorem State.inhibitAfter_curIp (s : State) (r : SReg) :
    (s.inhibitAfter r).curIp = s.curIp := rfl

@[simp] theorem State.inhibitAfter_flags (s : State) (r : SReg) :
    (s.inhibitAfter r).flags = s.flags := rfl

@[simp] theorem State.inhibitAfter_msw (s : State) (r : SReg) :
    (s.inhibitAfter r).msw = s.msw := rfl

@[simp] theorem State.inhibitAfter_es (s : State) (r : SReg) :
    (s.inhibitAfter r).es = s.es := rfl

@[simp] theorem State.inhibitAfter_cs (s : State) (r : SReg) :
    (s.inhibitAfter r).cs = s.cs := rfl

@[simp] theorem State.inhibitAfter_ss (s : State) (r : SReg) :
    (s.inhibitAfter r).ss = s.ss := rfl

@[simp] theorem State.inhibitAfter_ds (s : State) (r : SReg) :
    (s.inhibitAfter r).ds = s.ds := rfl

@[simp] theorem State.inhibitAfter_cpl (s : State) (r : SReg) :
    (s.inhibitAfter r).cpl = s.cpl := rfl

@[simp] theorem State.inhibitAfter_gdtr (s : State) (r : SReg) :
    (s.inhibitAfter r).gdtr = s.gdtr := rfl

@[simp] theorem State.inhibitAfter_idtr (s : State) (r : SReg) :
    (s.inhibitAfter r).idtr = s.idtr := rfl

@[simp] theorem State.inhibitAfter_ldtr (s : State) (r : SReg) :
    (s.inhibitAfter r).ldtr = s.ldtr := rfl

@[simp] theorem State.inhibitAfter_tr (s : State) (r : SReg) :
    (s.inhibitAfter r).tr = s.tr := rfl

@[simp] theorem State.inhibitAfter_run (s : State) (r : SReg) :
    (s.inhibitAfter r).run = s.run := rfl

@[simp] theorem State.inhibitAfter_nmiPending (s : State) (r : SReg) :
    (s.inhibitAfter r).nmiPending = s.nmiPending := rfl

@[simp] theorem State.inhibitAfter_nmiInService (s : State) (r : SReg) :
    (s.inhibitAfter r).nmiInService = s.nmiInService := rfl

@[simp] theorem State.inhibitAfter_nmiLast (s : State) (r : SReg) :
    (s.inhibitAfter r).nmiLast = s.nmiLast := rfl

@[simp] theorem State.inhibitAfter_tfAtStart (s : State) (r : SReg) :
    (s.inhibitAfter r).tfAtStart = s.tfAtStart := rfl

@[simp] theorem State.inhibitAfter_intrHeld (s : State) (r : SReg) :
    (s.inhibitAfter r).intrHeld = s.intrHeld := rfl

@[simp] theorem State.inhibitAfter_boundaryStep (s : State) (r : SReg) :
    (s.inhibitAfter r).boundaryStep = s.boundaryStep := rfl

@[simp] theorem State.inhibitAfter_pxOverrun (s : State) (r : SReg) :
    (s.inhibitAfter r).pxOverrun = s.pxOverrun := rfl

@[simp] theorem State.inhibitAfter_pxOperand (s : State) (r : SReg) :
    (s.inhibitAfter r).pxOperand = s.pxOperand := rfl

@[simp] theorem State.inhibitAfter_pxInhibit (s : State) (r : SReg) :
    (s.inhibitAfter r).pxInhibit = s.pxInhibit := rfl

@[simp] theorem State.inhibitAfter_modeSwitch (s : State) (r : SReg) :
    (s.inhibitAfter r).modeSwitch = s.modeSwitch := rfl

@[simp] theorem State.inhibitAfter_pre (s : State) (r : SReg) :
    (s.inhibitAfter r).pre = s.pre := rfl

@[simp] theorem State.inhibitAfter_stale (s : State) (r : SReg) :
    (s.inhibitAfter r).stale = s.stale := rfl

@[simp] theorem State.inhibitAfter_stores (s : State) (r : SReg) :
    (s.inhibitAfter r).stores = s.stores := rfl

@[simp] theorem State.inhibitAfter_clock (s : State) (r : SReg) :
    (s.inhibitAfter r).clock = s.clock := rfl

@[simp] theorem State.inhibitAfter_flushed (s : State) (r : SReg) :
    (s.inhibitAfter r).flushed = s.flushed := rfl

@[simp] theorem State.inhibitAfter_mem (s : State) (r : SReg) :
    (s.inhibitAfter r).mem = s.mem := rfl

@[simp] theorem State.inhibitAfter_pins (s : State) (r : SReg) :
    (s.inhibitAfter r).pins = s.pins := rfl

@[simp] theorem State.inhibitAfter_platform (s : State) (r : SReg) :
    (s.inhibitAfter r).platform = s.platform := rfl

@[simp] theorem State.inhibitAfter_out (s : State) (r : SReg) :
    (s.inhibitAfter r).out = s.out := rfl

@[simp] theorem State.inhibitAfter_draws (s : State) (r : SReg) :
    (s.inhibitAfter r).draws = s.draws := rfl

@[simp] theorem State.inhibitAfter_seg (s : State) (r : SReg) (q : SReg) :
    (s.inhibitAfter r).seg q = s.seg q := by cases q <;> simp [State.seg]

@[simp] theorem State.flushQueue_regs (s : State) :
    (s.flushQueue).regs = s.regs := rfl

@[simp] theorem State.flushQueue_ip (s : State) :
    (s.flushQueue).ip = s.ip := rfl

@[simp] theorem State.flushQueue_ipCarry (s : State) :
    (s.flushQueue).ipCarry = s.ipCarry := rfl

@[simp] theorem State.flushQueue_curIp (s : State) :
    (s.flushQueue).curIp = s.curIp := rfl

@[simp] theorem State.flushQueue_flags (s : State) :
    (s.flushQueue).flags = s.flags := rfl

@[simp] theorem State.flushQueue_msw (s : State) :
    (s.flushQueue).msw = s.msw := rfl

@[simp] theorem State.flushQueue_es (s : State) :
    (s.flushQueue).es = s.es := rfl

@[simp] theorem State.flushQueue_cs (s : State) :
    (s.flushQueue).cs = s.cs := rfl

@[simp] theorem State.flushQueue_ss (s : State) :
    (s.flushQueue).ss = s.ss := rfl

@[simp] theorem State.flushQueue_ds (s : State) :
    (s.flushQueue).ds = s.ds := rfl

@[simp] theorem State.flushQueue_cpl (s : State) :
    (s.flushQueue).cpl = s.cpl := rfl

@[simp] theorem State.flushQueue_gdtr (s : State) :
    (s.flushQueue).gdtr = s.gdtr := rfl

@[simp] theorem State.flushQueue_idtr (s : State) :
    (s.flushQueue).idtr = s.idtr := rfl

@[simp] theorem State.flushQueue_ldtr (s : State) :
    (s.flushQueue).ldtr = s.ldtr := rfl

@[simp] theorem State.flushQueue_tr (s : State) :
    (s.flushQueue).tr = s.tr := rfl

@[simp] theorem State.flushQueue_run (s : State) :
    (s.flushQueue).run = s.run := rfl

@[simp] theorem State.flushQueue_nmiPending (s : State) :
    (s.flushQueue).nmiPending = s.nmiPending := rfl

@[simp] theorem State.flushQueue_nmiInService (s : State) :
    (s.flushQueue).nmiInService = s.nmiInService := rfl

@[simp] theorem State.flushQueue_nmiLast (s : State) :
    (s.flushQueue).nmiLast = s.nmiLast := rfl

@[simp] theorem State.flushQueue_intInhibit (s : State) :
    (s.flushQueue).intInhibit = s.intInhibit := rfl

@[simp] theorem State.flushQueue_tfAtStart (s : State) :
    (s.flushQueue).tfAtStart = s.tfAtStart := rfl

@[simp] theorem State.flushQueue_intrHeld (s : State) :
    (s.flushQueue).intrHeld = s.intrHeld := rfl

@[simp] theorem State.flushQueue_boundaryStep (s : State) :
    (s.flushQueue).boundaryStep = s.boundaryStep := rfl

@[simp] theorem State.flushQueue_pxOverrun (s : State) :
    (s.flushQueue).pxOverrun = s.pxOverrun := rfl

@[simp] theorem State.flushQueue_pxOperand (s : State) :
    (s.flushQueue).pxOperand = s.pxOperand := rfl

@[simp] theorem State.flushQueue_pxInhibit (s : State) :
    (s.flushQueue).pxInhibit = s.pxInhibit := rfl

@[simp] theorem State.flushQueue_modeSwitch (s : State) :
    (s.flushQueue).modeSwitch = s.modeSwitch := rfl

@[simp] theorem State.flushQueue_pre (s : State) :
    (s.flushQueue).pre = s.pre := rfl

@[simp] theorem State.flushQueue_stores (s : State) :
    (s.flushQueue).stores = s.stores := rfl

@[simp] theorem State.flushQueue_clock (s : State) :
    (s.flushQueue).clock = s.clock := rfl

@[simp] theorem State.flushQueue_mem (s : State) :
    (s.flushQueue).mem = s.mem := rfl

@[simp] theorem State.flushQueue_pins (s : State) :
    (s.flushQueue).pins = s.pins := rfl

@[simp] theorem State.flushQueue_platform (s : State) :
    (s.flushQueue).platform = s.platform := rfl

@[simp] theorem State.flushQueue_out (s : State) :
    (s.flushQueue).out = s.out := rfl

@[simp] theorem State.flushQueue_draws (s : State) :
    (s.flushQueue).draws = s.draws := rfl

@[simp] theorem State.flushQueue_seg (s : State) (q : SReg) :
    (s.flushQueue).seg q = s.seg q := by cases q <;> simp [State.seg]

@[simp] theorem State.entering_regs (s : State) :
    (s.entering).regs = s.regs := rfl

@[simp] theorem State.entering_ip (s : State) :
    (s.entering).ip = s.ip := rfl

@[simp] theorem State.entering_ipCarry (s : State) :
    (s.entering).ipCarry = s.ipCarry := rfl

@[simp] theorem State.entering_curIp (s : State) :
    (s.entering).curIp = s.curIp := rfl

@[simp] theorem State.entering_flags (s : State) :
    (s.entering).flags = s.flags := rfl

@[simp] theorem State.entering_msw (s : State) :
    (s.entering).msw = s.msw := rfl

@[simp] theorem State.entering_es (s : State) :
    (s.entering).es = s.es := rfl

@[simp] theorem State.entering_cs (s : State) :
    (s.entering).cs = s.cs := rfl

@[simp] theorem State.entering_ss (s : State) :
    (s.entering).ss = s.ss := rfl

@[simp] theorem State.entering_ds (s : State) :
    (s.entering).ds = s.ds := rfl

@[simp] theorem State.entering_cpl (s : State) :
    (s.entering).cpl = s.cpl := rfl

@[simp] theorem State.entering_gdtr (s : State) :
    (s.entering).gdtr = s.gdtr := rfl

@[simp] theorem State.entering_idtr (s : State) :
    (s.entering).idtr = s.idtr := rfl

@[simp] theorem State.entering_ldtr (s : State) :
    (s.entering).ldtr = s.ldtr := rfl

@[simp] theorem State.entering_tr (s : State) :
    (s.entering).tr = s.tr := rfl

@[simp] theorem State.entering_run (s : State) :
    (s.entering).run = s.run := rfl

@[simp] theorem State.entering_nmiPending (s : State) :
    (s.entering).nmiPending = s.nmiPending := rfl

@[simp] theorem State.entering_nmiInService (s : State) :
    (s.entering).nmiInService = s.nmiInService := rfl

@[simp] theorem State.entering_nmiLast (s : State) :
    (s.entering).nmiLast = s.nmiLast := rfl

@[simp] theorem State.entering_intInhibit (s : State) :
    (s.entering).intInhibit = s.intInhibit := rfl

@[simp] theorem State.entering_tfAtStart (s : State) :
    (s.entering).tfAtStart = s.tfAtStart := rfl

@[simp] theorem State.entering_intrHeld (s : State) :
    (s.entering).intrHeld = s.intrHeld := rfl

@[simp] theorem State.entering_boundaryStep (s : State) :
    (s.entering).boundaryStep = s.boundaryStep := rfl

@[simp] theorem State.entering_pxOverrun (s : State) :
    (s.entering).pxOverrun = s.pxOverrun := rfl

@[simp] theorem State.entering_pxOperand (s : State) :
    (s.entering).pxOperand = s.pxOperand := rfl

@[simp] theorem State.entering_pxInhibit (s : State) :
    (s.entering).pxInhibit = s.pxInhibit := rfl

@[simp] theorem State.entering_modeSwitch (s : State) :
    (s.entering).modeSwitch = s.modeSwitch := rfl

@[simp] theorem State.entering_pre (s : State) :
    (s.entering).pre = s.pre := rfl

@[simp] theorem State.entering_stale (s : State) :
    (s.entering).stale = s.stale := rfl

@[simp] theorem State.entering_stores (s : State) :
    (s.entering).stores = s.stores := rfl

@[simp] theorem State.entering_flushed (s : State) :
    (s.entering).flushed = s.flushed := rfl

@[simp] theorem State.entering_mem (s : State) :
    (s.entering).mem = s.mem := rfl

@[simp] theorem State.entering_pins (s : State) :
    (s.entering).pins = s.pins := rfl

@[simp] theorem State.entering_platform (s : State) :
    (s.entering).platform = s.platform := rfl

@[simp] theorem State.entering_out (s : State) :
    (s.entering).out = s.out := rfl

@[simp] theorem State.entering_draws (s : State) :
    (s.entering).draws = s.draws := rfl

@[simp] theorem State.entering_seg (s : State) (q : SReg) :
    (s.entering).seg q = s.seg q := by cases q <;> simp [State.seg]

@[simp] theorem State.enterStuck_regs (s : State) :
    (s.enterStuck).regs = s.regs := rfl

@[simp] theorem State.enterStuck_ip (s : State) :
    (s.enterStuck).ip = s.ip := rfl

@[simp] theorem State.enterStuck_ipCarry (s : State) :
    (s.enterStuck).ipCarry = s.ipCarry := rfl

@[simp] theorem State.enterStuck_curIp (s : State) :
    (s.enterStuck).curIp = s.curIp := rfl

@[simp] theorem State.enterStuck_flags (s : State) :
    (s.enterStuck).flags = s.flags := rfl

@[simp] theorem State.enterStuck_msw (s : State) :
    (s.enterStuck).msw = s.msw := rfl

@[simp] theorem State.enterStuck_es (s : State) :
    (s.enterStuck).es = s.es := rfl

@[simp] theorem State.enterStuck_cs (s : State) :
    (s.enterStuck).cs = s.cs := rfl

@[simp] theorem State.enterStuck_ss (s : State) :
    (s.enterStuck).ss = s.ss := rfl

@[simp] theorem State.enterStuck_ds (s : State) :
    (s.enterStuck).ds = s.ds := rfl

@[simp] theorem State.enterStuck_cpl (s : State) :
    (s.enterStuck).cpl = s.cpl := rfl

@[simp] theorem State.enterStuck_gdtr (s : State) :
    (s.enterStuck).gdtr = s.gdtr := rfl

@[simp] theorem State.enterStuck_idtr (s : State) :
    (s.enterStuck).idtr = s.idtr := rfl

@[simp] theorem State.enterStuck_ldtr (s : State) :
    (s.enterStuck).ldtr = s.ldtr := rfl

@[simp] theorem State.enterStuck_tr (s : State) :
    (s.enterStuck).tr = s.tr := rfl

@[simp] theorem State.enterStuck_nmiPending (s : State) :
    (s.enterStuck).nmiPending = s.nmiPending := rfl

@[simp] theorem State.enterStuck_nmiInService (s : State) :
    (s.enterStuck).nmiInService = s.nmiInService := rfl

@[simp] theorem State.enterStuck_nmiLast (s : State) :
    (s.enterStuck).nmiLast = s.nmiLast := rfl

@[simp] theorem State.enterStuck_intInhibit (s : State) :
    (s.enterStuck).intInhibit = s.intInhibit := rfl

@[simp] theorem State.enterStuck_tfAtStart (s : State) :
    (s.enterStuck).tfAtStart = s.tfAtStart := rfl

@[simp] theorem State.enterStuck_intrHeld (s : State) :
    (s.enterStuck).intrHeld = s.intrHeld := rfl

@[simp] theorem State.enterStuck_boundaryStep (s : State) :
    (s.enterStuck).boundaryStep = s.boundaryStep := rfl

@[simp] theorem State.enterStuck_pxOverrun (s : State) :
    (s.enterStuck).pxOverrun = s.pxOverrun := rfl

@[simp] theorem State.enterStuck_pxOperand (s : State) :
    (s.enterStuck).pxOperand = s.pxOperand := rfl

@[simp] theorem State.enterStuck_pxInhibit (s : State) :
    (s.enterStuck).pxInhibit = s.pxInhibit := rfl

@[simp] theorem State.enterStuck_modeSwitch (s : State) :
    (s.enterStuck).modeSwitch = s.modeSwitch := rfl

@[simp] theorem State.enterStuck_pre (s : State) :
    (s.enterStuck).pre = s.pre := rfl

@[simp] theorem State.enterStuck_stale (s : State) :
    (s.enterStuck).stale = s.stale := rfl

@[simp] theorem State.enterStuck_stores (s : State) :
    (s.enterStuck).stores = s.stores := rfl

@[simp] theorem State.enterStuck_clock (s : State) :
    (s.enterStuck).clock = s.clock := rfl

@[simp] theorem State.enterStuck_flushed (s : State) :
    (s.enterStuck).flushed = s.flushed := rfl

@[simp] theorem State.enterStuck_mem (s : State) :
    (s.enterStuck).mem = s.mem := rfl

@[simp] theorem State.enterStuck_pins (s : State) :
    (s.enterStuck).pins = s.pins := rfl

@[simp] theorem State.enterStuck_platform (s : State) :
    (s.enterStuck).platform = s.platform := rfl

@[simp] theorem State.enterStuck_out (s : State) :
    (s.enterStuck).out = s.out := rfl

@[simp] theorem State.enterStuck_draws (s : State) :
    (s.enterStuck).draws = s.draws := rfl

@[simp] theorem State.enterStuck_seg (s : State) (q : SReg) :
    (s.enterStuck).seg q = s.seg q := by cases q <;> simp [State.seg]

@[simp] theorem State.hold_regs (s : State) (d : Desc) :
    (s.hold d).regs = s.regs := rfl

@[simp] theorem State.hold_ip (s : State) (d : Desc) :
    (s.hold d).ip = s.ip := rfl

@[simp] theorem State.hold_ipCarry (s : State) (d : Desc) :
    (s.hold d).ipCarry = s.ipCarry := rfl

@[simp] theorem State.hold_curIp (s : State) (d : Desc) :
    (s.hold d).curIp = s.curIp := rfl

@[simp] theorem State.hold_flags (s : State) (d : Desc) :
    (s.hold d).flags = s.flags := rfl

@[simp] theorem State.hold_msw (s : State) (d : Desc) :
    (s.hold d).msw = s.msw := rfl

@[simp] theorem State.hold_es (s : State) (d : Desc) :
    (s.hold d).es = s.es := rfl

@[simp] theorem State.hold_cs (s : State) (d : Desc) :
    (s.hold d).cs = s.cs := rfl

@[simp] theorem State.hold_ss (s : State) (d : Desc) :
    (s.hold d).ss = s.ss := rfl

@[simp] theorem State.hold_ds (s : State) (d : Desc) :
    (s.hold d).ds = s.ds := rfl

@[simp] theorem State.hold_cpl (s : State) (d : Desc) :
    (s.hold d).cpl = s.cpl := rfl

@[simp] theorem State.hold_gdtr (s : State) (d : Desc) :
    (s.hold d).gdtr = s.gdtr := rfl

@[simp] theorem State.hold_idtr (s : State) (d : Desc) :
    (s.hold d).idtr = s.idtr := rfl

@[simp] theorem State.hold_ldtr (s : State) (d : Desc) :
    (s.hold d).ldtr = s.ldtr := rfl

@[simp] theorem State.hold_tr (s : State) (d : Desc) :
    (s.hold d).tr = s.tr := rfl

@[simp] theorem State.hold_run (s : State) (d : Desc) :
    (s.hold d).run = s.run := rfl

@[simp] theorem State.hold_nmiPending (s : State) (d : Desc) :
    (s.hold d).nmiPending = s.nmiPending := rfl

@[simp] theorem State.hold_nmiInService (s : State) (d : Desc) :
    (s.hold d).nmiInService = s.nmiInService := rfl

@[simp] theorem State.hold_nmiLast (s : State) (d : Desc) :
    (s.hold d).nmiLast = s.nmiLast := rfl

@[simp] theorem State.hold_intInhibit (s : State) (d : Desc) :
    (s.hold d).intInhibit = s.intInhibit := rfl

@[simp] theorem State.hold_tfAtStart (s : State) (d : Desc) :
    (s.hold d).tfAtStart = s.tfAtStart := rfl

@[simp] theorem State.hold_intrHeld (s : State) (d : Desc) :
    (s.hold d).intrHeld = s.intrHeld := rfl

@[simp] theorem State.hold_boundaryStep (s : State) (d : Desc) :
    (s.hold d).boundaryStep = s.boundaryStep := rfl

@[simp] theorem State.hold_pxOverrun (s : State) (d : Desc) :
    (s.hold d).pxOverrun = s.pxOverrun := rfl

@[simp] theorem State.hold_pxOperand (s : State) (d : Desc) :
    (s.hold d).pxOperand = s.pxOperand := rfl

@[simp] theorem State.hold_pxInhibit (s : State) (d : Desc) :
    (s.hold d).pxInhibit = s.pxInhibit := rfl

@[simp] theorem State.hold_modeSwitch (s : State) (d : Desc) :
    (s.hold d).modeSwitch = s.modeSwitch := rfl

@[simp] theorem State.hold_pre (s : State) (d : Desc) :
    (s.hold d).pre = s.pre := rfl

@[simp] theorem State.hold_stale (s : State) (d : Desc) :
    (s.hold d).stale = s.stale := rfl

@[simp] theorem State.hold_stores (s : State) (d : Desc) :
    (s.hold d).stores = s.stores := rfl

@[simp] theorem State.hold_flushed (s : State) (d : Desc) :
    (s.hold d).flushed = s.flushed := rfl

@[simp] theorem State.hold_mem (s : State) (d : Desc) :
    (s.hold d).mem = s.mem := rfl

@[simp] theorem State.hold_pins (s : State) (d : Desc) :
    (s.hold d).pins = s.pins := rfl

@[simp] theorem State.hold_platform (s : State) (d : Desc) :
    (s.hold d).platform = s.platform := rfl

@[simp] theorem State.hold_out (s : State) (d : Desc) :
    (s.hold d).out = s.out := rfl

@[simp] theorem State.hold_draws (s : State) (d : Desc) :
    (s.hold d).draws = s.draws := rfl

@[simp] theorem State.hold_seg (s : State) (d : Desc) (q : SReg) :
    (s.hold d).seg q = s.seg q := by cases q <;> simp [State.seg]

@[simp] theorem State.holdAccessed_regs (s : State) (d : Desc) :
    (s.holdAccessed d).regs = s.regs := by
  unfold State.holdAccessed; split <;> rfl

@[simp] theorem State.holdAccessed_ip (s : State) (d : Desc) :
    (s.holdAccessed d).ip = s.ip := by
  unfold State.holdAccessed; split <;> rfl

@[simp] theorem State.holdAccessed_ipCarry (s : State) (d : Desc) :
    (s.holdAccessed d).ipCarry = s.ipCarry := by
  unfold State.holdAccessed; split <;> rfl

@[simp] theorem State.holdAccessed_curIp (s : State) (d : Desc) :
    (s.holdAccessed d).curIp = s.curIp := by
  unfold State.holdAccessed; split <;> rfl

@[simp] theorem State.holdAccessed_flags (s : State) (d : Desc) :
    (s.holdAccessed d).flags = s.flags := by
  unfold State.holdAccessed; split <;> rfl

@[simp] theorem State.holdAccessed_msw (s : State) (d : Desc) :
    (s.holdAccessed d).msw = s.msw := by
  unfold State.holdAccessed; split <;> rfl

@[simp] theorem State.holdAccessed_es (s : State) (d : Desc) :
    (s.holdAccessed d).es = s.es := by
  unfold State.holdAccessed; split <;> rfl

@[simp] theorem State.holdAccessed_cs (s : State) (d : Desc) :
    (s.holdAccessed d).cs = s.cs := by
  unfold State.holdAccessed; split <;> rfl

@[simp] theorem State.holdAccessed_ss (s : State) (d : Desc) :
    (s.holdAccessed d).ss = s.ss := by
  unfold State.holdAccessed; split <;> rfl

@[simp] theorem State.holdAccessed_ds (s : State) (d : Desc) :
    (s.holdAccessed d).ds = s.ds := by
  unfold State.holdAccessed; split <;> rfl

@[simp] theorem State.holdAccessed_cpl (s : State) (d : Desc) :
    (s.holdAccessed d).cpl = s.cpl := by
  unfold State.holdAccessed; split <;> rfl

@[simp] theorem State.holdAccessed_gdtr (s : State) (d : Desc) :
    (s.holdAccessed d).gdtr = s.gdtr := by
  unfold State.holdAccessed; split <;> rfl

@[simp] theorem State.holdAccessed_idtr (s : State) (d : Desc) :
    (s.holdAccessed d).idtr = s.idtr := by
  unfold State.holdAccessed; split <;> rfl

@[simp] theorem State.holdAccessed_ldtr (s : State) (d : Desc) :
    (s.holdAccessed d).ldtr = s.ldtr := by
  unfold State.holdAccessed; split <;> rfl

@[simp] theorem State.holdAccessed_tr (s : State) (d : Desc) :
    (s.holdAccessed d).tr = s.tr := by
  unfold State.holdAccessed; split <;> rfl

@[simp] theorem State.holdAccessed_run (s : State) (d : Desc) :
    (s.holdAccessed d).run = s.run := by
  unfold State.holdAccessed; split <;> rfl

@[simp] theorem State.holdAccessed_nmiPending (s : State) (d : Desc) :
    (s.holdAccessed d).nmiPending = s.nmiPending := by
  unfold State.holdAccessed; split <;> rfl

@[simp] theorem State.holdAccessed_nmiInService (s : State) (d : Desc) :
    (s.holdAccessed d).nmiInService = s.nmiInService := by
  unfold State.holdAccessed; split <;> rfl

@[simp] theorem State.holdAccessed_nmiLast (s : State) (d : Desc) :
    (s.holdAccessed d).nmiLast = s.nmiLast := by
  unfold State.holdAccessed; split <;> rfl

@[simp] theorem State.holdAccessed_intInhibit (s : State) (d : Desc) :
    (s.holdAccessed d).intInhibit = s.intInhibit := by
  unfold State.holdAccessed; split <;> rfl

@[simp] theorem State.holdAccessed_tfAtStart (s : State) (d : Desc) :
    (s.holdAccessed d).tfAtStart = s.tfAtStart := by
  unfold State.holdAccessed; split <;> rfl

@[simp] theorem State.holdAccessed_intrHeld (s : State) (d : Desc) :
    (s.holdAccessed d).intrHeld = s.intrHeld := by
  unfold State.holdAccessed; split <;> rfl

@[simp] theorem State.holdAccessed_boundaryStep (s : State) (d : Desc) :
    (s.holdAccessed d).boundaryStep = s.boundaryStep := by
  unfold State.holdAccessed; split <;> rfl

@[simp] theorem State.holdAccessed_pxOverrun (s : State) (d : Desc) :
    (s.holdAccessed d).pxOverrun = s.pxOverrun := by
  unfold State.holdAccessed; split <;> rfl

@[simp] theorem State.holdAccessed_pxOperand (s : State) (d : Desc) :
    (s.holdAccessed d).pxOperand = s.pxOperand := by
  unfold State.holdAccessed; split <;> rfl

@[simp] theorem State.holdAccessed_pxInhibit (s : State) (d : Desc) :
    (s.holdAccessed d).pxInhibit = s.pxInhibit := by
  unfold State.holdAccessed; split <;> rfl

@[simp] theorem State.holdAccessed_modeSwitch (s : State) (d : Desc) :
    (s.holdAccessed d).modeSwitch = s.modeSwitch := by
  unfold State.holdAccessed; split <;> rfl

@[simp] theorem State.holdAccessed_pre (s : State) (d : Desc) :
    (s.holdAccessed d).pre = s.pre := by
  unfold State.holdAccessed; split <;> rfl

@[simp] theorem State.holdAccessed_stale (s : State) (d : Desc) :
    (s.holdAccessed d).stale = s.stale := by
  unfold State.holdAccessed; split <;> rfl

@[simp] theorem State.holdAccessed_stores (s : State) (d : Desc) :
    (s.holdAccessed d).stores = s.stores := by
  unfold State.holdAccessed; split <;> rfl

@[simp] theorem State.holdAccessed_flushed (s : State) (d : Desc) :
    (s.holdAccessed d).flushed = s.flushed := by
  unfold State.holdAccessed; split <;> rfl

@[simp] theorem State.holdAccessed_mem (s : State) (d : Desc) :
    (s.holdAccessed d).mem = s.mem := by
  unfold State.holdAccessed; split <;> rfl

@[simp] theorem State.holdAccessed_pins (s : State) (d : Desc) :
    (s.holdAccessed d).pins = s.pins := by
  unfold State.holdAccessed; split <;> rfl

@[simp] theorem State.holdAccessed_platform (s : State) (d : Desc) :
    (s.holdAccessed d).platform = s.platform := by
  unfold State.holdAccessed; split <;> rfl

@[simp] theorem State.holdAccessed_out (s : State) (d : Desc) :
    (s.holdAccessed d).out = s.out := by
  unfold State.holdAccessed; split <;> rfl

@[simp] theorem State.holdAccessed_draws (s : State) (d : Desc) :
    (s.holdAccessed d).draws = s.draws := by
  unfold State.holdAccessed; split <;> rfl

@[simp] theorem State.holdAccessed_seg (s : State) (d : Desc) (q : SReg) :
    (s.holdAccessed d).seg q = s.seg q := by cases q <;> simp [State.seg]

@[simp] theorem State.release_regs (s : State) (t : State) :
    (s.release t).regs = s.regs := rfl

@[simp] theorem State.release_ip (s : State) (t : State) :
    (s.release t).ip = s.ip := rfl

@[simp] theorem State.release_ipCarry (s : State) (t : State) :
    (s.release t).ipCarry = s.ipCarry := rfl

@[simp] theorem State.release_curIp (s : State) (t : State) :
    (s.release t).curIp = s.curIp := rfl

@[simp] theorem State.release_flags (s : State) (t : State) :
    (s.release t).flags = s.flags := rfl

@[simp] theorem State.release_msw (s : State) (t : State) :
    (s.release t).msw = s.msw := rfl

@[simp] theorem State.release_es (s : State) (t : State) :
    (s.release t).es = s.es := rfl

@[simp] theorem State.release_cs (s : State) (t : State) :
    (s.release t).cs = s.cs := rfl

@[simp] theorem State.release_ss (s : State) (t : State) :
    (s.release t).ss = s.ss := rfl

@[simp] theorem State.release_ds (s : State) (t : State) :
    (s.release t).ds = s.ds := rfl

@[simp] theorem State.release_cpl (s : State) (t : State) :
    (s.release t).cpl = s.cpl := rfl

@[simp] theorem State.release_gdtr (s : State) (t : State) :
    (s.release t).gdtr = s.gdtr := rfl

@[simp] theorem State.release_idtr (s : State) (t : State) :
    (s.release t).idtr = s.idtr := rfl

@[simp] theorem State.release_ldtr (s : State) (t : State) :
    (s.release t).ldtr = s.ldtr := rfl

@[simp] theorem State.release_tr (s : State) (t : State) :
    (s.release t).tr = s.tr := rfl

@[simp] theorem State.release_run (s : State) (t : State) :
    (s.release t).run = s.run := rfl

@[simp] theorem State.release_nmiPending (s : State) (t : State) :
    (s.release t).nmiPending = s.nmiPending := rfl

@[simp] theorem State.release_nmiInService (s : State) (t : State) :
    (s.release t).nmiInService = s.nmiInService := rfl

@[simp] theorem State.release_nmiLast (s : State) (t : State) :
    (s.release t).nmiLast = s.nmiLast := rfl

@[simp] theorem State.release_intInhibit (s : State) (t : State) :
    (s.release t).intInhibit = s.intInhibit := rfl

@[simp] theorem State.release_tfAtStart (s : State) (t : State) :
    (s.release t).tfAtStart = s.tfAtStart := rfl

@[simp] theorem State.release_intrHeld (s : State) (t : State) :
    (s.release t).intrHeld = s.intrHeld := rfl

@[simp] theorem State.release_boundaryStep (s : State) (t : State) :
    (s.release t).boundaryStep = s.boundaryStep := rfl

@[simp] theorem State.release_pxOverrun (s : State) (t : State) :
    (s.release t).pxOverrun = s.pxOverrun := rfl

@[simp] theorem State.release_pxOperand (s : State) (t : State) :
    (s.release t).pxOperand = s.pxOperand := rfl

@[simp] theorem State.release_pxInhibit (s : State) (t : State) :
    (s.release t).pxInhibit = s.pxInhibit := rfl

@[simp] theorem State.release_modeSwitch (s : State) (t : State) :
    (s.release t).modeSwitch = s.modeSwitch := rfl

@[simp] theorem State.release_pre (s : State) (t : State) :
    (s.release t).pre = s.pre := rfl

@[simp] theorem State.release_stale (s : State) (t : State) :
    (s.release t).stale = s.stale := rfl

@[simp] theorem State.release_stores (s : State) (t : State) :
    (s.release t).stores = s.stores := rfl

@[simp] theorem State.release_flushed (s : State) (t : State) :
    (s.release t).flushed = s.flushed := rfl

@[simp] theorem State.release_mem (s : State) (t : State) :
    (s.release t).mem = s.mem := rfl

@[simp] theorem State.release_pins (s : State) (t : State) :
    (s.release t).pins = s.pins := rfl

@[simp] theorem State.release_platform (s : State) (t : State) :
    (s.release t).platform = s.platform := rfl

@[simp] theorem State.release_out (s : State) (t : State) :
    (s.release t).out = s.out := rfl

@[simp] theorem State.release_draws (s : State) (t : State) :
    (s.release t).draws = s.draws := rfl

@[simp] theorem State.release_seg (s : State) (t : State) (q : SReg) :
    (s.release t).seg q = s.seg q := by cases q <;> simp [State.seg]

@[simp] theorem State.ioWrite_regs (s : State) (p : Word) (w : Width) (v : Word) :
    (s.ioWrite p w v).regs = s.regs := by
  unfold State.ioWrite; split <;> rfl

@[simp] theorem State.ioWrite_ip (s : State) (p : Word) (w : Width) (v : Word) :
    (s.ioWrite p w v).ip = s.ip := by
  unfold State.ioWrite; split <;> rfl

@[simp] theorem State.ioWrite_ipCarry (s : State) (p : Word) (w : Width) (v : Word) :
    (s.ioWrite p w v).ipCarry = s.ipCarry := by
  unfold State.ioWrite; split <;> rfl

@[simp] theorem State.ioWrite_curIp (s : State) (p : Word) (w : Width) (v : Word) :
    (s.ioWrite p w v).curIp = s.curIp := by
  unfold State.ioWrite; split <;> rfl

@[simp] theorem State.ioWrite_flags (s : State) (p : Word) (w : Width) (v : Word) :
    (s.ioWrite p w v).flags = s.flags := by
  unfold State.ioWrite; split <;> rfl

@[simp] theorem State.ioWrite_msw (s : State) (p : Word) (w : Width) (v : Word) :
    (s.ioWrite p w v).msw = s.msw := by
  unfold State.ioWrite; split <;> rfl

@[simp] theorem State.ioWrite_es (s : State) (p : Word) (w : Width) (v : Word) :
    (s.ioWrite p w v).es = s.es := by
  unfold State.ioWrite; split <;> rfl

@[simp] theorem State.ioWrite_cs (s : State) (p : Word) (w : Width) (v : Word) :
    (s.ioWrite p w v).cs = s.cs := by
  unfold State.ioWrite; split <;> rfl

@[simp] theorem State.ioWrite_ss (s : State) (p : Word) (w : Width) (v : Word) :
    (s.ioWrite p w v).ss = s.ss := by
  unfold State.ioWrite; split <;> rfl

@[simp] theorem State.ioWrite_ds (s : State) (p : Word) (w : Width) (v : Word) :
    (s.ioWrite p w v).ds = s.ds := by
  unfold State.ioWrite; split <;> rfl

@[simp] theorem State.ioWrite_cpl (s : State) (p : Word) (w : Width) (v : Word) :
    (s.ioWrite p w v).cpl = s.cpl := by
  unfold State.ioWrite; split <;> rfl

@[simp] theorem State.ioWrite_gdtr (s : State) (p : Word) (w : Width) (v : Word) :
    (s.ioWrite p w v).gdtr = s.gdtr := by
  unfold State.ioWrite; split <;> rfl

@[simp] theorem State.ioWrite_idtr (s : State) (p : Word) (w : Width) (v : Word) :
    (s.ioWrite p w v).idtr = s.idtr := by
  unfold State.ioWrite; split <;> rfl

@[simp] theorem State.ioWrite_ldtr (s : State) (p : Word) (w : Width) (v : Word) :
    (s.ioWrite p w v).ldtr = s.ldtr := by
  unfold State.ioWrite; split <;> rfl

@[simp] theorem State.ioWrite_tr (s : State) (p : Word) (w : Width) (v : Word) :
    (s.ioWrite p w v).tr = s.tr := by
  unfold State.ioWrite; split <;> rfl

@[simp] theorem State.ioWrite_run (s : State) (p : Word) (w : Width) (v : Word) :
    (s.ioWrite p w v).run = s.run := by
  unfold State.ioWrite; split <;> rfl

@[simp] theorem State.ioWrite_nmiPending (s : State) (p : Word) (w : Width) (v : Word) :
    (s.ioWrite p w v).nmiPending = s.nmiPending := by
  unfold State.ioWrite; split <;> rfl

@[simp] theorem State.ioWrite_nmiInService (s : State) (p : Word) (w : Width) (v : Word) :
    (s.ioWrite p w v).nmiInService = s.nmiInService := by
  unfold State.ioWrite; split <;> rfl

@[simp] theorem State.ioWrite_nmiLast (s : State) (p : Word) (w : Width) (v : Word) :
    (s.ioWrite p w v).nmiLast = s.nmiLast := by
  unfold State.ioWrite; split <;> rfl

@[simp] theorem State.ioWrite_intInhibit (s : State) (p : Word) (w : Width) (v : Word) :
    (s.ioWrite p w v).intInhibit = s.intInhibit := by
  unfold State.ioWrite; split <;> rfl

@[simp] theorem State.ioWrite_tfAtStart (s : State) (p : Word) (w : Width) (v : Word) :
    (s.ioWrite p w v).tfAtStart = s.tfAtStart := by
  unfold State.ioWrite; split <;> rfl

@[simp] theorem State.ioWrite_intrHeld (s : State) (p : Word) (w : Width) (v : Word) :
    (s.ioWrite p w v).intrHeld = s.intrHeld := by
  unfold State.ioWrite; split <;> rfl

@[simp] theorem State.ioWrite_boundaryStep (s : State) (p : Word) (w : Width) (v : Word) :
    (s.ioWrite p w v).boundaryStep = s.boundaryStep := by
  unfold State.ioWrite; split <;> rfl

@[simp] theorem State.ioWrite_pxOverrun (s : State) (p : Word) (w : Width) (v : Word) :
    (s.ioWrite p w v).pxOverrun = s.pxOverrun := by
  unfold State.ioWrite; split <;> rfl

@[simp] theorem State.ioWrite_pxOperand (s : State) (p : Word) (w : Width) (v : Word) :
    (s.ioWrite p w v).pxOperand = s.pxOperand := by
  unfold State.ioWrite; split <;> rfl

@[simp] theorem State.ioWrite_pxInhibit (s : State) (p : Word) (w : Width) (v : Word) :
    (s.ioWrite p w v).pxInhibit = s.pxInhibit := by
  unfold State.ioWrite; split <;> rfl

@[simp] theorem State.ioWrite_modeSwitch (s : State) (p : Word) (w : Width) (v : Word) :
    (s.ioWrite p w v).modeSwitch = s.modeSwitch := by
  unfold State.ioWrite; split <;> rfl

@[simp] theorem State.ioWrite_pre (s : State) (p : Word) (w : Width) (v : Word) :
    (s.ioWrite p w v).pre = s.pre := by
  unfold State.ioWrite; split <;> rfl

@[simp] theorem State.ioWrite_stale (s : State) (p : Word) (w : Width) (v : Word) :
    (s.ioWrite p w v).stale = s.stale := by
  unfold State.ioWrite; split <;> rfl

@[simp] theorem State.ioWrite_stores (s : State) (p : Word) (w : Width) (v : Word) :
    (s.ioWrite p w v).stores = s.stores := by
  unfold State.ioWrite; split <;> rfl

@[simp] theorem State.ioWrite_clock (s : State) (p : Word) (w : Width) (v : Word) :
    (s.ioWrite p w v).clock = s.clock := by
  unfold State.ioWrite; split <;> rfl

@[simp] theorem State.ioWrite_flushed (s : State) (p : Word) (w : Width) (v : Word) :
    (s.ioWrite p w v).flushed = s.flushed := by
  unfold State.ioWrite; split <;> rfl

@[simp] theorem State.ioWrite_mem (s : State) (p : Word) (w : Width) (v : Word) :
    (s.ioWrite p w v).mem = s.mem := by
  unfold State.ioWrite; split <;> rfl

@[simp] theorem State.ioWrite_pins (s : State) (p : Word) (w : Width) (v : Word) :
    (s.ioWrite p w v).pins = s.pins := by
  unfold State.ioWrite; split <;> rfl

@[simp] theorem State.ioWrite_platform (s : State) (p : Word) (w : Width) (v : Word) :
    (s.ioWrite p w v).platform = s.platform := by
  unfold State.ioWrite; split <;> rfl

@[simp] theorem State.ioWrite_draws (s : State) (p : Word) (w : Width) (v : Word) :
    (s.ioWrite p w v).draws = s.draws := by
  unfold State.ioWrite; split <;> rfl

@[simp] theorem State.ioWrite_seg (s : State) (p : Word) (w : Width) (v : Word) (q : SReg) :
    (s.ioWrite p w v).seg q = s.seg q := by cases q <;> simp [State.seg]

end Sys2Proof.Machine
end

