-- ==== Sys2Proof/Laws/Memory.lean ====
section
/-! SUPPORT. Memory: a read after a write, and the canonical form. -/

namespace Sys2Proof.Machine

/-! ## Lists of bytes -/

theorem Memory.read_insert (m : List Host.Cell) (k : Nat) (v : Byte) (j : Nat) :
    Memory.read (Memory.insert m k v) j = if j = k then v else Memory.read m j := by
  induction m with
  | nil => simp [Memory.insert, Memory.read]
  | cons c t ih =>
    obtain ⟨a, b⟩ := c
    simp only [Memory.insert]
    split
    · rename_i h
      simp [Memory.read]
    · split
      · subst_vars
        simp only [Memory.read]
        split <;> rfl
      · simp only [Memory.read, ih]
        split <;> split <;> simp_all

theorem Memory.read_filter (m : List Host.Cell) (k j : Nat) :
    Memory.read (m.filter (fun c => c.1 != k)) j =
      if j = k then Memory.unlisted else Memory.read m j := by
  induction m with
  | nil => simp [Memory.read]
  | cons c t ih =>
    obtain ⟨a, b⟩ := c
    by_cases h : a = k
    · subst h
      simp only [List.filter_cons, bne_self_eq_false, Bool.false_eq_true, ↓reduceIte, ih, Memory.read]
      split <;> rfl
    · have : (a != k) = true := by simpa using h
      simp only [List.filter_cons, this, ↓reduceIte, ih, Memory.read]
      split <;> split <;> simp_all

/-- A byte read after a byte is written, whatever the list. -/
theorem Memory.read_write (m : List Host.Cell) (k : Nat) (v : Byte) (j : Nat) :
    Memory.read (Memory.write m k v) j = if j = k then v else Memory.read m j := by
  unfold Memory.write
  split
  · subst_vars; exact Memory.read_filter m k j
  · exact Memory.read_insert m k v j

/-! ## The canonical form -/

/-- The address of the first entry of a list lies above a bound. -/
def Memory.above (n : Nat) : List Host.Cell → Prop
  | [] => True
  | (a, _) :: _ => n < a

theorem Memory.wf_cons (a : Nat) (b : Byte) (t : List Host.Cell) :
    Memory.wf ((a, b) :: t) = true ↔
      a < 2 ^ 24 ∧ b ≠ Memory.unlisted ∧ Memory.above a t ∧ Memory.wf t = true := by
  cases t with
  | nil => simp [Memory.wf, Memory.above]
  | cons c t => obtain ⟨a', b'⟩ := c; simp [Memory.wf, Memory.above, and_assoc]

theorem Memory.above_trans {n a : Nat} {t : List Host.Cell} (h : n < a) (ht : Memory.above a t) :
    Memory.above n t := by
  cases t with
  | nil => trivial
  | cons c t => exact Nat.lt_trans h ht

theorem Memory.above_insert {n k : Nat} {t : List Host.Cell} (v : Byte) (h : n < k)
    (ht : Memory.above n t) : Memory.above n (Memory.insert t k v) := by
  cases t with
  | nil => exact h
  | cons c t =>
    obtain ⟨a, b⟩ := c
    simp only [Memory.insert]
    split
    · exact h
    · split <;> simp_all [Memory.above]

theorem Memory.wf_insert {m : List Host.Cell} {k : Nat} {v : Byte} (hm : Memory.wf m = true)
    (hk : k < 2 ^ 24) (hv : v ≠ Memory.unlisted) : Memory.wf (Memory.insert m k v) = true := by
  induction m with
  | nil => exact (Memory.wf_cons k v []).2 ⟨hk, hv, trivial, rfl⟩
  | cons c t ih =>
    obtain ⟨a, b⟩ := c
    obtain ⟨ha, hb, hat, ht⟩ := (Memory.wf_cons a b t).1 hm
    simp only [Memory.insert]
    split
    · exact (Memory.wf_cons _ _ _).2 ⟨hk, hv, by assumption, hm⟩
    · split
      · subst_vars; exact (Memory.wf_cons _ _ _).2 ⟨ha, hv, hat, ht⟩
      · exact (Memory.wf_cons _ _ _).2 ⟨ha, hb, Memory.above_insert v (by omega) hat, ih ht⟩

theorem Memory.above_filter {n : Nat} {t : List Host.Cell} (p : Host.Cell → Bool)
    (hm : Memory.wf t = true) (ht : Memory.above n t) : Memory.above n (t.filter p) := by
  induction t with
  | nil => trivial
  | cons c t ih =>
    obtain ⟨a, b⟩ := c
    obtain ⟨_, _, hat, htt⟩ := (Memory.wf_cons a b t).1 hm
    simp only [List.filter_cons]
    split
    · exact ht
    · exact ih htt (Memory.above_trans ht hat)

theorem Memory.wf_filter {m : List Host.Cell} (p : Host.Cell → Bool) (hm : Memory.wf m = true) :
    Memory.wf (m.filter p) = true := by
  induction m with
  | nil => rfl
  | cons c t ih =>
    obtain ⟨a, b⟩ := c
    obtain ⟨ha, hb, hat, ht⟩ := (Memory.wf_cons a b t).1 hm
    simp only [List.filter_cons]
    split
    · exact (Memory.wf_cons _ _ _).2 ⟨ha, hb, Memory.above_filter p ht hat, ih ht⟩
    · exact ih ht

/-- A write keeps the canonical form. -/
theorem Memory.wf_write {m : List Host.Cell} {k : Nat} (v : Byte) (hm : Memory.wf m = true)
    (hk : k < 2 ^ 24) : Memory.wf (Memory.write m k v) = true := by
  unfold Memory.write
  split
  · exact Memory.wf_filter _ hm
  · exact Memory.wf_insert hm hk (by assumption)

/-- The machine right after reset has its memory in canonical form. -/
theorem Memory.wf_reset : Memory.wf State.reset.mem = true := rfl

/-! ## Bytes and words of the machine -/

/-- The location of an address depends on the mode and on the system around the processor. -/
theorem State.physAddr_congr {s t : State} (hp : t.platform = s.platform)
    (hm : t.msw.pe = s.msw.pe) (a : Addr) : t.physAddr a = s.physAddr a := by
  simp only [State.physAddr, hp, hm]

/-- Every address is its own location where A23 to A20 are decoded, and in protected mode. -/
theorem State.physAddr_eq {s : State} (h : s.platform.a20Decoded = true ∨ s.msw.pe = true)
    (a : Addr) : s.physAddr a = a.toNat := by
  rcases h with h | h <;> simp [State.physAddr, h]

theorem State.physAddr_lt (s : State) (a : Addr) : s.physAddr a < 2 ^ 24 := by
  unfold State.physAddr
  split
  · exact Nat.lt_of_le_of_lt (Nat.mod_le _ _) a.isLt
  · exact a.isLt

/-- The two bytes of a word have two locations. -/
theorem State.physAddr_succ_ne (s : State) (a : Addr) : s.physAddr (a + 1) ≠ s.physAddr a := by
  have h : (a + 1).toNat = (a.toNat + 1) % 2 ^ 24 := by simp [BitVec.toNat_add]
  unfold State.physAddr
  split <;> omega

theorem State.physAddr_ne_succ (s : State) (a : Addr) : s.physAddr a ≠ s.physAddr (a + 1) :=
  (s.physAddr_succ_ne a).symm

/-- What a location answers depends on memory, the system around the processor and the draws. -/
theorem State.byteAt_congr {s t : State} (hm : t.mem = s.mem) (hp : t.platform = s.platform)
    (hd : t.draws = s.draws) (k : Nat) : t.byteAt k = s.byteAt k := by
  simp only [State.byteAt, hm, hp, hd]

theorem State.readByte_congr {s t : State} (hm : t.mem = s.mem) (hp : t.platform = s.platform)
    (hd : t.draws = s.draws) (hw : t.msw.pe = s.msw.pe) (a : Addr) :
    t.readByte a = s.readByte a := by
  simp only [State.readByte, State.physAddr_congr hp hw, State.byteAt_congr hm hp hd]

@[simp] theorem State.physAddr_writeByte (s : State) (a : Addr) (v : Byte) (b : Addr) :
    (s.writeByte a v).physAddr b = s.physAddr b := rfl

@[simp] theorem State.ramAt_writeByte (s : State) (a : Addr) (v : Byte) (k : Nat) :
    (s.writeByte a v).ramAt k = s.ramAt k := rfl

/-- What a location answers after a byte is written. -/
theorem State.byteAt_writeByte (s : State) (a : Addr) (v : Byte) (k : Nat) :
    (s.writeByte a v).byteAt k =
      if k = s.physAddr a ∧ s.ramAt k = true then v else s.byteAt k := by
  simp only [State.byteAt, State.writeByte_mem, State.writeByte_platform, State.writeByte_draws,
    State.memAfter, State.ramAt]
  by_cases hk : k = s.physAddr a
  · subst hk
    by_cases h : s.platform.kindAt (s.physAddr a) = .ram <;> simp [h, Memory.read_write]
  · by_cases h : s.platform.kindAt (s.physAddr a) = .ram <;> simp [h, hk, Memory.read_write]

/-- A byte read after a byte is written. -/
theorem State.readByte_writeByte (s : State) (a : Addr) (v : Byte) (b : Addr) :
    (s.writeByte a v).readByte b =
      if s.physAddr b = s.physAddr a ∧ s.ramAt (s.physAddr b) = true then v else s.readByte b := by
  simp only [State.readByte, State.physAddr_writeByte, State.byteAt_writeByte]

theorem State.readByte_writeByte_same {s : State} {a : Addr} (v : Byte)
    (h : s.ramAt (s.physAddr a) = true) : (s.writeByte a v).readByte a = v := by
  simp [State.readByte_writeByte, h]

theorem State.readByte_writeByte_ne {s : State} {a b : Addr} (v : Byte)
    (h : s.physAddr b ≠ s.physAddr a) : (s.writeByte a v).readByte b = s.readByte b := by
  simp [State.readByte_writeByte, h]

theorem State.wf_writeByte {s : State} (a : Addr) (v : Byte) (h : Memory.wf s.mem = true) :
    Memory.wf (s.writeByte a v).mem = true := by
  rw [State.writeByte_mem, State.memAfter]
  split
  · exact Memory.wf_write v h (s.physAddr_lt a)
  · exact h

@[simp] theorem State.readByte_setStores (s : State) (l : List Store) (b : Addr) :
    (s.setStores l).readByte b = s.readByte b := rfl

@[simp] theorem State.readByte_lockedSince (s t : State) (n : Nat) (b : Addr) :
    (s.lockedSince t n).readByte b = s.readByte b := rfl

/-- A byte read after a word is written: its high byte was written last. -/
theorem State.readByte_writeWord (s : State) (a : Addr) (v : Word) (b : Addr) :
    (s.writeWord a v).readByte b =
      if s.physAddr b = s.physAddr (a + 1) ∧ s.ramAt (s.physAddr b) = true then hiByte v
      else if s.physAddr b = s.physAddr a ∧ s.ramAt (s.physAddr b) = true then loByte v
      else s.readByte b := by
  simp only [State.writeWord, State.readByte_setStores, State.readByte_writeByte,
    State.physAddr_writeByte, State.ramAt_writeByte]

theorem State.readByte_writeWord_ne {s : State} {a b : Addr} (v : Word)
    (h0 : s.physAddr b ≠ s.physAddr a) (h1 : s.physAddr b ≠ s.physAddr (a + 1)) :
    (s.writeWord a v).readByte b = s.readByte b := by
  rw [State.readByte_writeWord, if_neg fun h => h1 h.1, if_neg fun h => h0 h.1]

theorem mkWord_lo_hi (v : Word) : mkWord (loByte v) (hiByte v) = v := by
  apply BitVec.eq_of_getLsbD_eq
  intro i hi
  simp only [mkWord, loByte, hiByte, BitVec.getLsbD_append, BitVec.getLsbD_setWidth,
    BitVec.getLsbD_ushiftRight]
  split
  · simp [*]
  · simp [show i - 8 < 8 by omega, show 8 + (i - 8) = i by omega]

theorem loByte_mkWord (l h : Byte) : loByte (mkWord l h) = l := by
  apply BitVec.eq_of_getLsbD_eq
  intro i hi
  rw [mkWord, loByte, BitVec.getLsbD_setWidth, BitVec.getLsbD_append]
  simp [hi]

theorem hiByte_mkWord (l h : Byte) : hiByte (mkWord l h) = h := by
  apply BitVec.eq_of_getLsbD_eq
  intro i hi
  rw [mkWord, hiByte, BitVec.getLsbD_setWidth, BitVec.getLsbD_ushiftRight, BitVec.getLsbD_append]
  simp [hi]

/-- A word read where it was written, in RAM. -/
theorem State.readWord_writeWord_same {s : State} {a : Addr} (v : Word)
    (h0 : s.ramAt (s.physAddr a) = true) (h1 : s.ramAt (s.physAddr (a + 1)) = true) :
    (s.writeWord a v).readWord a = v := by
  simp only [State.readWord, State.readByte_writeWord, State.physAddr_ne_succ, h0, h1, false_and,
    and_self, ↓reduceIte, mkWord_lo_hi]

theorem State.wf_writeWord {s : State} (a : Addr) (v : Word) (h : Memory.wf s.mem = true) :
    Memory.wf (s.writeWord a v).mem = true := State.wf_writeByte _ _ (State.wf_writeByte _ _ h)

theorem State.wf_writeWords {s : State} (vs : List Word) (a : Addr) (h : Memory.wf s.mem = true) :
    Memory.wf (s.writeWords vs a).mem = true := by
  induction vs generalizing s a with
  | nil => exact h
  | cons v vs ih => exact ih _ (State.wf_writeWord a v h)

theorem State.wf_store {s : State} (r : SReg) (o : Word) (w : Width) (v : Word)
    (h : Memory.wf s.mem = true) : Memory.wf (s.store r o w v).mem = true := by
  cases w
  · exact State.wf_writeByte _ _ h
  · exact State.wf_writeWord _ _ h

theorem State.wf_pushRaw {s : State} (v : Word) (h : Memory.wf s.mem = true) :
    Memory.wf (s.pushRaw v).mem = true := State.wf_writeWord _ _ h

theorem State.wf_pushAllRaw {s : State} (vs : List Word) (h : Memory.wf s.mem = true) :
    Memory.wf (s.pushAllRaw vs).mem = true := by
  induction vs generalizing s with
  | nil => exact h
  | cons v vs ih => exact ih (State.wf_pushRaw v h)

theorem State.wf_rmPut {s : State} (w : Width) (rm : RM) (v : Word) (h : Memory.wf s.mem = true) :
    Memory.wf (s.rmPut w rm v).mem = true := by
  cases rm
  · cases w <;> exact h
  · exact State.wf_store _ _ _ _ h

theorem State.wf_setAccessed {s : State} (a : Addr) (d : Desc) (h : Memory.wf s.mem = true) :
    Memory.wf (s.setAccessed a d).mem = true := by
  unfold State.setAccessed
  split
  · exact h
  · exact State.wf_writeByte _ _ h

/-! ## What a read finds (R132, R708, R735) -/

/-- No other master stores anything in the course of this step. -/
theorem State.masterOps_eq_nil {s : State}
    (h : s.platform.otherMasters = false ∨ s.pins.masterStores = []) : s.masterOps = [] := by
  rcases h with h | h <;> simp [State.masterOps, h]

/-- Other masters' operations are made one after the other: more of them at a later bus time. -/
theorem State.passedAt_le_succ (s : State) (m : Nat) : s.passedAt m ≤ s.passedAt (m + 1) := by
  simp only [State.passedAt]; omega

theorem State.passed_mono (s : State) {m n : Nat} (h : m ≤ n) : s.passed m ≤ s.passed n := by
  unfold State.passed
  split
  · exact Nat.le_refl 0
  · induction h with
    | refl => exact Nat.le_refl _
    | step _ ih => exact Nat.le_trans ih (s.passedAt_le_succ _)

theorem State.gap_le (s : State) (m n : Nat) : s.gap m n ≤ s.masterOps.length - n := by
  simp only [State.gap]
  split
  · exact Nat.zero_le _
  · split
    · exact Nat.le_trans (List.takeWhile_prefix _).length_le (by simp)
    · simp

/-- No more operations come than there are. -/
theorem State.passed_le (s : State) (m : Nat) : s.passed m ≤ s.masterOps.length := by
  unfold State.passed
  split
  · exact Nat.zero_le _
  · induction m with
    | zero => exact Nat.le_of_lt_succ (Nat.mod_lt _ (Nat.succ_pos _))
    | succ m ih =>
      simp only [State.passedAt]
      have h1 := s.gap_le m (s.passedAt m)
      have h2 := Nat.mod_lt (Config.freeWord s.draws (.masterGap (m + 1))).toNat
        (Nat.succ_pos (s.gap m (s.passedAt m)))
      rw [Nat.succ_eq_add_one] at h2
      omega

/-- While a LOCK prefix is active no other master's operation comes between those of the processor
(R130). -/
theorem State.passed_locked {s : State} (h : s.pre.lock = true) {m : Nat} (hm : m ≤ s.clock.apart) :
    s.passed m = s.passed 0 := by
  unfold State.passed
  split
  · rfl
  · induction m with
    | zero => rfl
    | succ m ih =>
      have hm' : m < s.clock.apart := hm
      simpa [State.passedAt, State.gap, h, hm', Nat.mod_one] using ih (Nat.le_of_lt hm')

/-- Under a LOCK prefix none comes between the halves of a word of an instruction at an odd address. -/
theorem State.passed_locked_halves {s : State} (h : s.pre.lock = true) {m : Nat} (hm : m % 2 = 0)
    (hd : m < BusClock.delivery) : s.passed (m + 1) = s.passed m := by
  unfold State.passed
  split
  · rfl
  · simp [State.passedAt, State.gap, h, hm, hd, Nat.mod_one]

/-- No operation of a master that uses HOLD comes between the two halves of a word at an odd address
(R123, R145). -/
theorem State.passed_halves (s : State) {m : Nat} (h : m % 2 = 0) :
    ∀ op ∈ (s.masterOps.take (s.passed (m + 1))).drop (s.passed m), op.hold = false := by
  unfold State.passed
  split
  · simp
  · intro op hop
    rw [List.drop_take] at hop
    have key : s.passedAt (m + 1) - s.passedAt m ≤
        ((s.masterOps.drop (s.passedAt m)).takeWhile fun op => !op.hold).length := by
      have h2 := Nat.mod_lt (Config.freeWord s.draws (.masterGap (m + 1))).toNat
        (Nat.succ_pos (s.gap m (s.passedAt m)))
      have h3 : s.gap m (s.passedAt m) ≤
          ((s.masterOps.drop (s.passedAt m)).takeWhile fun op => !op.hold).length := by
        simp only [State.gap, h, ↓reduceIte]
        split <;> omega
      rw [Nat.succ_eq_add_one] at h2
      simp only [State.passedAt]
      omega
    rw [← List.takeWhile_append_dropWhile (p := fun op : MasterOp => !op.hold)
      (l := s.masterOps.drop (s.passedAt m)), List.take_append_of_le_length key] at hop
    have := List.all_takeWhile (l := s.masterOps.drop (s.passedAt m))
      (p := fun op : MasterOp => !op.hold)
    simpa using List.all_eq_true.1 this op (List.mem_of_mem_take hop)

/-- Where no other master stores, a read of a location that is driven finds what memory holds. -/
theorem State.byteSeen_quiet {s : State} (h : s.masterOps = []) {k : Nat}
    (hk : s.platform.kindAt k ≠ .undriven) (m : Nat) : s.byteSeen m k = s.byteAt k := by
  simp [State.byteSeen, hk, h]

/-- In a locked sequence every read of a location that is driven finds what memory held at its start
(R129). -/
theorem State.byteSeen_held {s : State} {x : Nat} (h : s.clock.held = some x) {k : Nat}
    (hk : s.platform.kindAt k ≠ .undriven) (m n : Nat) : s.byteSeen m k = s.byteSeen n k := by
  simp [State.byteSeen, State.seen, hk, h]

theorem State.busByte_quiet {s : State} (h : s.masterOps = []) {a : Addr}
    (hk : s.platform.kindAt (s.physAddr a) ≠ .undriven) (i : Nat) :
    s.busByte i a = s.readByte a := s.byteSeen_quiet h hk _

theorem State.busWord_quiet {s : State} (h : s.masterOps = []) {a : Addr}
    (h0 : s.platform.kindAt (s.physAddr a) ≠ .undriven)
    (h1 : s.platform.kindAt (s.physAddr (a + 1)) ≠ .undriven) (i : Nat) :
    s.busWord i a = s.readWord a := by
  simp only [State.busWord, s.byteSeen_quiet h h0, s.byteSeen_quiet h h1]; rfl

theorem State.lockedWord_quiet {s : State} (h : s.masterOps = []) {a : Addr}
    (h0 : s.platform.kindAt (s.physAddr a) ≠ .undriven)
    (h1 : s.platform.kindAt (s.physAddr (a + 1)) ≠ .undriven) (i : Nat) :
    s.lockedWord i a = s.readWord a := by
  simp only [State.lockedWord, s.busByte_quiet h h0, s.busByte_quiet h h1]; rfl

/-- A word at an even address is read in one operation (R125). -/
theorem State.busWord_even (s : State) (i : Nat) {a : Addr} (h : a.getLsbD 0 = false) :
    s.busWord i a = s.lockedWord i a := by
  simp only [State.busWord, State.lockedWord, State.busByte, h, Bool.false_eq_true, ↓reduceIte,
    Nat.add_zero]

theorem State.await_of {s : State} {a : Addr} {n : Nat} (h : s.answersAt a n = true) :
    s.await a n = .ok () := by simp [State.await, h]

theorem State.await_eq_ok (s : State) (a : Addr) (n : Nat) (u : Unit) :
    s.await a n = .ok u ↔ s.answersAt a n = true := by
  unfold State.await
  split <;> simp_all

/-- Where no region is silent no location is. -/
theorem Platform.kindAt_ne_silent {p : Platform} (h : p.answers = true) (k : Nat) :
    p.kindAt k ≠ .silent := by
  unfold Platform.kindAt
  split
  · rename_i r hr
    have := List.all_eq_true.1 h r (List.mem_of_find?_eq_some hr)
    simpa using this
  · simp

theorem State.answersAt_of {s : State} (h : s.platform.answers = true) (a : Addr) (n : Nat) :
    s.answersAt a n = true := by
  simp [State.answersAt, Platform.kindAt_ne_silent h]

theorem State.rmAnswers_of {s : State} (h : s.platform.answers = true) (w : Width) (rm : RM) :
    s.rmAnswers w rm = true := by
  cases rm
  · rfl
  · exact State.answersAt_of h _ _

/-! ## Stores in their order: other bus masters and RESET (R132, R761, R785) -/

theorem State.wf_storeCells (s : State) {m : List Host.Cell} (cells : List (Addr × Byte))
    (h : Memory.wf m = true) : Memory.wf (s.storeCells m cells) = true := by
  unfold State.storeCells
  induction cells generalizing m with
  | nil => exact h
  | cons c cs ih =>
    refine ih ?_
    dsimp only
    split
    · exact Memory.wf_write _ h (s.physAddr_lt _)
    · exact h

theorem State.wf_foldl_storeCells (s : State) {m : List Host.Cell}
    (ops : List (List (Addr × Byte))) (h : Memory.wf m = true) :
    Memory.wf (ops.foldl s.storeCells m) = true := by
  induction ops generalizing m with
  | nil => exact h
  | cons c cs ih => exact ih (s.wf_storeCells c h)

theorem State.wf_otherStores (s : State) {m : List Host.Cell} (ops : List MasterOp)
    (h : Memory.wf m = true) : Memory.wf (s.otherStores m ops) = true :=
  s.wf_foldl_storeCells _ h

theorem State.wf_merge (s : State) {m : List Host.Cell} (n : Nat) (xs : List Store)
    (h : Memory.wf m = true) : Memory.wf (s.merge m n xs).1 = true := by
  induction xs generalizing m n with
  | nil => exact h
  | cons x xs ih =>
    exact ih _ (s.wf_otherStores _ (s.wf_storeCells _ (s.wf_otherStores _ h)))

/-- Memory as a byte stored through `writeByte` leaves it. -/
theorem State.storeCells_mem (s : State) (a : Addr) (v : Byte) :
    s.storeCells s.mem [(a, v)] = (s.writeByte a v).mem := rfl

/-- The record of a word's stores, made again, gives the memory the word leaves. -/
theorem State.storeCells_writeWord (s : State) (a : Addr) (v : Word) :
    (storeOps a .word v).foldl s.storeCells s.mem = (s.writeWord a v).mem := by
  simp only [storeOps]
  split <;> rfl

/-- What a step does before anything else: the NMI latch, what other masters have stored, a fresh draw,
and no store made yet. -/
theorem State.sample_eq (s : State) :
    s.sample = { s with
      nmiPending := s.nmiPending || (s.pins.nmi && !s.nmiLast)
      nmiLast := s.pins.nmi
      stores := []
      clock := s.sample.clock
      flushed := none
      mem := s.sample.mem
      stale := s.sample.stale
      draws := s.draws + 1 } := rfl

theorem State.wf_sample {s : State} (h : Memory.wf s.mem = true) :
    Memory.wf s.sample.mem = true := State.wf_otherStores _ _ h

/-- Where no other master stores, sampling leaves memory and the code bytes as they are. -/
theorem State.sample_quiet {s : State}
    (h : s.platform.otherMasters = false ∨ s.pins.masterStores = []) :
    s.sample = { s with
      nmiPending := s.nmiPending || (s.pins.nmi && !s.nmiLast)
      nmiLast := s.pins.nmi
      stores := []
      clock := s.sample.clock
      flushed := none
      draws := s.draws + 1 } := by
  have ht : ({ s.sampleNmi with
      draws := s.draws + 1, stores := [], clock := BusClock.start, flushed := none } :
        State).masterOps = [] :=
    State.masterOps_eq_nil h
  have hs : s.sampled = { s with
      nmiPending := s.nmiPending || (s.pins.nmi && !s.nmiLast)
      nmiLast := s.pins.nmi
      stores := []
      clock := BusClock.start
      flushed := none
      draws := s.draws + 1 } := by
    simp only [State.sampled, ht, State.otherStores, State.staleAhead, List.take_nil, List.map_nil,
      List.filter_nil, List.flatMap_nil, List.nil_append, List.foldl_nil]
    rfl
  simp only [State.sample, hs]

/-- Without a LOCK prefix a step begins with the same clock always. -/
theorem State.sample_clock {s : State} (h : s.pre.lock = false) :
    s.sample.clock = BusClock.start := by
  have hl : s.sampled.pre.lock = false := h
  simp [State.sample, State.startClock, hl]

/-- Where no other master stores, the end of a step changes nothing. -/
theorem State.settle_quiet {s : State} (h : s.masterOps = []) (t : State) : s.settle t = t := by
  simp [State.settle, h]

theorem State.settled_quiet {s : State} (h : s.masterOps = [])
    (o : Host.Outcome State Fault Refusal) : s.settled o = o := by
  cases o <;> simp [State.settled, State.settle_quiet h]

/-- Other masters change memory, the older code bytes and their own list alone. -/
theorem State.settle_eq (s t : State) :
    s.settle t = { t with
      mem := (s.settle t).mem
      stale := (s.settle t).stale
      pins := { t.pins with masterStores := (s.settle t).pins.masterStores } } := by
  unfold State.settle
  split <;> rfl

/-- What other masters stored before a control transfer is seen at its target: where all they store in a
step comes before it, no older byte is recorded (R138). -/
theorem State.settle_stale {s t : State} {m : Nat} (h : t.flushed = some m)
    (hm : s.passed m = s.masterOps.length) : (s.settle t).stale = t.stale := by
  unfold State.settle
  split
  · rfl
  · simp [State.staleEnd, h, hm, State.staleAhead]

theorem State.wf_settle {s t : State} (hs : Memory.wf s.mem = true) (ht : Memory.wf t.mem = true) :
    Memory.wf (s.settle t).mem = true := by
  unfold State.settle
  split
  · exact ht
  · exact s.wf_otherStores _ (s.wf_merge _ _ hs)

/-- A step cut short keeps the first of its stores, in their order. -/
theorem State.cutAt_mem (s t : State) (reset : Bool) : ∃ n, n ≤ t.stores.length ∧
    (s.cutAt t reset).mem =
      ((t.stores.reverse.take n).map Store.cells).foldl s.storeCells s.mem :=
  ⟨_, Nat.le_of_lt_succ (Nat.mod_lt _ (Nat.succ_pos _)), rfl⟩

theorem State.wf_cutTo {s : State} (t : State) (n e : Nat) (h : Memory.wf s.mem = true) :
    Memory.wf (s.cutTo t n e).mem = true := s.wf_foldl_storeCells _ h

theorem State.wf_cutAt {s : State} (t : State) (reset : Bool) (h : Memory.wf s.mem = true) :
    Memory.wf (s.cutAt t reset).mem = true := s.wf_foldl_storeCells _ h

theorem State.wf_cutByReset {s : State} (t : State) (h : Memory.wf s.mem = true) :
    Memory.wf (s.cutByReset t).mem = true := State.wf_settle h (State.wf_cutAt t true h)

/-! ## What never answers (R708) -/

/-- Where every location answers, a step is what its instruction or event makes of it. -/
theorem State.answered_of {s : State} (h : s.platform.answers = true)
    (o : Host.Outcome State Fault Refusal) : s.answered o = o := by
  cases o <;> simp [State.answered, h]

theorem State.wf_answered {s t u : State} (hs : Memory.wf s.mem = true)
    (ht : Memory.wf t.mem = true) (h : s.answered (.next t) = .next u) :
    Memory.wf u.mem = true := by
  have key : Memory.wf (s.storesAnswered t).mem = true := by
    unfold State.storesAnswered
    dsimp only
    split
    · exact ht
    · exact s.wf_foldl_storeCells _ hs
  simp only [State.answered] at h
  split at h
  · cases h; exact ht
  · simp only [Host.Outcome.next.injEq] at h
    subst h
    split
    · exact State.wf_cutAt (s := s) _ _ hs
    · exact key

/-! ## Reads in the order of the bus (R131, R132) -/

/-- A bus operation leaves in a location that is RAM the last byte it stores there. -/
theorem State.read_storeCells (s : State) (m : List Host.Cell) (cells : List (Addr × Byte)) {k : Nat}
    (hk : s.ramAt k = true) :
    Memory.read (s.storeCells m cells) k =
      (((cells.filter fun c => s.physAddr c.1 == k).map fun c => c.2).getLast?).getD
        (Memory.read m k) := by
  unfold State.storeCells
  induction cells generalizing m with
  | nil => rfl
  | cons c cs ih =>
    rw [List.foldl_cons, ih]
    by_cases h : s.physAddr c.1 = k
    · subst h
      simp [hk, Memory.read_write, List.getLast?_cons]
    · have hne : (s.physAddr c.1 == k) = false := by simpa using h
      simp only [List.filter_cons, hne]
      split
      · rw [Memory.read_write, if_neg (by omega)]; rfl
      · rfl

/-- What is not RAM keeps what it holds. -/
theorem State.read_storeCells_rom (s : State) (m : List Host.Cell) (cells : List (Addr × Byte))
    {k : Nat} (hk : ¬s.ramAt k = true) : Memory.read (s.storeCells m cells) k = Memory.read m k := by
  unfold State.storeCells
  induction cells generalizing m with
  | nil => rfl
  | cons c cs ih =>
    rw [List.foldl_cons, ih]
    split
    · rename_i h
      rw [Memory.read_write, if_neg fun e : k = s.physAddr c.1 => hk (e ▸ h)]
    · rfl

/-- After other masters' operations a location holds the last byte they store there. -/
theorem State.read_otherStores (s : State) (m : List Host.Cell) (ops : List MasterOp) (k : Nat) :
    Memory.read (s.otherStores m ops) k =
      if s.ramAt k then (s.lastStored k ops).getD (Memory.read m k) else Memory.read m k := by
  unfold State.otherStores
  split <;> rename_i hk
  · unfold State.lastStored
    induction ops generalizing m with
    | nil => rfl
    | cons op ops ih =>
      rw [List.map_cons, List.foldl_cons, ih, s.read_storeCells m op.cells hk, List.flatMap_cons,
        List.filter_append, List.map_append, List.getLast?_append]
      cases ((List.filter (fun c => s.physAddr c.1 == k) (List.flatMap MasterOp.cells ops)).map
        fun c => c.2).getLast? <;> simp
  · induction ops generalizing m with
    | nil => rfl
    | cons op ops ih => rw [List.map_cons, List.foldl_cons, ih, s.read_storeCells_rom m op.cells hk]

/-- Before the step's first store a read finds what memory holds after the operations that other masters
have made by then. -/
theorem State.byteSeen_eq {s : State} (hs : s.stores = []) {k : Nat}
    (h : s.platform.kindAt k ≠ .undriven) (m : Nat) :
    s.byteSeen m k =
      ({ s with
        mem := s.otherStores s.mem ((s.masterOps.take (s.passed (s.seen m))).drop (s.passed 0)) } :
          State).byteAt k := by
  have hn : s.knownAt k = s.passed 0 := by rw [State.knownAt, hs]; rfl
  simp only [State.byteSeen, State.byteAt, if_neg h, s.read_otherStores, hn]
  by_cases hk : s.ramAt k = true
  · by_cases he : s.masterOps = []
    · simp [he, State.lastStored]
    · simp [he, hk]
  · simp [hk]

/-- Nothing but RESET and the stores of other masters that do not use HOLD happens to a machine whose bus
operation never ends. -/
theorem State.act_stuck {s : State} (h : s.run = .stuck) : s.act = .next s := by
  simp [State.act, h]

end Sys2Proof.Machine
end

