-- ==== Sys2Proof/Laws/Decode.lean ====
section
/-! SUPPORT. The operand bytes: decoding what the encoder writes. -/

namespace Sys2Proof

open Sys2Proof.Machine (mkWord_lo_hi)

/-- The three fields of a mod r/m byte (R289). -/
theorem modrmByte_fields (a : BitVec 2) (g c : BitVec 3) :
    mid3 (modrmByte a g c) = g ∧ mod2 (modrmByte a g c) = a ∧ lo3 (modrmByte a g c) = c := by
  revert a g c; decide

@[simp] theorem baseOf_number (b : AddrBase) : baseOf b.number = b := by cases b <;> rfl

/-- The mod r/m byte and displacement of a well-formed operand (R289, R290). -/
theorem parseRM_encodeRM (g : BitVec 3) (rm : RM) (h : rm.wellFormed) (rest : List Byte) :
    ∃ m tl, encodeRM g rm ++ rest = m :: tl ∧ mid3 m = g ∧ parseRM m tl = some (rm, rest) := by
  rcases rm with n | m
  · exact ⟨_, _, rfl, (modrmByte_fields _ _ _).1, by simp [parseRM, modrmByte_fields]⟩
  · rcases m with o | b | ⟨b, d⟩ | ⟨b, d⟩
    · exact ⟨_, _, rfl, (modrmByte_fields _ _ _).1, by
        simp [parseRM, modrmByte_fields, encodeWord, mkWord_lo_hi]⟩
    · refine ⟨_, _, rfl, (modrmByte_fields _ _ _).1, ?_⟩
      cases b <;>
        simp_all [parseRM, modrmByte_fields, RM.wellFormed, Mem.wellFormed, AddrBase.number, baseOf]
    · exact ⟨_, _, rfl, (modrmByte_fields _ _ _).1, by simp [parseRM, modrmByte_fields]⟩
    · exact ⟨_, _, rfl, (modrmByte_fields _ _ _).1, by
        simp [parseRM, modrmByte_fields, encodeWord, mkWord_lo_hi]⟩

end Sys2Proof
end

