-- ==== Sys2Proof/Laws/Ops.lean ====
section
/-! SUPPORT. What each shared operation can do: where it answers a state, which state, and when. -/

namespace Sys2Proof.Machine

/-! ## Operations that may raise -/

/-- A sequence answers b where its first part answers some a and the rest then answers b. -/
theorem Exec.bind_eq_ok {α β : Type} (x : Exec α) (f : α → Exec β) (b : β) :
    (x >>= f) = .ok b ↔ ∃ a, x = .ok a ∧ f a = .ok b := by
  cases x with
  | error e => simp [bind, Except.bind]
  | ok a => simp [bind, Except.bind]

@[simp] theorem Exec.ok_bind {α β : Type} (a : α) (f : α → Exec β) :
    ((Except.ok a : Exec α) >>= f) = f a := rfl

@[simp] theorem Exec.error_bind {α β : Type} (e : Stop) (f : α → Exec β) :
    ((Except.error e : Exec α) >>= f) = .error e := rfl

/-- What has raised goes no further. -/
@[simp] theorem raise_bind {α β : Type} (v : Nat) (code : Word) (f : α → Exec β) :
    ((raise v code : Exec α) >>= f) = raise v code := rfl

theorem require_eq (ok : Bool) (v : Nat) (code : Word) :
    require ok v code = if ok then .ok () else raise v code := rfl

@[simp] theorem require_true (v : Nat) (code : Word) : require true v code = .ok () := rfl

@[simp] theorem require_false (v : Nat) (code : Word) : require false v code = raise v code := rfl

theorem require_of {ok : Bool} (h : ok = true) (v : Nat) (code : Word) :
    require ok v code = .ok () := by subst h; rfl

theorem require_eq_ok (ok : Bool) (v : Nat) (code : Word) (u : Unit) :
    require ok v code = .ok u ↔ ok = true := by
  cases ok <;> simp [require, raise]

@[simp] theorem State.finish_ok (s t : State) : s.finish (.ok t) = .next t := rfl

@[simp] theorem State.finish_raise (s : State) (v : Nat) (code : Word) :
    s.finish (raise v code) = s.takeException (BitVec.ofNat 8 v) code .unchanged := rfl

@[simp] theorem State.finish_exc (s : State) (v : Byte) (code : Word) (left : Left) :
    s.finish (.error (.exc v code left)) = s.takeException v code left := rfl

@[simp] theorem State.finish_shutdown (s t : State) :
    s.finish (.error (.shutdown t)) = .next t.enterShutdown := rfl

@[simp] theorem State.finish_stuck (s t : State) :
    s.finish (.error (.stuck t)) = .next (t.enterStuck.release s) := rfl

@[simp] theorem State.finish_refuse (s : State) (r : Refusal) :
    s.finish (.error (.refuse r)) = .refused r := rfl

/-! ## References to memory (R107, R210) -/

theorem State.check_of {s : State} {a : Access} {r : SReg} {off : Word} {n : Nat}
    (h : s.accessOk a r off n = true) : s.check a r off n = .ok () := require_of h _ _

theorem State.check_fails {s : State} {a : Access} {r : SReg} {off : Word} {n : Nat}
    (h : s.accessOk a r off n = false) :
    s.check a r off n = raise (s.refVector r) 0#16 := by simp [State.check, h]

theorem State.checkWords_of {s : State} {a : Access} {r : SReg} {off : Word} {k : Nat}
    (h : s.wordsOk a r off k = true) : s.checkWords a r off k = .ok () := require_of h _ _

/-- A read answers what is found there, where its location answers (R708). -/
theorem State.fetchAt_eq_ok (s : State) (r : SReg) (off : Word) (w : Width) (i : Nat) (v : Word) :
    s.fetchAt r off w i = .ok v ↔
      s.answersAt (linear (s.seg r).base off) w.bytes = true ∧ s.load r off w i = v := by
  simp [State.fetchAt, Exec.bind_eq_ok, State.await_eq_ok]

theorem State.fetchAt_of {s : State} {r : SReg} {off : Word} {w : Width} (i : Nat)
    (h : s.answersAt (linear (s.seg r).base off) w.bytes = true) :
    s.fetchAt r off w i = .ok (s.load r off w i) := (State.fetchAt_eq_ok _ _ _ _ _ _).2 ⟨h, rfl⟩

theorem State.memRead_eq_ok (s : State) (r : SReg) (off : Word) (w : Width) (i : Nat) (v : Word) :
    s.memRead r off w i = .ok v ↔ s.accessOk .read r off w.bytes = true ∧
      s.answersAt (linear (s.seg r).base off) w.bytes = true ∧ s.load r off w i = v := by
  simp [State.memRead, Exec.bind_eq_ok, State.check, require_eq_ok, State.fetchAt_eq_ok]

theorem State.memRead_of {s : State} {r : SReg} {off : Word} {w : Width} (i : Nat)
    (h : s.accessOk .read r off w.bytes = true)
    (ha : s.answersAt (linear (s.seg r).base off) w.bytes = true) :
    s.memRead r off w i = .ok (s.load r off w i) :=
  (State.memRead_eq_ok _ _ _ _ _ _).2 ⟨h, ha, rfl⟩

/-- A read that passes its check at a location that never answers waits for ever (R708). -/
theorem State.memRead_stuck {s : State} {r : SReg} {off : Word} {w : Width} (i : Nat)
    (h : s.accessOk .read r off w.bytes = true)
    (ha : s.answersAt (linear (s.seg r).base off) w.bytes = false) :
    s.memRead r off w i = .error (.stuck s) := by
  simp [State.memRead, State.check_of h, State.fetchAt, State.await, ha]

theorem State.memWrite_of {s : State} {r : SReg} {off : Word} {w : Width} (v : Word)
    (h : s.accessOk .write r off w.bytes = true) :
    s.memWrite r off w v = .ok (s.store r off w v) := by
  simp [State.memWrite, State.check_of h]

theorem State.memWrite_eq_ok (s : State) (r : SReg) (off : Word) (w : Width) (v : Word)
    (t : State) : s.memWrite r off w v = .ok t ↔
      s.accessOk .write r off w.bytes = true ∧ s.store r off w v = t := by
  simp [State.memWrite, Exec.bind_eq_ok, State.check, require_eq_ok]

theorem State.readPointer_of {s : State} {r : SReg} {off : Word}
    (h : s.wordsOk .read r off 2 = true) (h0 : s.answersAt (linear (s.seg r).base off) 2 = true)
    (h1 : s.answersAt (linear (s.seg r).base (off + 2)) 2 = true) :
    s.readPointer r off = .ok (s.load r off .word 0, s.load r (off + 2) .word 1) := by
  simp only [State.readPointer, State.checkWords_of h, Exec.ok_bind,
    State.fetchAt_of (w := .word) _ h0, State.fetchAt_of (w := .word) _ h1]

/-! ## The r/m operand (R340) -/

theorem State.checkRM_of {s : State} {a : Access} {w : Width} {rm : RM}
    (h : s.rmOk a w rm = true) : s.checkRM a w rm = .ok () := by
  cases rm with
  | reg n => rfl
  | mem m => exact State.check_of h

theorem State.checkRM_eq_ok (s : State) (a : Access) (w : Width) (rm : RM) (u : Unit) :
    s.checkRM a w rm = .ok u ↔ s.rmOk a w rm = true := by
  cases rm with
  | reg n => simp [State.checkRM, State.rmOk]
  | mem m => exact require_eq_ok _ _ _ _

/-- An operand is read where it may be accessed and answers (R340, R708). -/
theorem State.operand_eq_ok (s : State) (a : Access) (w : Width) (rm : RM) (v : Word) :
    s.operand a w rm = .ok v ↔
      s.rmOk a w rm = true ∧ s.rmAnswers w rm = true ∧ s.rmValue w rm = v := by
  simp only [State.operand, Exec.bind_eq_ok, State.checkRM_eq_ok, exists_const]
  split <;> simp_all

theorem State.operand_of {s : State} {a : Access} {w : Width} {rm : RM} (h : s.rmOk a w rm = true)
    (ha : s.rmAnswers w rm = true) : s.operand a w rm = .ok (s.rmValue w rm) :=
  (State.operand_eq_ok _ _ _ _ _).2 ⟨h, ha, rfl⟩

/-- An operand that never answers is waited for (R708). -/
theorem State.operand_stuck {s : State} {a : Access} {w : Width} {rm : RM}
    (h : s.rmOk a w rm = true) (ha : s.rmAnswers w rm = false) :
    s.operand a w rm = .error (.stuck s) := by
  simp [State.operand, State.checkRM_of h, ha]

theorem State.readRM_of {s : State} {w : Width} {rm : RM} (h : s.rmOk .read w rm = true)
    (ha : s.rmAnswers w rm = true) : s.readRM w rm = .ok (s.rmValue w rm) :=
  State.operand_of h ha

theorem State.writeRM_of {s : State} {w : Width} {rm : RM} (v : Word)
    (h : s.rmOk .write w rm = true) : s.writeRM w rm v = .ok (s.rmPut w rm v) := by
  simp [State.writeRM, State.checkRM_of h]

theorem State.writeRM_eq_ok (s : State) (w : Width) (rm : RM) (v : Word) (t : State) :
    s.writeRM w rm v = .ok t ↔ s.rmOk .write w rm = true ∧ s.rmPut w rm v = t := by
  simp [State.writeRM, Exec.bind_eq_ok, State.checkRM_eq_ok]

theorem State.modifyRM_of {s : State} {w : Width} {rm : RM}
    (op : Word → Flags → Word × Flags) (h : s.rmOk .write w rm = true)
    (ha : s.rmAnswers w rm = true) :
    s.modifyRM w rm op = .ok (s.rmPutFlags w rm (op (s.rmValue w rm) s.flags)) := by
  simp [State.modifyRM, State.operand_of h ha]

theorem State.binRmReg_of_rm {s : State} (op : BinOp) {w : Width} {rm : RM} (reg : RegNum)
    (h : s.rmOk .write w rm = true) (ha : s.rmAnswers w rm = true) :
    s.binRmReg op false w rm reg =
      .ok (s.rmPutFlags w rm (op (s.rmValue w rm) (s.getReg w reg) s.flags)) := by
  simp [State.binRmReg, State.modifyRM_of _ h ha]

theorem State.binRmReg_of_reg {s : State} (op : BinOp) {w : Width} {rm : RM} (reg : RegNum)
    (h : s.rmOk .read w rm = true) (ha : s.rmAnswers w rm = true) :
    s.binRmReg op true w rm reg =
      .ok (s.setRegFlags w reg (op (s.getReg w reg) (s.rmValue w rm) s.flags)) := by
  simp [State.binRmReg, State.readRM_of h ha]

theorem State.flagsRM_of {s : State} {w : Width} {rm : RM} (op : Word → Flags → Flags)
    (h : s.rmOk .read w rm = true) (ha : s.rmAnswers w rm = true) :
    s.flagsRM w rm op = .ok (s.setFlags (op (s.rmValue w rm) s.flags)) := by
  simp [State.flagsRM, State.readRM_of h ha]

/-! ## The stack (R16, R372) -/

/-- When Push16 answers a state, and which. -/
theorem State.push_eq_ok (s : State) (v : Word) (t : State) :
    s.push v = .ok t ↔
      s.pushRaw v = t ∧
        (if s.msw.pe then s.ss.pushAdmitted s.regs.sp = true else s.regs.sp ≠ 1#16) := by
  unfold State.push
  split <;> split <;> simp_all [raise]

theorem State.pushAllRaw_cons (s : State) (v : Word) (vs : List Word) :
    s.pushAllRaw (v :: vs) = (s.pushRaw v).pushAllRaw vs := rfl

theorem State.popWord_eq_ok (s : State) (sp v : Word) :
    s.popWord sp = .ok v ↔ s.popAdmitted sp = true ∧
      s.answersAt (linear s.ss.base sp) 2 = true ∧ s.load .ss sp .word = v := by
  simp [State.popWord, Exec.bind_eq_ok, require_eq_ok, State.fetchAt_eq_ok, State.seg, Width.bytes]

theorem State.popWord_of {s : State} {sp : Word} (h : s.popAdmitted sp = true)
    (ha : s.answersAt (linear s.ss.base sp) 2 = true) :
    s.popWord sp = .ok (s.load .ss sp .word) := (State.popWord_eq_ok _ _ _).2 ⟨h, ha, rfl⟩

theorem State.stackTop_of {s : State} (h : s.popAdmitted s.regs.sp = true)
    (ha : s.answersAt (linear s.ss.base s.regs.sp) 2 = true) :
    s.stackTop = .ok (s.load .ss s.regs.sp .word) := State.popWord_of h ha

/-- What may be popped may be read. -/
theorem State.accessOk_of_popAdmitted {s : State} {sp : Word} (h : s.popAdmitted sp = true) :
    s.accessOk .read .ss sp 2 = true := by
  simp only [State.popAdmitted, Bool.and_eq_true] at h; exact h.1

/-! ## Transfers (R480, R498) -/

theorem State.nearJump_eq_ok (s : State) (target : Word) (t : State) :
    s.nearJump target = .ok t ↔ s.targetOk target = true ∧ s.jump target = t := by
  simp [State.nearJump, Exec.bind_eq_ok, require_eq_ok]

theorem State.nearJump_of {s : State} {target : Word} (h : s.targetOk target = true) :
    s.nearJump target = .ok (s.jump target) := (State.nearJump_eq_ok _ _ _).2 ⟨h, rfl⟩

theorem State.jumpIf_false (s : State) (disp : Byte) : s.jumpIf false disp = .ok s := rfl

theorem State.jumpIf_true (s : State) (disp : Byte) :
    s.jumpIf true disp = s.nearJump (s.ip + sext16 disp) := rfl

/-! ## Strings (R468) -/

theorem State.repeated_none {s : State} (compares : Bool) (f : State → Exec State)
    (h : s.pre.rep = none) : s.repeated compares f = f s := by simp [State.repeated, h]

theorem State.repeated_zero {s : State} (compares : Bool) (f : State → Exec State) {z : Bool}
    (h : s.pre.rep = some z) (hc : s.regs.cx = 0#16) : s.repeated compares f = .ok s := by
  simp [State.repeated, h, hc]

/-! ## Segments and descriptors (R48, R151) -/

theorem State.loadSeg_real {s : State} (r : SReg) (sel : Word) (h : s.msw.pe = false) :
    s.loadSeg r sel = .ok (s.loadReal r sel) := by simp [State.loadSeg, h]

theorem State.fetchDesc_eq_ok (s : State) (i : Nat) (a : Addr) (d : Desc) :
    s.fetchDesc i a = .ok d ↔ s.answersAt a 6 = true ∧ s.busDesc i a = d := by
  simp [State.fetchDesc, Exec.bind_eq_ok, State.await_eq_ok]

theorem State.descriptor_eq_ok (s : State) (i : Nat) (sel : Word) (v : Nat) (code : Word)
    (d : Addr × Desc) :
    s.descriptor i sel v code = .ok d ↔
      ∃ a, s.descAddr sel = some a ∧ s.answersAt a 6 = true ∧ (a, s.busDesc i a) = d := by
  unfold State.descriptor
  cases s.descAddr sel <;> simp [raise, Exec.bind_eq_ok, State.fetchDesc_eq_ok]

/-- The descriptor a read finds is that of memory where no other master stores and it is driven. -/
theorem State.busDesc_quiet {s : State} (h : s.masterOps = []) {a : Addr}
    (hk : ∀ b, s.platform.kindAt (s.physAddr b) ≠ .undriven) (i : Nat) :
    s.busDesc i a = { s.readDesc a with time := s.seen (s.time i) } := by
  simp only [State.busDesc, State.readDesc, s.lockedWord_quiet h (hk _) (hk _)]

/-- Everything the tests of a data segment selector establish (R191). -/
theorem State.dataDesc_eq_ok (s : State) (i : Nat) (cpl : BitVec 2) (sel : Word) (bad : Nat) (ext : Word)
    (d : Option (Addr × Desc)) :
    s.dataDesc i cpl sel bad ext = .ok d ↔
      (isNull sel = true ∧ d = none) ∨
      (isNull sel = false ∧ ∃ a e, s.descAddr sel = some a ∧ s.answersAt a 6 = true ∧
        e = s.busDesc i a ∧ d = some (a, e) ∧
        arSegment e.ar = true ∧ (!arExec e.ar || arRw e.ar) = true ∧
        (arExec e.ar && arDirConf e.ar || decide (maxPl cpl (rpl sel) ≤ arDpl e.ar)) = true ∧
        arPresent e.ar = true) := by
  unfold State.dataDesc
  cases hn : isNull sel with
  | true => simp [@eq_comm _ none]
  | false =>
    simp only [Bool.false_eq_true, ↓reduceIte, Exec.bind_eq_ok, State.descriptor_eq_ok,
      require_eq_ok, false_and, false_or, true_and]
    constructor
    · rintro ⟨_, ⟨a, ha, hb, rfl⟩, _, h1, _, h2, _, h3, _, h4, h5⟩
      cases h5
      exact ⟨a, _, ha, hb, rfl, rfl, h1, h2, h3, h4⟩
    · rintro ⟨a, e, ha, hb, rfl, rfl, h1, h2, h3, h4⟩
      exact ⟨_, ⟨a, ha, hb, rfl⟩, (), h1, (), h2, (), h3, (), h4, rfl⟩

/-- Everything the tests of a stack segment selector establish (R192). -/
theorem State.stackDesc_eq_ok (s : State) (i : Nat) (cpl : BitVec 2) (sel : Word) (bad : Nat) (ext : Word)
    (d : Addr × Desc) :
    s.stackDesc i cpl sel bad ext = .ok d ↔
      isNull sel = false ∧ ∃ a, s.descAddr sel = some a ∧ s.answersAt a 6 = true ∧
        d = (a, s.busDesc i a) ∧ (rpl sel == cpl) = true ∧ arWritable d.2.ar = true ∧
        (arDpl d.2.ar == cpl) = true ∧ arPresent d.2.ar = true := by
  unfold State.stackDesc
  simp only [Exec.bind_eq_ok, State.descriptor_eq_ok, require_eq_ok]
  constructor
  · rintro ⟨_, h0, _, ⟨a, ha, hb, rfl⟩, _, h1, _, h2, _, h3, _, h4, h5⟩
    cases h5
    exact ⟨by simpa using h0, a, ha, hb, rfl, h1, h2, h3, h4⟩
  · rintro ⟨h0, a, ha, hb, rfl, h1, h2, h3, h4⟩
    exact ⟨(), by simpa using h0, _, ⟨a, ha, hb, rfl⟩, (), h1, (), h2, (), h3, (), h4, rfl⟩

/-- A gate's target, where it answers one (R234). -/
theorem State.gateTarget_eq_ok (s : State) (csel ext : Word) (c : Addr × Desc) :
    s.gateTarget csel ext = .ok c ↔
      isNull csel = false ∧ ∃ a, s.descAddr csel = some a ∧ s.answersAt a 6 = true ∧
        c = (a, s.busDesc 3 a) ∧ arCode c.2.ar = true ∧ arDpl c.2.ar ≤ s.cpl ∧
        arPresent c.2.ar = true := by
  unfold State.gateTarget
  simp only [Exec.bind_eq_ok, State.descriptor_eq_ok, require_eq_ok]
  constructor
  · rintro ⟨_, h0, _, ⟨a, ha, hb, rfl⟩, _, h1, _, h2, _, h3, h4⟩
    cases h4
    exact ⟨by simpa using h0, a, ha, hb, rfl, h1, by simpa using h2, h3⟩
  · rintro ⟨h0, a, ha, hb, rfl, h1, h2, h3⟩
    exact ⟨(), by simpa using h0, _, ⟨a, ha, hb, rfl⟩, (), h1, (), by simpa using h2, (), h3, rfl⟩

/-! ## Privilege (R214, R215) and the mode (R590) -/

theorem State.checkCpl0_eq_ok (s : State) (u : Unit) :
    s.checkCpl0 = .ok u ↔ s.msw.pe = false ∨ s.cpl = 0#2 := by
  simp [State.checkCpl0, require_eq_ok]

theorem State.checkIopl_eq_ok (s : State) (u : Unit) :
    s.checkIopl = .ok u ↔ s.msw.pe = false ∨ s.cpl ≤ s.flags.iopl := by
  simp [State.checkIopl, require_eq_ok]

theorem State.checkProt_eq_ok (s : State) (u : Unit) :
    s.checkProt = .ok u ↔ s.msw.pe = true := by simp [State.checkProt, require_eq_ok]

/-! ## Taking an exception in real address mode (R640, R643) -/

/-- Three words pushed in real address mode, where no push has SP = 1. -/
theorem State.push_real {s : State} (v : Word) (hp : s.msw.pe = false) (h : s.regs.sp ≠ 1#16) :
    s.push v = .ok (s.pushRaw v) := by
  rw [State.push_eq_ok]; simp [hp, h]

/-- The entry is through the table where it lies within the limit. -/
theorem State.interrupt_real {s : State} {n : Byte} (kind : IntKind) (ret fail : RetAddr)
    (code : Option Word) (hp : s.msw.pe = false) (h : s.vectorFits n = true) :
    s.interrupt n kind ret fail code = s.entering.realEntry n kind ret := by
  have h' : s.entering.vectorFits n = true := h
  simp [State.interrupt, hp, State.realInterrupt, h']

/-- A machine held in reset (R760, R761). -/
theorem step_reset {s : State} (h : s.pins.reset = true) : step s = .next s.applyReset := by
  simp [step, h]

end Sys2Proof.Machine
end

