-- ==== Sys2Proof/Laws/Frames.lean ====
section
/-! SUPPORT. What a write to an operand leaves alone, in the terms statements use. -/

namespace Sys2Proof

/-! ## Values fit their width -/

theorem zext16_lt (b : Byte) : (zext16 b).toNat < 256 := by
  simp only [zext16, BitVec.toNat_setWidth]; omega

theorem Imm.value_lt (i : Imm) : i.value.toNat < 2 ^ i.width.bits := by
  cases i with
  | byte v => exact zext16_lt v
  | word v => exact v.isLt

theorem GImm.value_lt (i : GImm) : i.value.toNat < 2 ^ i.width.bits := by
  cases i with
  | byte v => exact zext16_lt v
  | byteS v => exact zext16_lt v
  | word v => exact v.isLt
  | wordS v => exact (sext16 v).isLt

end Sys2Proof

namespace Sys2Proof.Machine

theorem loByte_zext16 (b : Byte) : loByte (zext16 b) = b := by
  simp [loByte, zext16]

theorem zext16_loByte {v : Word} (h : v.toNat < 256) : zext16 (loByte v) = v := by
  apply BitVec.eq_of_toNat_eq
  simp only [zext16, loByte, BitVec.toNat_setWidth]
  omega

/-- A register's value fits its width. -/
theorem State.getReg_lt (s : State) (w : Width) (n : RegNum) :
    (s.getReg w n).toNat < 2 ^ w.bits := by
  cases w
  · exact zext16_lt _
  · exact (s.getReg .word n).isLt

/-- A loaded value fits its width. -/
theorem State.load_lt (s : State) (r : SReg) (off : Word) (w : Width) (i : Nat) :
    (s.load r off w i).toNat < 2 ^ w.bits := by
  cases w
  · exact zext16_lt _
  · exact (s.load r off .word i).isLt

/-- An operand's value fits its width. -/
theorem State.rmValue_lt (s : State) (w : Width) (rm : RM) :
    (s.rmValue w rm).toNat < 2 ^ w.bits := by
  cases rm
  · exact s.getReg_lt w _
  · exact s.load_lt _ _ w 0

theorem State.load_eq_busValue (s : State) (r : SReg) (off : Word) (w : Width) (i : Nat) :
    s.load r off w i = s.busValue i (linear (s.seg r).base off) w := by cases w <;> rfl

theorem State.rmValue_mem (s : State) (w : Width) (m : Mem) :
    s.rmValue w (.mem m) = s.busValue 0 (s.memAddr m) w := s.load_eq_busValue _ _ w 0

/-- Where no other master stores, a read of what is driven finds the value memory holds. -/
theorem State.busValue_quiet {s : State} (h : s.masterOps = [])
    (hk : ∀ b, s.platform.kindAt (s.physAddr b) ≠ .undriven) (i : Nat) (a : Addr) (w : Width) :
    s.busValue i a w = s.memValue a w := by
  cases w
  · exact congrArg zext16 (s.busByte_quiet h (hk a) i)
  · exact s.busWord_quiet h (hk _) (hk _) i

/-! ## What can be read -/

theorem State.readRM_of_ready {s : State} {w : Width} {rm : RM}
    (h : s.rmReady .read w rm = true) : s.readRM w rm = .ok (s.rmValue w rm) := by
  simp only [State.rmReady, Bool.and_eq_true] at h
  exact State.readRM_of h.1 h.2

theorem State.modifyRM_of_ready {s : State} {w : Width} {rm : RM}
    (op : Word → Flags → Word × Flags) (h : s.rmReady .write w rm = true) :
    s.modifyRM w rm op = .ok (s.rmPutFlags w rm (op (s.rmValue w rm) s.flags)) := by
  simp only [State.rmReady, Bool.and_eq_true] at h
  exact State.modifyRM_of op h.1 h.2

theorem State.memRead_of_ready {s : State} {r : SReg} {off : Word} {w : Width} (i : Nat)
    (h : s.readReady r off w = true) :
    s.memRead r off w i = .ok (s.busValue i (linear (s.seg r).base off) w) := by
  simp only [State.readReady, Bool.and_eq_true] at h
  rw [State.memRead_of i h.1 h.2, State.load_eq_busValue]

theorem State.popWord_of_ready {s : State} {sp : Word} (h : s.popReady sp = true) :
    s.popWord sp = .ok (s.busWord 0 (linear s.ss.base sp)) := by
  simp only [State.popReady, Bool.and_eq_true] at h
  exact State.popWord_of h.1 h.2

/-! ## Registers -/

/-- The eight byte registers and their words: a write to one word register changes the byte
registers of that word alone (R32). -/
theorem Regs.getByte_set_word (r : Regs) (n : Reg16) (v : Word) (m : RegNum)
    (h : wordOfByteReg m ≠ n) : (r.set n v).getByte m = r.getByte m := by
  simp only [Regs.getByte, Regs.get_set, h, ↓reduceIte]

theorem Regs.getByte_setByte (r : Regs) (n : RegNum) (v : Byte) (m : RegNum) :
    (r.setByte n v).getByte m = if m = n then v else r.getByte m := by
  simp only [Regs.setByte, Regs.getByte, Regs.get_set]
  by_cases hw : wordOfByteReg m = wordOfByteReg n
  · by_cases hm : m.getLsbD 2 = n.getLsbD 2
    · have : m = n := by
        revert m n; decide
      subst this
      cases m.getLsbD 2 <;> simp [loByte_mkWord, hiByte_mkWord]
    · have : m ≠ n := by rintro rfl; exact hm rfl
      cases h1 : m.getLsbD 2 <;> cases h2 : n.getLsbD 2 <;>
        simp_all [loByte_mkWord, hiByte_mkWord]
  · have : m ≠ n := by rintro rfl; exact hw rfl
    simp [hw, this]

theorem Regs.get_setByte (r : Regs) (n : RegNum) (v : Byte) (m : Reg16)
    (h : m ≠ wordOfByteReg n) : (r.setByte n v).get m = r.get m := by
  simp only [Regs.setByte, Regs.get_set, h, ↓reduceIte]

/-- A register written holds the value; every register that shares no bit with it keeps its own. -/
theorem State.onlyReg_setReg (s : State) (w : Width) (n : RegNum) {v : Word}
    (h : v.toNat < 2 ^ w.bits) : s.onlyReg (s.setReg w n v) w n v := by
  cases w with
  | byte =>
    refine ⟨?_, ?_⟩
    · simp only [State.getReg, State.setReg, Regs.getByte_setByte, ↓reduceIte]
      exact zext16_loByte h
    · intro w' n' ho
      cases w' with
      | byte =>
        have : n' ≠ n := by rintro rfl; simp [overlaps] at ho
        simp [State.getReg, State.setReg, Regs.getByte_setByte, this]
      | word =>
        refine Regs.get_setByte _ _ _ _ ?_
        have key : ∀ n n' : RegNum, (n &&& 3#3 == n') = false → reg16Of n' ≠ wordOfByteReg n := by
          decide
        exact key n n' ho
  | word =>
    refine ⟨by simp [State.getReg, State.setReg], ?_⟩
    intro w' n' ho
    cases w' with
    | byte =>
      have key : ∀ n n' : RegNum, (n == n' &&& 3#3) = false → wordOfByteReg n' ≠ reg16Of n := by
        decide
      simp only [State.getReg, State.setReg, Regs.getByte_set_word _ _ _ _ (key n n' ho)]
    | word =>
      have key : ∀ n n' : RegNum, (n == n') = false → reg16Of n' ≠ reg16Of n := by decide
      simp only [State.getReg, State.setReg, Regs.get_set, key n n' ho, ↓reduceIte]

/-! ## Memory -/

theorem State.sameMemory_of_mem {s t : State} (h : t.mem = s.mem) (hs : t.stale = s.stale)
    (hx : t.stores = s.stores) (hp : t.platform = s.platform) (hd : t.draws = s.draws)
    (hw : t.msw.pe = s.msw.pe) : s.sameMemory t := ⟨State.readByte_congr h hp hd hw, h, hs, hx⟩

theorem State.isRam_one {s : State} {a : Addr} (h : s.isRam a 1 = true) :
    s.ramAt (s.physAddr a) = true := by
  simpa [State.isRam] using h

theorem State.isRam_two {s : State} {a : Addr} (h : s.isRam a 2 = true) :
    s.ramAt (s.physAddr a) = true ∧ s.ramAt (s.physAddr (a + 1)) = true := by
  simpa [State.isRam, List.range_succ] using h

/-- A byte or word stored in RAM reads back, and every other byte keeps its value. -/
theorem State.stored_store (s : State) (r : SReg) (off : Word) (w : Width) {v : Word}
    (h : v.toNat < 2 ^ w.bits) :
    s.stored (s.store r off w v) (linear (s.seg r).base off) w v := by
  cases w with
  | byte =>
    refine ⟨fun hr => ?_, fun b hb => ?_⟩
    · simp only [State.memValue, State.store, State.readByte_writeByte_same _ (State.isRam_one hr)]
      exact zext16_loByte h
    · exact State.readByte_writeByte_ne _ (by simpa [State.apart] using hb 0 (by decide))
  | word =>
    refine ⟨fun hr => ?_, fun b hb => ?_⟩
    · obtain ⟨h0, h1⟩ := State.isRam_two hr
      exact State.readWord_writeWord_same _ h0 h1
    · exact State.readByte_writeWord_ne _ (by simpa [State.apart] using hb 0 (by decide))
        (by simpa [State.apart] using hb 1 (by decide))

theorem State.onlyMem_store (s : State) (r : SReg) (off : Word) (w : Width) {v : Word}
    (h : v.toNat < 2 ^ w.bits) :
    s.onlyMem (s.store r off w v) (linear (s.seg r).base off) w v :=
  ⟨s.store_regs r off w v, s.stored_store r off w h⟩

/-- An r/m operand written holds the value, and nothing else of the registers and memory changes. -/
theorem State.placed_rmPut (s : State) (w : Width) (rm : RM) {v : Word}
    (h : v.toNat < 2 ^ w.bits) : s.placed (s.rmPut w rm v) w rm v := by
  cases rm with
  | reg n =>
    exact ⟨s.onlyReg_setReg w n h, State.sameMemory_of_mem (by simp [State.rmPut])
      (by simp [State.rmPut]) (by simp [State.rmPut]) (by simp [State.rmPut])
      (by simp [State.rmPut]) (by simp [State.rmPut])⟩
  | mem m => exact s.onlyMem_store _ _ w h

theorem State.readByte_setFlags (s : State) (f : Flags) (a : Addr) :
    (s.setFlags f).readByte a = s.readByte a := rfl

/-- Writing FLAGS moves no register and no byte. -/
theorem State.placed_setFlags {s t : State} {w : Width} {rm : RM} {v : Word}
    (h : s.placed t w rm v) (f : Flags) : s.placed (t.setFlags f) w rm v := by
  cases rm with
  | reg n => exact h
  | mem m => cases w <;> exact h

theorem State.sameElse_refl (s : State) : s.sameElse s := rfl

theorem State.sameElse_rmPut (s : State) (w : Width) (rm : RM) (v : Word) :
    s.sameElse (s.rmPut w rm v) := by
  cases rm <;> cases w <;> rfl

theorem State.sameElse_setFlags {s t : State} (h : s.sameElse t) (f : Flags) :
    s.sameElse (t.setFlags f) := by
  unfold State.sameElse at h ⊢
  rw [h]
  rfl

end Sys2Proof.Machine
end

