-- ==== Sys2Proof/Laws/Transfers.lean ====
section
/-! SUPPORT. What the transfers of protected mode, the task switch and the interrupt sequences can
do: where each answers a state, which state, and when. -/

namespace Sys2Proof.Machine

/-! ## Ports (R112) -/

/-- A byte, or a word at an even port, is one bus operation. -/
theorem State.ioRead_one {s : State} {port : Word} {w : Width}
    (h : ¬(w = .word ∧ port.getLsbD 0 = true)) :
    s.ioRead port w = (s.ioAnswer port.toNat w,
      s.emit (.ioRead port.toNat w (s.ioAnswer port.toNat w))) := by
  simp only [State.ioRead, if_neg h, State.portRead]

/-- A word at an odd port is two byte operations, the low byte first. -/
theorem State.ioRead_odd {s : State} {port : Word} (h : port.getLsbD 0 = true) :
    s.ioRead port .word =
      (mkWord (loByte (s.ioAnswer port.toNat .byte)) (loByte (s.ioAnswer (nextPort port) .byte)),
        (s.emit (.ioRead port.toNat .byte (s.ioAnswer port.toNat .byte))).emit
          (.ioRead (nextPort port) .byte (s.ioAnswer (nextPort port) .byte))) := by
  simp only [State.ioRead, h, and_self, ↓reduceIte, State.portRead, State.ioAnswer,
    State.emit_draws]

theorem State.ioWrite_one {s : State} {port : Word} {w : Width} (v : Word)
    (h : ¬(w = .word ∧ port.getLsbD 0 = true)) :
    s.ioWrite port w v = s.emit (.ioWrite port.toNat w v) := by
  simp only [State.ioWrite, if_neg h]

theorem State.ioWrite_odd {s : State} {port : Word} (v : Word) (h : port.getLsbD 0 = true) :
    s.ioWrite port .word v =
      (s.emit (.ioWrite port.toNat .byte (zext16 (loByte v)))).emit
        (.ioWrite (nextPort port) .byte (zext16 (hiByte v))) := by
  simp only [State.ioWrite, h, and_self, ↓reduceIte]

theorem State.awaitPort_of {s : State} {port : Nat} {w : Width} (h : s.portReady port w = true) :
    s.awaitPort port w = .ok () := if_pos h

/-- Where every bus operation of a port access is answered, it is made. -/
theorem State.readPort_ready {s : State} {port : Word} {w : Width}
    (h : s.portAnswers port w = true) : s.readPort port w = .ok (s.ioRead port w) := by
  unfold State.portAnswers at h
  unfold State.readPort
  split at h
  · rename_i hw
    obtain ⟨h1, h2⟩ := Bool.and_eq_true_iff.1 h
    rw [if_pos hw, State.awaitPort_of h1,
      State.awaitPort_of (s := (s.portRead port.toNat .byte).2) h2]
    rfl
  · rename_i hw
    rw [if_neg hw, State.awaitPort_of h]; rfl

theorem State.writePort_ready {s : State} {port : Word} {w : Width} (v : Word)
    (h : s.portAnswers port w = true) : s.writePort port w v = .ok (s.ioWrite port w v) := by
  unfold State.portAnswers at h
  unfold State.writePort
  split at h
  · rename_i hw
    obtain ⟨h1, h2⟩ := Bool.and_eq_true_iff.1 h
    rw [if_pos hw, State.awaitPort_of h1, State.awaitPort_of
      (s := s.emit (.ioWrite port.toNat .byte (zext16 (loByte v)))) h2]
    rfl
  · rename_i hw
    rw [if_neg hw, State.awaitPort_of h]; rfl

/-- A port access that ends has made all its bus operations. -/
theorem State.readPort_eq_ok {s : State} {port : Word} {w : Width} {r : Word × State}
    (h : s.readPort port w = .ok r) : s.portAnswers port w = true ∧ r = s.ioRead port w := by
  unfold State.readPort State.awaitPort at h
  unfold State.portAnswers
  split at h <;> rename_i hw
  · rw [if_pos hw]
    by_cases h1 : s.portReady port.toNat .byte = true
    · rw [if_pos h1] at h
      by_cases h2 : (s.portRead port.toNat .byte).2.portReady (nextPort port) .byte = true
      · replace h : (if _ then Except.ok () else _) >>= _ = _ := h
        rw [if_pos h2] at h
        exact ⟨Bool.and_eq_true_iff.2 ⟨h1, h2⟩, (Except.ok.inj h).symm⟩
      · replace h : (if _ then Except.ok () else _) >>= _ = _ := h
        rw [if_neg h2] at h; nomatch h
    · rw [if_neg h1] at h; nomatch h
  · rw [if_neg hw]
    by_cases h1 : s.portReady port.toNat w = true
    · rw [if_pos h1] at h
      exact ⟨h1, (Except.ok.inj h).symm⟩
    · rw [if_neg h1] at h; nomatch h

theorem State.writePort_eq_ok {s t : State} {port : Word} {w : Width} {v : Word}
    (h : s.writePort port w v = .ok t) : s.portAnswers port w = true ∧ t = s.ioWrite port w v := by
  unfold State.writePort State.awaitPort at h
  unfold State.portAnswers
  split at h <;> rename_i hw
  · rw [if_pos hw]
    by_cases h1 : s.portReady port.toNat .byte = true
    · rw [if_pos h1] at h
      by_cases h2 : (s.emit (.ioWrite port.toNat .byte (zext16 (loByte v)))).portReady
          (nextPort port) .byte = true
      · replace h : (if _ then Except.ok () else _) >>= _ = _ := h
        rw [if_pos h2] at h
        exact ⟨Bool.and_eq_true_iff.2 ⟨h1, h2⟩, (Except.ok.inj h).symm⟩
      · replace h : (if _ then Except.ok () else _) >>= _ = _ := h
        rw [if_neg h2] at h; nomatch h
    · rw [if_neg h1] at h; nomatch h
  · rw [if_neg hw]
    by_cases h1 : s.portReady port.toNat w = true
    · rw [if_pos h1] at h
      exact ⟨h1, (Except.ok.inj h).symm⟩
    · rw [if_neg h1] at h; nomatch h

/-- But for the last port the second byte of a word is at the next number. -/
theorem nextPort_eq {port : Word} (h : port ≠ 0xFFFF#16) : nextPort port = port.toNat + 1 := by
  unfold nextPort; bv_omega

/-! ## Shifts, loops and repeats (R431, R515, R468) -/

theorem State.shiftRM_eq_ok (s : State) (op : ShiftOp) (w : Width) (rm : RM) (raw : Byte)
    (t : State) :
    s.shiftRM op w rm raw = .ok t ↔ s.rmOk .write w rm = true ∧ s.rmAnswers w rm = true ∧
      t = if shiftCount raw = 0 then s
        else s.rmPutFlags w rm
          (shiftFlags op w (s.rmValue w rm) (shiftCount raw) s.flags s.draws) := by
  simp only [State.shiftRM, Exec.bind_eq_ok, State.operand_eq_ok, Except.ok.injEq]
  constructor
  · rintro ⟨_, ⟨h1, h2, rfl⟩, rfl⟩; exact ⟨h1, h2, rfl⟩
  · rintro ⟨h1, h2, rfl⟩; exact ⟨_, ⟨h1, h2, rfl⟩, rfl⟩

theorem State.loopWhile_eq_ok (s : State) (cond : Bool) (disp : Byte) (t : State) :
    s.loopWhile cond disp = .ok t ↔
      if s.regs.cx - 1 ≠ 0 ∧ cond = true then
        s.targetOk (s.ip + sext16 disp) = true ∧
          t = (s.jump (s.ip + sext16 disp)).setCx (s.regs.cx - 1)
      else t = s.setCx (s.regs.cx - 1) := by
  simp only [State.loopWhile]
  split
  · simp only [Exec.bind_eq_ok, State.nearJump_eq_ok, Except.ok.injEq]
    constructor
    · rintro ⟨_, ⟨h, rfl⟩, rfl⟩; exact ⟨h, rfl⟩
    · rintro ⟨h, rfl⟩; exact ⟨_, ⟨h, rfl⟩, rfl⟩
  · simp only [Except.ok.injEq, eq_comm]

/-- One element with a repeat prefix and CX not 0: CX less 1, and IP back at the first prefix while
elements remain. -/
theorem State.repeated_eq_ok {s : State} (compares : Bool) (f : State → Exec State) {z : Bool}
    (h : s.pre.rep = some z) (hc : s.regs.cx ≠ 0#16) (t : State) :
    s.repeated compares f = .ok t ↔ ∃ u, f s = .ok u ∧
      t = if u.regs.cx - 1 = 0 ∨ (compares = true ∧ u.flags.zf ≠ z) then u.setCx (u.regs.cx - 1)
        else { u.setCx (u.regs.cx - 1) with ip := u.curIp, ipCarry := false } := by
  have hc' : ¬s.regs.cx = 0 := hc
  simp only [State.repeated, h, if_neg hc', Exec.bind_eq_ok]
  refine exists_congr fun u => and_congr_right fun _ => ?_
  have key : ∀ (p : Prop) [Decidable p] (a b : State),
      ((if p then Except.ok a else Except.ok b : Exec State) = .ok t ↔ t = if p then a else b) := by
    intro p _ a b
    split <;> simp only [Except.ok.injEq, @eq_comm _ t]
  exact key _ _ _

/-! ## Code segments and gates (R231, R234, R236) -/

theorem State.enterCode_eq_ok (s : State) (sel off : Word) (c : Addr × Desc) (call : Bool)
    (t : State) :
    s.enterCode sel off c call = .ok t ↔
      (call = true → s.ss.room s.regs.sp 2 = true) ∧ off.toNat ≤ c.2.limit.toNat ∧
        t = (((if call then (s.holdAccessed c.2).pushAllRaw [s.cs.sel, s.ip]
          else s.holdAccessed c.2).loadCs (withRpl sel s.cpl) c).jump off).release s := by
  cases call <;>
    simp [State.enterCode, Exec.bind_eq_ok, require_eq_ok, @eq_comm State t]

theorem State.checkGate_eq_ok (s : State) (sel : Word) (g : Desc) (u : Unit) :
    s.checkGate sel g = .ok u ↔ maxPl s.cpl (rpl sel) ≤ arDpl g.ar ∧ arPresent g.ar = true := by
  simp [State.checkGate, Exec.bind_eq_ok, require_eq_ok]

theorem State.innerStack_eq_ok (s : State) (level : BitVec 2) (ext : Word)
    (k : Word × Word × Addr × Desc) :
    s.innerStack level ext = .ok k ↔ 4 * level.toNat + 5 ≤ s.tr.limit.toNat ∧
      s.answersAt (s.tr.base + BitVec.ofNat 24 (2 + 4 * level.toNat)) 4 = true ∧
      k.1 = s.tssWord s.tr.base (4 + 4 * level.toNat) ∧
      k.2.1 = s.tssWord s.tr.base (2 + 4 * level.toNat) ∧
      s.stackDesc 12 level k.1 10 ext = .ok k.2.2 := by
  obtain ⟨a, b, d⟩ := k
  simp only [State.innerStack, Exec.bind_eq_ok, require_eq_ok, State.await_eq_ok, exists_const,
    decide_eq_true_eq, Except.ok.injEq, Prod.mk.injEq]
  constructor
  · rintro ⟨h, ha, _, hd, rfl, rfl, rfl⟩; exact ⟨h, ha, rfl, rfl, hd⟩
  · rintro ⟨h, ha, rfl, rfl, hd⟩; exact ⟨h, ha, _, hd, rfl, rfl, rfl⟩

theorem State.innerCall_eq_ok (s : State) (g : Desc) (c : Addr × Desc) (t : State) :
    s.innerCall g c = .ok t ↔ ∃ k ps,
      (s.holdAccessed c.2).innerStack (arDpl c.2.ar) 0#16 = .ok k ∧
      (SegReg.ofDesc k.1 k.2.2.2).room k.2.1 (4 + g.gateCount) = true ∧
      g.gateOffset.toNat ≤ c.2.limit.toNat ∧
      ((s.holdAccessed c.2).holdAccessed k.2.2.2).params 13 g.gateCount s.regs.sp = .ok ps ∧
      t = ((((((s.holdAccessed c.2).holdAccessed k.2.2.2).switchStack k).loadCs
        (withRpl g.gateSelector (arDpl c.2.ar)) c).release s).pushAllRaw
          ([s.ss.sel, s.regs.sp] ++ ps.reverse ++ [s.cs.sel, s.ip])).jump g.gateOffset := by
  simp only [State.innerCall, Exec.bind_eq_ok, require_eq_ok, exists_const, decide_eq_true_eq,
    Except.ok.injEq]
  constructor
  · rintro ⟨k, hk, h1, h2, ps, hp, rfl⟩; exact ⟨k, ps, hk, h1, h2, hp, rfl⟩
  · rintro ⟨k, ps, hk, h1, h2, hp, rfl⟩; exact ⟨k, hk, h1, h2, ps, hp, rfl⟩

/-- A call gate used: an inter-level call, or a transfer to the same level. -/
theorem State.useCallGate_eq_ok (s : State) (sel : Word) (g : Desc) (call : Bool) (t : State) :
    s.useCallGate sel g call = .ok t ↔
      maxPl s.cpl (rpl sel) ≤ arDpl g.ar ∧ arPresent g.ar = true ∧
      ∃ c, s.gateTarget g.gateSelector 0#16 = .ok c ∧
        ((s.goesInward c.2 = true ∧ call = true ∧ s.innerCall g c = .ok t) ∨
          (s.goesInward c.2 = false ∧
            (arDirConf c.2.ar = true ∨ rpl g.gateSelector ≤ s.cpl) ∧
            s.enterCode g.gateSelector g.gateOffset c call = .ok t)) := by
  simp only [State.useCallGate, Exec.bind_eq_ok, State.checkGate_eq_ok, exists_const, and_assoc]
  refine and_congr_right fun _ => and_congr_right fun _ => exists_congr fun c =>
    and_congr_right fun _ => ?_
  cases hi : s.goesInward c.2 <;> cases call <;>
    simp [Exec.bind_eq_ok, require_eq_ok, raise]

/-! ## Returns (R238, R546) -/

/-- Everything the tests of a return code segment establish (R238). -/
theorem State.returnDesc_eq_ok (s : State) (sel : Word) (c : Addr × Desc) :
    s.returnDesc sel = .ok c ↔
      isNull sel = false ∧ ∃ a, s.descAddr sel = some a ∧ s.answersAt a 6 = true ∧
        c = (a, s.busDesc 3 a) ∧ arCode c.2.ar = true ∧ s.cpl ≤ rpl sel ∧
        (if arDirConf c.2.ar then decide (arDpl c.2.ar ≤ rpl sel)
          else arDpl c.2.ar == rpl sel) = true ∧ arPresent c.2.ar = true := by
  unfold State.returnDesc
  simp only [Exec.bind_eq_ok, State.descriptor_eq_ok, require_eq_ok]
  constructor
  · rintro ⟨_, h0, _, ⟨a, ha, hb, rfl⟩, _, h1, _, h2, _, h3, _, h4, h5⟩
    cases h5
    exact ⟨by simpa using h0, a, ha, hb, rfl, h1, by simpa using h2, h3, h4⟩
  · rintro ⟨h0, a, ha, hb, rfl, h1, h2, h3, h4⟩
    exact ⟨(), by simpa using h0, _, ⟨a, ha, hb, rfl⟩, (), h1, (), by simpa using h2, (), h3, (), h4,
      rfl⟩

theorem State.realIret_eq_ok (s t : State) :
    s.realIret = .ok t ↔ s.wordsOk .read .ss s.regs.sp 3 = true ∧
      s.answersAt (linear s.ss.base s.regs.sp) 2 = true ∧
      s.answersAt (linear s.ss.base (s.regs.sp + 2)) 2 = true ∧
      s.answersAt (linear s.ss.base (s.regs.sp + 4)) 2 = true ∧
      t = ((s.setSp (s.regs.sp + 6)).setFlags
        (s.flags.loadReal (s.load .ss (s.regs.sp + 4) .word 2))).realFar
          (s.load .ss (s.regs.sp + 2) .word 1) (s.load .ss s.regs.sp .word 0) := by
  simp only [State.realIret, Exec.bind_eq_ok, State.checkWords, require_eq_ok, State.fetchAt_eq_ok,
    exists_const, Except.ok.injEq, @eq_comm State t]
  constructor
  · rintro ⟨h, _, ⟨h0, rfl⟩, _, ⟨h1, rfl⟩, _, ⟨h2, rfl⟩, rfl⟩; exact ⟨h, h0, h1, h2, rfl⟩
  · rintro ⟨h, h0, h1, h2, rfl⟩; exact ⟨h, _, ⟨h0, rfl⟩, _, ⟨h1, rfl⟩, _, ⟨h2, rfl⟩, rfl⟩

theorem State.backLink_eq_ok (s : State) (v : Word) :
    s.backLink = .ok v ↔ s.tr.loaded = true ∧ 1 ≤ s.tr.limit.toNat ∧
      s.answersAt s.tr.base 2 = true ∧ v = s.busWord 0 s.tr.base := by
  unfold State.backLink
  split <;> simp_all [Exec.bind_eq_ok, require_eq_ok, State.await_eq_ok, @eq_comm Word v]

/-! ## The task switch (R248, R249) -/

/-- A failure in the new task is told apart, an answer is not. -/
theorem inTask_eq_ok {α : Type} (t : State) (r : Exec α) (a : α) : inTask t r = .ok a ↔ r = .ok a := by
  unfold inTask; split <;> simp_all

/-- What a task selector with TI = 1 can raise: through a task gate 10 where it names a task state segment
in the LDT, and `bad` else (R246, R253, R255). -/
theorem State.localTaskVector_eq_ok (s : State) (tsel : Word) (gate : Bool) (bad v : Nat) :
    s.localTaskVector tsel gate bad = .ok v ↔
      gate = false ∧ v = bad ∨
        gate = true ∧ ∃ b, s.namesLocalTss tsel = .ok b ∧ v = if b = true then 10 else bad := by
  unfold State.localTaskVector
  cases gate <;> simp [Exec.bind_eq_ok, @eq_comm Nat v]

/-- A selector with TI = 0 is looked for in no LDT. -/
theorem State.localTaskVector_of (s : State) (tsel : Word) (gate : Bool) (bad : Nat)
    (h : tsel.getLsbD 2 = false) : s.localTaskVector tsel gate bad = .ok bad := by
  unfold State.localTaskVector State.namesLocalTss
  rw [h]
  split <;> rfl

theorem State.taskDesc_eq_ok (s : State) (tsel : Word) (kind : SwitchKind) (gate : Bool) (ext : Word)
    (d : Addr × Desc) :
    s.taskDesc tsel kind gate ext = .ok d ↔
      isNull tsel = false ∧ tsel.getLsbD 2 = false ∧ ∃ a, s.descAddr tsel = some a ∧
        s.answersAt a 6 = true ∧ d = (a, s.busDesc 3 a) ∧
        (arSystemType d.2.ar == some (if kind = .iret then 3 else 1)) = true ∧
        arPresent d.2.ar = true ∧ s.platform.tssLimitMin ≤ d.2.limit.toNat := by
  simp only [State.taskDesc, Exec.bind_eq_ok, require_eq_ok, State.descriptor_eq_ok, exists_const,
    Bool.not_eq_true', decide_eq_true_eq, Except.ok.injEq]
  constructor
  · rintro ⟨h1, _, _, h2, _, ⟨a, ha, hb, rfl⟩, h3, h4, h5, rfl⟩
    exact ⟨h1, h2, a, ha, hb, rfl, h3, h4, h5⟩
  · rintro ⟨h1, h2, a, ha, hb, rfl, h3, h4, h5⟩
    exact ⟨h1, _, s.localTaskVector_of _ _ _ h2, h2, _, ⟨a, ha, hb, rfl⟩, h3, h4, h5, rfl⟩

theorem State.checkTr_eq_ok (s : State) (ext : Word) (u : Unit) :
    s.checkTr ext = .ok u ↔ s.tr.loaded = true ∧ 41 ≤ s.tr.limit.toNat := by
  unfold State.checkTr
  split <;> simp_all [require_eq_ok]

/-- A task switch answers what the validation makes of the new task's state. -/
theorem State.taskSwitch_eq_ok (s : State) (tsel : Word) (kind : SwitchKind) (gate : Bool)
    (ext retIp : Word) (t : State) :
    s.taskSwitch tsel kind gate ext retIp = .ok t ↔
      ∃ d, s.taskDesc tsel kind gate ext = .ok d ∧ s.tr.loaded = true ∧ 41 ≤ s.tr.limit.toNat ∧
        let u := (if kind = .iret then s else s.hold d.2).saveTask kind retIp
        let v := ((u.clearBusy kind).markBusy kind d.1 d.2).release s
        ((kind = .jmp ∨ kind = .iret) → u.answersAt u.busyAddr 1 = true) ∧
        v.answersAt (d.2.base + 14) 30 = true ∧
        ∃ u, (v.enterTask kind tsel d.2).validateTask ext = .ok u ∧ t = u.flushQueue := by
  have hb : ∀ (v : State) (u : Unit), v.awaitBusy kind = .ok u ↔
      (kind = .jmp ∨ kind = .iret → v.answersAt v.busyAddr 1 = true) := by
    intro v u
    unfold State.awaitBusy
    split <;> simp_all [State.await_eq_ok]
  simp only [State.taskSwitch, Exec.bind_eq_ok, State.checkTr_eq_ok, hb, State.await_eq_ok,
    exists_const, and_assoc, Except.ok.injEq, @eq_comm State t]

/-- The parts of the validation of a new task, in order. -/
theorem State.validateTask_eq_ok (s : State) (ext : Word) (t : State) :
    s.validateTask ext = .ok t ↔ ∃ a b c d, s.taskLdt ext = .ok a ∧ a.taskCs ext = .ok b ∧
      b.taskSs ext = .ok c ∧ c.taskData 29 .ds ext = .ok d ∧ d.taskData 30 .es ext = .ok t ∧
      t.ip.toNat ≤ t.cs.limit.toNat := by
  simp only [State.validateTask, Exec.bind_eq_ok, inTask_eq_ok, require_eq_ok, exists_const,
    decide_eq_true_eq, Except.ok.injEq]
  constructor
  · rintro ⟨a, ha, b, hb, c, hc, d, hd, e, he, h, rfl⟩; exact ⟨a, b, c, d, ha, hb, hc, hd, he, h⟩
  · rintro ⟨a, b, c, d, ha, hb, hc, hd, he, h⟩; exact ⟨a, ha, b, hb, c, hc, d, hd, t, he, h, rfl⟩

theorem State.taskCs_eq_ok (s : State) (ext : Word) (t : State) :
    s.taskCs ext = .ok t ↔ isNull s.cs.sel = false ∧ ∃ a, s.descAddr s.cs.sel = some a ∧
      s.answersAt a 6 = true ∧ arCode (s.busDesc 27 a).ar = true ∧
      (if arDirConf (s.busDesc 27 a).ar then decide (arDpl (s.busDesc 27 a).ar ≤ rpl s.cs.sel)
        else arDpl (s.busDesc 27 a).ar == rpl s.cs.sel) = true ∧
      arPresent (s.busDesc 27 a).ar = true ∧ t = s.loadCs s.cs.sel (a, s.busDesc 27 a) := by
  simp only [State.taskCs, Exec.bind_eq_ok, require_eq_ok, State.descriptor_eq_ok, exists_const,
    Bool.not_eq_true', Except.ok.injEq]
  constructor
  · rintro ⟨h1, _, ⟨a, ha, hb, rfl⟩, h2, h3, h4, rfl⟩; exact ⟨h1, a, ha, hb, h2, h3, h4, rfl⟩
  · rintro ⟨h1, a, ha, hb, h2, h3, h4, rfl⟩; exact ⟨h1, _, ⟨a, ha, hb, rfl⟩, h2, h3, h4, rfl⟩

theorem State.taskSs_eq_ok (s : State) (ext : Word) (t : State) :
    s.taskSs ext = .ok t ↔
      ∃ d, s.stackDesc 28 s.cpl s.ss.sel 10 ext = .ok d ∧ t = s.putStack s.ss.sel d := by
  simp only [State.taskSs, Exec.bind_eq_ok, Except.ok.injEq, @eq_comm State t]

theorem State.taskData_eq_ok (s : State) (i : Nat) (r : SReg) (ext : Word) (t : State) :
    s.taskData i r ext = .ok t ↔
      ∃ d, s.dataDesc i s.cpl (s.seg r).sel 10 ext = .ok d ∧ t = s.putData r (s.seg r).sel d := by
  simp only [State.taskData, Exec.bind_eq_ok, Except.ok.injEq, @eq_comm State t]

/-! ## Interrupt sequences (R640, R645) -/

/-- Three pushes in real address mode, then the entry of the table. -/
theorem State.realEntry_eq_ok (s : State) (n : Byte) (kind : IntKind) (ret : RetAddr) (t : State) :
    s.realEntry n kind ret = .ok t ↔
      s.answersAt (s.idtr.base + (n.setWidth 24 <<< 2)) 4 = true ∧ ∃ a b c, s.push s.flags.toWord = .ok a ∧
      (a.setFlags { a.flags with intf := false, tf := false }).push ret.cs = .ok b ∧
      b.push ret.ip = .ok c ∧
      t = (c.realFar (s.lockedWord 0 (s.idtr.base + (n.setWidth 24 <<< 2) + 2))
        (s.lockedWord 0 (s.idtr.base + (n.setWidth 24 <<< 2)))).afterEntry kind s.draws := by
  simp only [State.realEntry, Exec.bind_eq_ok, State.await_eq_ok, exists_const, Except.ok.injEq]
  constructor
  · rintro ⟨h, a, ha, b, hb, c, hc, rfl⟩; exact ⟨h, a, b, c, ha, hb, hc, rfl⟩
  · rintro ⟨h, a, b, c, ha, hb, hc, rfl⟩; exact ⟨h, a, ha, b, hb, c, hc, rfl⟩

/-- One attempt at a delivery in protected mode: the tests on the gate, then a task or a gate. -/
theorem State.protEntry_eq_ok (s : State) (n : Byte) (kind : IntKind) (ret : RetAddr)
    (code : Option Word) (t : State) :
    s.protEntry n kind ret code = .ok t ↔
      8 * n.toNat + 7 ≤ s.idtr.limit.toNat ∧
        s.answersAt (s.idtr.base + (n.setWidth 24 <<< 3)) 6 = true ∧
        ∃ g, g = s.busDesc 2 (s.idtr.base + (n.setWidth 24 <<< 3)) ∧
        (arSystemType g.ar == some 5 || arSystemType g.ar == some 6 ||
          arSystemType g.ar == some 7) = true ∧
        (kind = .int → s.cpl ≤ arDpl g.ar) ∧ arPresent g.ar = true ∧
        (if arSystemType g.ar = some 5 then s.taskEntry g kind ret code
          else s.gateEntry g kind ret code) = .ok t := by
  simp only [State.protEntry, Exec.bind_eq_ok, require_eq_ok, State.fetchDesc_eq_ok, exists_const,
    decide_eq_true_eq, exists_eq_left, exists_eq_left', and_assoc, exists_and_left]
  have h : ∀ p : Prop, [Decidable p] →
      ((!(kind == IntKind.int) || decide p) = true ↔ (kind = .int → p)) := by
    intro p _; cases kind <;> simp
  simp only [h]

/-- An interrupt or trap gate entered: at an inner level on the stack of the task state segment, or at
the same level with room for the frame. -/
theorem State.gateEntry_eq_ok (s : State) (g : Desc) (kind : IntKind) (ret : RetAddr)
    (code : Option Word) (t : State) :
    s.gateEntry g kind ret code = .ok t ↔
      ∃ c, s.gateTarget g.gateSelector kind.ext = .ok c ∧ g.gateOffset.toNat ≤ c.2.limit.toNat ∧
        ((s.goesInward c.2 = true ∧ ∃ k,
            (s.holdAccessed c.2).innerStack (arDpl c.2.ar) kind.ext = .ok k ∧
            (SegReg.ofDesc k.1 k.2.2.2).room k.2.1 (2 + (s.entryFrame ret code).length) = true ∧
            t = (s.enterGate (((s.holdAccessed c.2).switchStack k).pushAllRaw
              ([s.ss.sel, s.regs.sp] ++ s.entryFrame ret code)) g c (arDpl c.2.ar) kind).release s) ∨
          (s.goesInward c.2 = false ∧
            (arDirConf c.2.ar || arDpl c.2.ar == s.cpl) = true ∧
            s.ss.room s.regs.sp (s.entryFrame ret code).length = true ∧
            t = (s.enterGate ((s.holdAccessed c.2).pushAllRaw (s.entryFrame ret code)) g c s.cpl
              kind).release s)) := by
  simp only [State.gateEntry, Exec.bind_eq_ok]
  refine exists_congr fun c => and_congr_right fun _ => ?_
  cases s.goesInward c.2
  · simp only [Bool.false_eq_true, ↓reduceIte, Exec.bind_eq_ok, require_eq_ok, exists_const,
      false_and, true_and, false_or]
    split
    · rename_i hl
      simp only [hl, true_and, Except.ok.injEq, @eq_comm State t]
    · rename_i hl
      simp only [hl, reduceCtorEq, false_and, and_false]
  · simp only [↓reduceIte, Exec.bind_eq_ok, require_eq_ok, exists_const, decide_eq_true_eq,
      Except.ok.injEq, true_and, reduceCtorEq, false_and, or_false]
    constructor
    · rintro ⟨k, hk, hr, hl, rfl⟩; exact ⟨hl, k, hk, hr, rfl⟩
    · rintro ⟨hl, k, hk, hr, rfl⟩; exact ⟨k, hk, hr, hl, rfl⟩

/-! ## Boundaries (R637) -/

/-- The event a step takes at a boundary is due and comes after those already taken there. -/
theorem State.nextEvent_due {s : State} {e : BoundaryEvent} (h : s.nextEvent = some e) :
    s.due e = true ∧ s.boundaryStep < e.order := by
  have := List.find?_some h
  simp only [Bool.and_eq_true, decide_eq_true_eq] at this
  exact ⟨this.2, this.1⟩

end Sys2Proof.Machine
end

