-- ==== Sys2Proof/Tests/Slice0.lean ====
section
/-! SUPPORT. Tests against the vectors of spec 95_test_vectors.md and the encodings of the rules, the
refusals of WellFormed, and for each statement a state and operands that meet its hypotheses. -/

namespace Sys2Proof.Tests

open Sys2Proof.Machine

set_option maxRecDepth 20000

/-! ## Helpers -/

/-- What a next state shows. -/
def after {α : Type} (o : Host.Outcome State Fault Refusal) (f : State → α) : Option α :=
  match o with
  | .next t => some (f t)
  | _ => none

/-- A next state is answered. -/
def goes (o : Host.Outcome State Fault Refusal) : Bool := (after o fun _ => true).isSome

/-- Bytes of memory from an address on, in canonical form. -/
def cellsAt (a : Nat) : List Byte → List Host.Cell
  | [] => []
  | b :: bs => if b = 0#8 then cellsAt (a + 1) bs else (a, b) :: cellsAt (a + 1) bs

/-- The general registers the tests start from. -/
def r0 : Regs := { ax := 0, cx := 0, dx := 0, bx := 0, sp := 0x0200, bp := 0, si := 0, di := 0 }

/-- A state in real address mode with code at 1000h:0100h and DS, ES and SS at 0. -/
def real (code : List Byte) (r : Regs) (f : Word) : State :=
  { State.reset with
    cs := realSeg 0x1000#16 0x10000#24, ip := 0x0100#16, curIp := 0x0100#16, regs := r
    flags := Flags.ofWord f, mem := cellsAt 0x10100 code }

/-- That state with bytes below the code. -/
def low (s : State) (a : Nat) (bs : List Byte) : State :=
  { s with mem := cellsAt a bs ++ s.mem }

/-- A state in which a repeat prefix with this z bit has been executed. -/
def repeating (z : Bool) (s : State) : State :=
  { s with pre := { Prefixes.none with rep := some z } }

/-- The status flags as the vectors list them: CF PF AF ZF SF OF. -/
def six (f : Flags) : List Bool := [f.cf, f.pf, f.af, f.zf, f.sf, f.of]

/-- The status flags a list of bits names. -/
def bits (l : List Nat) : List Bool := l.map (· == 1)

/-- A segment descriptor (R154). -/
def desc (limit : Word) (base : Addr) (ar : Byte) : List Byte :=
  [loByte limit, hiByte limit, base.extractLsb' 0 8, base.extractLsb' 8 8, base.extractLsb' 16 8,
    ar,
    0, 0]

/-- A gate (R155). -/
def gate (offset sel : Word) (count ar : Byte) : List Byte :=
  [loByte offset, hiByte offset, loByte sel, hiByte sel, count, ar, 0, 0]

/-- Words, little endian. -/
def words : List Word → List Byte
  | [] => []
  | w :: ws => loByte w :: hiByte w :: words ws

/-- A GDT: code and data of levels 0 and 3, conforming code, a busy and an available task state
segment, a call gate, an LDT, data not present, a task gate, the task state segment of limit 2Ah,
data. -/
def gdt : List Byte :=
  desc 0 0 0 ++ desc 0xFFFF 0x10000 0x9A ++ desc 0xFFFF 0x20000 0x92 ++ desc 0xFFFF 0x10000 0xFA ++
    desc 0xFFFF 0x20000 0xF2 ++ desc 0x00FF 0x10000 0x9E ++ desc 0x002B 0x03000 0x83 ++
    desc 0x002B 0x03100 0x81 ++ gate 0x0400 0x0008 2 0xE4 ++ desc 0x000F 0x03200 0x82 ++
    desc 0xFFFF 0x20000 0x12 ++ gate 0 0x0038 0 0xE5 ++ desc 0x002A 0x03100 0x81 ++
    desc 0x00FF 0x20000 0x93

/-- An IDT: entry 5 a task gate, entry 6 an interrupt gate, entry 13 a trap gate of DPL 3, both to
0008h. -/
def idt : List Byte :=
  (List.replicate 40 0) ++ gate 0 0x0038 0 0xE5 ++ gate 0x0600 0x0008 0 0x86 ++ (List.replicate 48 0) ++
    gate 0x0D00 0x0008 0 0xE7

/-- The current task state segment: SP and SS of level 0. -/
def tss : List Byte := words [0, 0x0800, 0x0010]

/-- A task state segment to switch to. -/
def newTss : List Byte :=
  words [0, 0, 0, 0, 0, 0, 0, 0x0700, 0x0002, 1, 2, 3, 4, 0x0400, 6, 7, 8, 0x0010, 0x0008, 0x0010,
    0x0010, 0]

/-- A code or data segment register of protected mode. -/
def cache (sel : Word) (base : Addr) (ar : Byte) : SegReg :=
  { sel := sel, base := base, limit := 0xFFFF, ar := ar, valid := true }

/-- A state in protected mode at CPL 0 with those tables, code at 0008h:0100h. -/
def prot (code : List Byte) (r : Regs) (f : Word) : State :=
  { real code r f with
    msw := { pe := true, mp := false, em := false, ts := false }
    cs := cache 0x0008 0x10000 0x9B, ss := cache 0x0010 0x20000 0x93
    ds := cache 0x0010 0x20000 0x93, es := cache 0x0010 0x20000 0x93
    gdtr := { base := 0x1000, limit := 0x006F }, idtr := { base := 0x2000, limit := 0x006F }
    tr := { sel := 0x0030, base := 0x3000, limit := 0x002B, loaded := true }
    mem := cellsAt 0x1000 gdt ++ cellsAt 0x2000 idt ++ cellsAt 0x3000 tss ++
      cellsAt 0x3100 newTss ++ cellsAt 0x10100 code }

/-- That state at CPL 3. -/
def user (code : List Byte) (r : Regs) (f : Word) : State :=
  { prot code r f with
    cpl := 3, cs := cache 0x001B 0x10000 0xFB, ss := cache 0x0023 0x20000 0xF3
    ds := cache 0x0023 0x20000 0xF3, es := cache 0x0023 0x20000 0xF3 }

/-- A state with bytes above the code: from 20000h, where the data segments of `prot` lie. -/
def high (s : State) (a : Nat) (bs : List Byte) : State :=
  { s with mem := s.mem ++ cellsAt a bs }

/-- The word at an offset of the stack segment. -/
def stackWord (t : State) (off : Word) : Word := t.readWord (linear t.ss.base off)

/-! ## WellFormed refuses what has no encoding -/

/-- R291: BP alone has no register indirect form. -/
theorem test_wf_bp : (Instr.movRmReg .word (.mem (.ind .bp)) 0).wellFormed = false := by decide

theorem test_wf_bp_pointer : (Instr.lds 0 (.ind .bp)).wellFormed = false := by decide

/-- R331: there is no MOV to CS. -/
theorem test_wf_mov_cs : (Instr.movSregRm .cs (.reg 0)).wellFormed = false := by decide

/-- R578: 90h is NOP. -/
theorem test_wf_xchg_ax : (Instr.xchgAxReg 0).wellFormed = false := by decide

/-! ## Words of the encodings, family by family -/

/-- B1.2 to B1.7 and R346 to R369. -/
theorem test_decode_data_transfer :
      decode [0x8B, 0x46, 0x00] = .ok (.movRegRm .word 0 (.mem (.ind8 .bp 0))) [] ∧
      decode [0x8B, 0x06, 0x34, 0x12] = .ok (.movRegRm .word 0 (.mem (.direct 0x1234))) [] ∧
      decode [0x8B, 0x82, 0x34, 0x12] = .ok (.movRegRm .word 0 (.mem (.ind16 .bpSi 0x1234))) [] ∧
      decode [0xC7, 0x06, 0x00, 0x00, 0x20,
        0x01] = .ok (.movRmImm (.mem (.direct 0)) (.word 0x0120)) [] ∧
      decode [0xB3, 0x07] = .ok (.movRegImm 3 (.byte 7)) [] ∧
      decode [0xA3, 0xFE, 0xFF] = .ok (.movMemAcc .word 0xFFFE) [] ∧
      decode [0x8E, 0xD0] = .ok (.movSregRm .ss (.reg 0)) [] ∧
      decode [0x8C, 0x0E, 0x02, 0x00] = .ok (.movRmSreg (.mem (.direct 2)) .cs) [] ∧
      decode [0x6A, 0x07] = .ok (.pushImm (.byte 7)) [] ∧
      decode [0x0E] = .ok (.pushSreg .cs) [] ∧
      decode [0x5C] = .ok (.popReg 4) [] ∧
      decode [0x86, 0xE0] = .ok (.xchgRmReg .byte (.reg 0) 4) [] ∧
      decode [0xE7, 0x80] = .ok (.outImm .word 0x80) [] ∧
      decode [0xC5, 0x1E, 0xFE, 0xFF] = .ok (.lds 3 (.direct 0xFFFE)) [] := by
  decide

/-- B1.9 and R388 to R413. -/
theorem test_decode_arithmetic :
      decode [0x81, 0xC3, 0xFF, 0x00] = .ok (.addRmImm (.reg 3) (.word 0x00FF)) [] ∧
      decode [0x18, 0xD8] = .ok (.sbbRmReg false .byte (.reg 0) 3) [] ∧
      decode [0x3A, 0xC3] = .ok (.cmpRegRm .byte 0 (.reg 3)) [] ∧
      decode [0xFE, 0xC0] = .ok (.incRm .byte (.reg 0)) [] ∧
      decode [0x4F] = .ok (.decReg 7) [] ∧
      decode [0xF7, 0xD8] = .ok (.neg .word (.reg 0)) [] ∧
      decode [0x69, 0xC3, 0xB5, 0x00] = .ok (.imulImm 0 (.reg 3) (.word 0x00B5)) [] ∧
      decode [0x6B, 0xC3, 0xFF] = .ok (.imulImm 0 (.reg 3) (.byte 0xFF)) [] ∧
      decode [0xF6, 0xF3] = .ok (.div .byte (.reg 3)) [] ∧
      decode [0xD4, 0x0A] = .ok (.aam) [] ∧
      decode [0xD5, 0x0A] = .ok (.aad) [] := by
  decide

/-- R431 to R452. -/
theorem test_decode_logic :
      decode [0x21, 0xD8] = .ok (.andRmReg false .word (.reg 0) 3) [] ∧
      decode [0x81, 0xC8, 0x01, 0x00] = .ok (.orRmImm (.reg 0) (.word 1)) [] ∧
      decode [0xF7, 0xD0] = .ok (.not .word (.reg 0)) [] ∧
      decode [0xD0, 0xC0] = .ok (.rolOne .byte (.reg 0)) [] ∧
      decode [0xC1, 0xCB, 0x04] = .ok (.rorImm .word (.reg 3) 4) [] ∧
      decode [0xD3, 0xF8] = .ok (.sarCl .word (.reg 0)) [] ∧
      decode [0xA8, 0x80] = .ok (.testAccImm (.byte 0x80)) [] := by
  decide

/-- R462 to R469, R302. -/
theorem test_decode_strings :
      decode [0xA4] = .ok (.movs .byte) [] ∧
      decode [0xA7] = .ok (.cmps .word) [] ∧
      decode [0xAE] = .ok (.scas .byte) [] ∧
      decode [0xAC] = .ok (.lods .byte) [] ∧
      decode [0xAB] = .ok (.stos .word) [] ∧
      decode [0x6C] = .ok (.ins .byte) [] ∧
      decode [0x6F] = .ok (.outs .word) [] := by
  decide

/-- B1.10 and R482 to R518. -/
theorem test_decode_control :
      decode [0xEA, 0x00, 0x01, 0x08, 0x00] = .ok (.jmpFar 0x0100 0x0008) [] ∧
      decode [0xE8, 0x10, 0x00] = .ok (.callRel 0x0010) [] ∧
      decode [0xFF, 0x1F] = .ok (.callFarMem (.ind .bx)) [] ∧
      decode [0xFF, 0xE3] = .ok (.jmpRm (.reg 3)) [] ∧
      decode [0xCA, 0x04, 0x00] = .ok (.retFarImm 4) [] ∧
      decode [0x77, 0xFE] = .ok (.jnbe 0xFE) [] ∧
      decode [0xE3, 0x02] = .ok (.jcxz 2) [] ∧
      decode [0x62, 0x07] = .ok (.bound 0 (.ind .bx)) [] ∧
      decode [0xCD, 0x21] = .ok (.int 0x21) [] ∧
      decode [0xCC] = .ok (.int3) [] ∧
      decode [0xCF] = .ok (.iret) [] := by
  decide

/-- R561 to R575 and R592 to R611. -/
theorem test_decode_processor_control :
      decode [0xFB] = .ok (.sti) [] ∧
      decode [0x36] = .ok (.seg .ss) [] ∧
      decode [0xF0] = .ok (.lock) [] ∧
      decode [0x0F, 0x06] = .ok (.cts) [] ∧
      decode [0xDF, 0xE0] = .ok (.esc 7 4 (.reg 0)) [] ∧
      decode [0x0F, 0x00, 0xD8] = .ok (.ltr (.reg 0)) [] ∧
      decode [0x0F, 0x01, 0xE0] = .ok (.smsw (.reg 0)) [] ∧
      decode [0x0F, 0x01, 0xF0] = .ok (.lmsw (.reg 0)) [] ∧
      decode [0x0F, 0x02, 0xC3] = .ok (.lar 0 (.reg 3)) [] ∧
      decode [0x63, 0xC3] = .ok (.arpl (.reg 3) 0) [] := by
  decide

/-- B1.15, R331, R330: encodings no row lists; R280: an instruction cut short. -/
theorem test_decode_unlisted :
    decode [0x83, 0xC8, 0x01] = .unlisted ∧ decode [0x8E, 0xC8] = .unlisted ∧
      decode [0x0F, 0xFF] = .unlisted ∧ decode [0x81, 0xC3, 0xFF] = .truncated := by decide

/-- The host's numbering, first byte most significant: MOV AX, 1234h. -/
theorem test_table_word : decodeTableWord 24 0xB83412 = some (.movRegImm 0 (.word 0x1234)) := by
  decide

/-- The same word runs as the first instruction after reset. -/
theorem test_fetch_word :
    after (step (State.reset.withFetchWord 24 0xB83412)) (fun t => (t.ip, t.regs.ax)) =
      some (0xFFF3, 0x1234) := by decide

/-! ## Data transfer -/

/-- B1.1. -/
theorem test_mov_reg_rm :
    after (step (real [0x89, 0xD8] { r0 with bx := 0x5678 } 0x2))
      (fun t => (t.regs.ax, t.ip)) =
        some (0x5678, 0x102) := by decide

/-- B2.2: a byte at offset FFFFh is admitted. -/
theorem test_mov_byte_end :
    after (step (real [0xA0, 0xFF, 0xFF] { r0 with ax := 0x1234 } 0x2))
      (fun t => (t.regs.ax, t.ip)) =
        some (0x1200, 0x103) := by decide

/-- B2.1: a word at offset FFFFh is exception 13, the saved IP at the A1. -/
theorem test_mov_word_end :
    after (step (real [0xA1, 0xFF, 0xFF] r0 0x2))
      (fun t => (t.regs.sp, stackWord t 0x01FA)) =
        some (0x1FA, 0x100) := by decide

/-- B2.3. -/
theorem test_mov_mem_acc :
    after (step (real [0xA3, 0xFE, 0xFF] { r0 with ax := 0x1234 } 0x2))
      (fun t => (t.readByte 0xFFFE, t.readByte 0xFFFF)) =
        some (0x34, 0x12) := by decide

/-- B3.11. -/
theorem test_mov_sreg_real :
    after (step (real [0x8E, 0xD8] { r0 with ax := 0x2000 } 0x2))
      (fun t => t.ds) =
        some (realSeg 0x2000 0x020000) := by decide

/-- P4: MOV DS at CPL 0 sets the accessed bit in memory. -/
theorem test_mov_sreg_prot :
    after (step (prot [0x8E, 0xD8] { r0 with ax := 0x10 } 0x2))
      (fun t => (t.ds, t.readByte 0x1015)) =
        some (cache 0x0010 0x20000 0x93, 0x93) := by decide

/-- R347. -/
theorem test_mov_rm_sreg :
    after (step (real [0x8C, 0xC8] r0 0x2))
      (fun t => t.regs.ax) =
        some 0x1000 := by decide

/-- R343. -/
theorem test_mov_rm_imm :
    after (step (real [0xC6, 0x06, 0x00, 0x03, 0x7F] r0 0x2))
      (fun t => t.readByte 0x300) =
        some 0x7F := by decide

/-- B2.4: the selector word wraps to offset 0. -/
theorem test_lds_wrap :
    after (step (low (real [0xC5, 0x1E, 0xFE, 0xFF] r0 0x2) 0 [0x34, 0x12]))
      (fun t => (t.regs.bx, t.ds.sel)) =
        some (0, 0x1234) := by decide

/-- B2.4: the second word at FFFFh is exception 13. -/
theorem test_les_wrap_fault :
    after (step (real [0xC4, 0x1E, 0xFD, 0xFF] { r0 with bx := 0x7 } 0x2))
      (fun t => (t.regs.bx, stackWord t 0x01FA)) =
        some (7, 0x100) := by decide

/-- B2.12. -/
theorem test_push_sp :
    after (step (real [0x54] { r0 with sp := 0x100 } 0x2))
      (fun t => (t.regs.sp, stackWord t 0xFE)) =
        some (0xFE, 0x100) := by decide

/-- B2.8. -/
theorem test_push_wrap :
    after (step (real [0x50] { r0 with sp := 0x0, ax := 0x1234 } 0x2))
      (fun t => (t.regs.sp, stackWord t 0xFFFE)) =
        some (0xFFFE, 0x1234) := by decide

/-- B2.9. -/
theorem test_push_shutdown :
    after (step (real [0x50] { r0 with sp := 0x1 } 0x2))
      (fun t => (t.run, t.regs.sp)) =
        some (.shutdown, 1) := by decide

/-- B2.11. -/
theorem test_pop_wrap :
    after (step (real [0x58] { r0 with sp := 0xFFFE } 0x2))
      (fun t => (t.regs.ax, t.regs.sp)) =
        some (0, 0) := by decide

/-- B2.13. -/
theorem test_pop_sp :
    after (step (low (real [0x5C] { r0 with sp := 0xFE } 0x2) 0xFE [0x34, 0x12]))
      (fun t => t.regs.sp) =
        some 0x1234 := by decide

/-- P5. -/
theorem test_push_imm :
    after (step (real [0x6A, 0xFB] r0 0x2))
      (fun t => stackWord t 0x1FE) =
        some 0xFFFB := by decide

/-- B3.16. -/
theorem test_pusha :
    after (step (real [0x60] {
        ax := 1, cx := 2, dx := 3, bx := 4, sp := 0x100, bp := 6, si := 7, di := 8 } 0x2))
      (fun t => (t.regs.sp, (List.range 8).map fun i =>
        stackWord t (0xF0 + BitVec.ofNat 16 (2 * i)))) =
        some (0xF0, [8, 7, 6, 0x100, 4, 3, 2, 1]) := by decide

/-- R372, R648: PUSHA in protected mode stops at the start of the stack segment, POPA at its end. -/
theorem test_pusha_wrap :
    (cache 0x0010 0x20000 0x93).pushable 8 6 = 3 ∧ (prot [] r0 2).poppable popaOrder 0xFFF0 = 7 := by decide

/-- B3.16: the word of SP is discarded. -/
theorem test_popa :
    after (step (low (real [0x61] { r0 with sp := 0xF0 } 0x2) 0xF0 (words [8, 7, 6, 0x5555,
      4, 3, 2, 1])))
      (fun t => (t.regs.sp, t.regs.di, t.regs.ax, t.regs.bx)) =
        some (0x100, 8, 1, 4) := by decide

/-- R357: the skipped word is not read, so that in real address mode it may lie at FFFFh. -/
theorem test_popa_skips :
    after (step (low (real [0x61] { r0 with sp := 0xFFF9 } 0x2) 7 [0x34, 0x12]))
      (fun t => (t.regs.sp, t.regs.ax)) = some (9, 0x1234) := by decide

/-- B3.1. -/
theorem test_xchg_ax :
    after (step (real [0x93] { r0 with ax := 0x1234, bx := 0x5678 } 0xD7))
      (fun t => (t.regs.ax, t.regs.bx, t.flags.toWord)) =
        some (0x5678, 0x1234, 0xD7) := by decide

/-- B3.2. -/
theorem test_xchg_halves :
    after (step (real [0x86, 0xE0] { r0 with ax := 0x1234 } 0x2))
      (fun t => t.regs.ax) =
        some 0x3412 := by decide

/-- B3.3. -/
theorem test_nop :
    after (step (real [0x90] { r0 with ax := 0x7 } 0x2))
      (fun t => (t.regs.ax, t.ip)) =
        some (7, 0x101) := by decide

/-- B3.15. -/
theorem test_out :
    after (step (real [0xE7, 0x80] { r0 with ax := 0xAA55 } 0x2))
      (fun t => t.out) =
        some [.ioWrite 0x80 .word 0xAA55] := by decide

/-- R112, R707: a word at an odd port is two byte operations, the low byte first. -/
theorem test_out_odd :
    after (step (real [0xE7, 0x81] { r0 with ax := 0xAA55 } 0x2))
      (fun t => t.out) =
        some [.ioWrite 0x82 .byte 0xAA, .ioWrite 0x81 .byte 0x55] := by decide

/-- B3.14: with CPL > IOPL IN is exception 13 and no access is made. -/
theorem test_in_privilege :
    after (step (user [0xEC] { r0 with dx := 0x300 } 0x2))
      (fun t => (t.out, t.ip, t.cpl)) =
        some ([], 0xD00, 0) := by decide

/-- B3.9. -/
theorem test_xlat :
    after (step (low (real [0xD7] { r0 with bx := 0x2000, ax := 0xFF } 0x2) 0x20FF [0x77]))
      (fun t => t.regs.ax) =
        some 0x77 := by decide

/-- B3.10. -/
theorem test_xlat_wrap :
    after (step (low (real [0xD7] { r0 with bx := 0xFFFF, ax := 0x1202 } 0x2) 1 [0x77]))
      (fun t => t.regs.ax) =
        some 0x1277 := by decide

/-- B1.12. -/
theorem test_lea :
    after (step (real [0x8D, 0x00] { r0 with bx := 0xFFFF, si := 0x2 } 0x2))
      (fun t => (t.regs.ax, t.ip)) =
        some (1, 0x102) := by decide

/-- B3.4. -/
theorem test_lahf :
    after (step (real [0x9F] { r0 with ax := 0x34 } 0xAD7))
      (fun t => t.regs.ax) =
        some 0xD734 := by decide

/-- B3.5. -/
theorem test_sahf :
    after (step (real [0x9E] { r0 with ax := 0xFF00 } 0x202))
      (fun t => t.flags.toWord) =
        some 0x2D7 := by decide

/-- R370. -/
theorem test_pushf :
    after (step (real [0x9C] r0 0xFFFF))
      (fun t => stackWord t 0x1FE) =
        some 0x7FD7 := by decide

/-- B3.6. -/
theorem test_popf_real :
    after (step (low (real [0x9D] { r0 with sp := 0x100 } 0x2) 0x100 [0xFF, 0xFF]))
      (fun t => (t.flags.toWord, t.regs.sp)) =
        some (0xFD7, 0x102) := by decide

/-- B3.7: IF and IOPL are kept. -/
theorem test_popf_user :
    after (step (high (user [0x9D] { r0 with sp := 0x100 } 0x202) 0x20100 [0x00, 0x30]))
      (fun t => t.flags.toWord) =
        some 0x202 := by decide

/-! ## Arithmetic -/

/-- B4.1. -/
theorem test_add_carry :
    after (step (real [0x01, 0xD8] { r0 with ax := 0xFFFF, bx := 0x1 } 0x2))
      (fun t => (t.regs.ax, six t.flags)) =
        some (0x0, bits [1, 1, 1, 1, 0, 0]) := by decide

/-- B4.2. -/
theorem test_add_overflow :
    after (step (real [0x01, 0xD8] { r0 with ax := 0x7FFF, bx := 0x7FFF } 0x2))
      (fun t => (t.regs.ax, six t.flags)) =
        some (0xFFFE, bits [0, 0, 1, 0, 1, 1]) := by decide

/-- B1.8. -/
theorem test_add_sign_extended :
    after (step (real [0x83, 0xC3, 0xFF] { r0 with bx := 0x1 } 0x2))
      (fun t => (t.regs.bx, six t.flags)) =
        some (0x0, bits [1, 1, 1, 1, 0, 0]) := by decide

/-- B4.5. -/
theorem test_adc_byte :
    after (step (real [0x10, 0xD8] { r0 with ax := 0xFF, bx := 0xFF } 0x3))
      (fun t => (t.regs.ax, six t.flags)) =
        some (0xFF, bits [1, 1, 1, 0, 1, 0]) := by decide

/-- B4.6. -/
theorem test_adc_word :
    after (step (real [0x11, 0xD8] { r0 with ax := 0x8000, bx := 0x8000 } 0x3))
      (fun t => (t.regs.ax, six t.flags)) =
        some (0x1, bits [1, 0, 0, 0, 0, 1]) := by decide

/-- B4.15. -/
theorem test_inc_keeps_cf :
    after (step (real [0x40] { r0 with ax := 0xFFFF } 0x3))
      (fun t => (t.regs.ax, six t.flags)) =
        some (0x0, bits [1, 1, 1, 1, 0, 0]) := by decide

/-- B4.17. -/
theorem test_inc_byte :
    after (step (real [0xFE, 0xC0] { r0 with ax := 0x7F } 0x2))
      (fun t => (t.regs.ax, six t.flags)) =
        some (0x80, bits [0, 0, 1, 0, 1, 1]) := by decide

/-- B4.7. -/
theorem test_sub_borrow :
    after (step (real [0x29, 0xD8] { r0 with bx := 0x1 } 0x2))
      (fun t => (t.regs.ax, six t.flags)) =
        some (0xFFFF, bits [1, 1, 1, 0, 1, 0]) := by decide

/-- B4.9. -/
theorem test_sub_overflow :
    after (step (real [0x28, 0xD8] { r0 with ax := 0x7F, bx := 0xFF } 0x2))
      (fun t => (t.regs.ax, six t.flags)) =
        some (0x80, bits [1, 0, 0, 0, 1, 1]) := by decide

/-- B4.11. -/
theorem test_sbb :
    after (step (real [0x19, 0xD8] { r0 with bx := 0xFFFF } 0x3))
      (fun t => (t.regs.ax, six t.flags)) =
        some (0x0, bits [1, 1, 1, 1, 0, 0]) := by decide

/-- B4.16. -/
theorem test_dec :
    after (step (real [0x48] { r0 with ax := 0x8000 } 0x2))
      (fun t => (t.regs.ax, six t.flags)) =
        some (0x7FFF, bits [0, 1, 1, 0, 0, 1]) := by decide

/-- B4.12. -/
theorem test_cmp :
    after (step (real [0x38, 0xD8] { r0 with ax := 0x10, bx := 0x1 } 0x2))
      (fun t => (t.regs.ax, six t.flags)) =
        some (0x10, bits [0, 1, 1, 0, 0, 0]) := by decide

/-- B4.13. -/
theorem test_neg_min :
    after (step (real [0xF6, 0xD8] { r0 with ax := 0x80 } 0x2))
      (fun t => (t.regs.ax, six t.flags)) =
        some (0x80, bits [1, 0, 0, 0, 1, 1]) := by decide

/-- B4.14. -/
theorem test_neg_zero :
    after (step (real [0xF7, 0xD8] r0 0x2))
      (fun t => (t.regs.ax, six t.flags)) =
        some (0x0, bits [0, 1, 0, 1, 0, 0]) := by decide

/-- B4.20. -/
theorem test_mul_byte :
    after (step (real [0xF6, 0xE3] { r0 with ax := 0x10, bx := 0x10 } 0x2))
      (fun t => (t.regs.ax, t.flags.cf, t.flags.of)) =
        some (0x100, true, true) := by decide

/-- B4.22. -/
theorem test_mul_word :
    after (step (real [0xF7, 0xE3] { r0 with ax := 0xFFFF, bx := 0xFFFF } 0x2))
      (fun t => (t.regs.dx, t.regs.ax)) =
        some (0xFFFE, 1) := by decide

/-- B4.25: 128 does not fit a signed byte. -/
theorem test_imul_byte :
    after (step (real [0xF6, 0xEB] { r0 with ax := 0x40, bx := 0x2 } 0x2))
      (fun t => (t.regs.ax, t.flags.cf, t.flags.of)) =
        some (0x80, true, true) := by decide

/-- B4.26. -/
theorem test_imul_word :
    after (step (real [0xF7, 0xEB] { r0 with ax := 0x8000, bx := 0xFFFF } 0x2))
      (fun t => (t.regs.dx, t.regs.ax, t.flags.cf)) =
        some (0, 0x8000, true) := by decide

/-- B4.28. -/
theorem test_imul_imm :
    after (step (real [0x69, 0xC3, 0xB5, 0x00] { r0 with bx := 0xB5 } 0x2))
      (fun t => (t.regs.ax, t.flags.cf, t.flags.of)) =
        some (0x7FF9, false, false) := by decide

/-- B4.30. -/
theorem test_imul_imm_byte :
    after (step (real [0x6B, 0xC3, 0xFF] { r0 with bx := 0x8000 } 0x2))
      (fun t => (t.regs.ax, t.flags.cf, t.flags.of)) =
        some (0x8000, true, true) := by decide

/-- B4.31. -/
theorem test_div_byte :
    after (step (real [0xF6, 0xF3] { r0 with ax := 0xFEFF, bx := 0xFF } 0x2))
      (fun t => t.regs.ax) =
        some 0xFEFF := by decide

/-- B4.35: a quotient of 10000h is exception 0. -/
theorem test_div_overflow :
    after (step (real [0xF7, 0xF3] { r0 with dx := 0x1, bx := 0x1 } 0x2))
      (fun t => (t.regs.dx, stackWord t 0x1FA)) =
        some (1, 0x100) := by decide

/-- B4.37. -/
theorem test_idiv_sign :
    after (step (real [0xF6, 0xFB] { r0 with ax := 0x7, bx := 0xFE } 0x2))
      (fun t => t.regs.ax) =
        some 0x1FD := by decide

/-- B4.38: a quotient of -128 is valid. -/
theorem test_idiv_min :
    after (step (real [0xF6, 0xFB] { r0 with ax := 0xFF80, bx := 0x1 } 0x2))
      (fun t => (t.regs.ax, t.ip)) =
        some (0x80, 0x102) := by decide

/-- B4.60. -/
theorem test_aaa :
    after (step (real [0x37] { r0 with ax := 0xB } 0x2))
      (fun t => (t.regs.ax, t.flags.af, t.flags.cf)) =
        some (0x101, true, true) := by decide

/-- B4.63. -/
theorem test_aas :
    after (step (real [0x3F] { r0 with ax := 0x2FF } 0x12))
      (fun t => (t.regs.ax, t.flags.af, t.flags.cf)) =
        some (0x109, true, true) := by decide

/-- B4.50. -/
theorem test_daa :
    after (step (real [0x27] { r0 with ax := 0x9A } 0x2))
      (fun t => (t.regs.ax, t.flags.cf, t.flags.af, t.flags.zf)) =
        some (0, true, true, true) := by decide

/-- B4.53: 79 + 35 = 114. -/
theorem test_daa_high :
    after (step (real [0x27] { r0 with ax := 0xAE } 0x2))
      (fun t => (t.regs.ax, t.flags.cf)) =
        some (0x14, true) := by decide

/-- B4.56. -/
theorem test_das :
    after (step (real [0x2F] { r0 with ax := 0xEE } 0x13))
      (fun t => (t.regs.ax, t.flags.cf, t.flags.sf)) =
        some (0x88, true, true) := by decide

/-- B4.58. -/
theorem test_das_wrap :
    after (step (real [0x2F] { r0 with ax := 0x5 } 0x12))
      (fun t => (t.regs.ax, t.flags.cf, t.flags.af)) =
        some (0xFF, false, true) := by decide

/-- B4.65. -/
theorem test_aam :
    after (step (real [0xD4, 0x0A] { r0 with ax := 0xFF } 0x2))
      (fun t => (t.regs.ax, t.flags.pf)) =
        some (0x1905, true) := by decide

/-- B4.68. -/
theorem test_aad :
    after (step (real [0xD5, 0x0A] { r0 with ax := 0xFFFF } 0x2))
      (fun t => (t.regs.ax, t.flags.sf)) =
        some (0xF5, true) := by decide

/-- R414. -/
theorem test_cbw :
    after (step (real [0x98] { r0 with ax := 0x80 } 0x2))
      (fun t => t.regs.ax) =
        some 0xFF80 := by decide

/-- R415. -/
theorem test_cwd :
    after (step (real [0x99] { r0 with ax := 0x8000 } 0x2))
      (fun t => t.regs.dx) =
        some 0xFFFF := by decide

/-! ## Logic and shift -/

/-- B5.1. -/
theorem test_and :
    after (step (real [0x21, 0xD8] { r0 with ax := 0xF0F0, bx := 0xFF0 } 0x3))
      (fun t => (t.regs.ax, t.flags.pf, t.flags.cf)) =
        some (0xF0, true, false) := by decide

/-- B5.2. -/
theorem test_or :
    after (step (real [0x09, 0xD8] { r0 with ax := 0x8000, bx := 0x1 } 0x2))
      (fun t => (t.regs.ax, t.flags.sf, t.flags.pf)) =
        some (0x8001, true, false) := by decide

/-- B5.3. -/
theorem test_xor :
    after (step (real [0x31, 0xC0] { r0 with ax := 0x5 } 0x2))
      (fun t => (t.regs.ax, t.flags.zf, t.flags.pf)) =
        some (0, true, true) := by decide

/-- B5.4. -/
theorem test_test :
    after (step (real [0x85, 0xC0] { r0 with ax := 0x8000 } 0x2))
      (fun t => (t.regs.ax, t.flags.sf, t.flags.zf)) =
        some (0x8000, true, false) := by decide

/-- B5.5. -/
theorem test_not :
    after (step (real [0xF7, 0xD0] { r0 with ax := 0xFF } 0xD7))
      (fun t => (t.regs.ax, t.flags.toWord)) =
        some (0xFF00, 0xD7) := by decide

/-- B5.10. -/
theorem test_rol :
    after (step (real [0xD0, 0xC0] { r0 with ax := 0x81 } 0x2))
      (fun t => (t.regs.ax, t.flags.cf, t.flags.of)) =
        some (0x3, true, true) := by decide

/-- B5.12. -/
theorem test_rol_all :
    after (step (real [0xC1, 0xC0, 0x10] { r0 with ax := 0x8001 } 0x2))
      (fun t => (t.regs.ax, t.flags.cf)) =
        some (0x8001, true) := by decide

/-- B5.13. -/
theorem test_ror :
    after (step (real [0xC1, 0xCB, 0x04] { r0 with bx := 0x1234 } 0x2))
      (fun t => (t.regs.bx, t.flags.cf)) =
        some (0x4123, false) := by decide

/-- B5.14: the nine-bit ring comes round. -/
theorem test_rcl :
    after (step (real [0xC0, 0xD0, 0x09] { r0 with ax := 0xA5 } 0x3))
      (fun t => (t.regs.ax, t.flags.cf)) =
        some (0xA5, true) := by decide

/-- B5.15. -/
theorem test_rcr :
    after (step (real [0xC1, 0xD8, 0x11] { r0 with ax := 0x1234 } 0x2))
      (fun t => (t.regs.ax, t.flags.cf)) =
        some (0x1234, false) := by decide

/-- B5.16. -/
theorem test_rcr_one :
    after (step (real [0xD1, 0xD8] { r0 with ax := 0x1 } 0x3))
      (fun t => (t.regs.ax, t.flags.cf, t.flags.of)) =
        some (0x8000, true, true) := by decide

/-- B5.17. -/
theorem test_shl :
    after (step (real [0xD1, 0xE0] { r0 with ax := 0x4000 } 0x2))
      (fun t => (t.regs.ax, t.flags.cf, t.flags.of)) =
        some (0x8000, false, true) := by decide

/-- B5.19. -/
theorem test_shl_past :
    after (step (real [0xC0, 0xE0, 0x09] { r0 with ax := 0xFF } 0x2))
      (fun t => (t.regs.ax, t.flags.cf)) =
        some (0x0, false) := by decide

/-- B5.21: count 32 masks to 0 and nothing is written. -/
theorem test_shl_count_32 :
    after (step (real [0xD3, 0xE0] { r0 with ax := 0x1234, cx := 0x20 } 0x803))
      (fun t => (t.regs.ax, t.flags.toWord)) =
        some (0x1234, 0x803) := by decide

/-- B5.24. -/
theorem test_shr :
    after (step (real [0xD0, 0xE8] { r0 with ax := 0x81 } 0x2))
      (fun t => (t.regs.ax, t.flags.cf, t.flags.of)) =
        some (0x40, true, true) := by decide

/-- B5.23: count 36 masks to 4. -/
theorem test_shr_cl :
    after (step (real [0xD2, 0xE8] { r0 with ax := 0xFF, cx := 0x24 } 0x2))
      (fun t => (t.regs.ax, t.flags.cf)) =
        some (0xF, true) := by decide

/-- B5.30. -/
theorem test_sar :
    after (step (real [0xD3, 0xF8] { r0 with ax := 0xFFF9, cx := 0x1 } 0x2))
      (fun t => (t.regs.ax, t.flags.cf, t.flags.of)) =
        some (0xFFFC, true, false) := by decide

/-- B5.28. -/
theorem test_sar_past :
    after (step (real [0xC0, 0xF8, 0x08] { r0 with ax := 0x80 } 0x2))
      (fun t => (t.regs.ax, t.flags.cf)) =
        some (0xFF, true) := by decide

/-! ## Strings -/

/-- B6.1: REP is recorded. -/
theorem test_rep_prefix :
    after (step (real [0xF3, 0xA4] r0 0x2))
      (fun t => (t.pre.rep, t.ip)) =
        some (some true, 0x101) := by decide

/-- B6.7: DF = 1; one element, and back to the prefix. -/
theorem test_movs_repeated :
    after (step (repeating true (low (real [0xA4] { r0 with cx := 0x4, si := 0x3, di := 0x13 } 0x402) 0 [1, 2, 3, 4])))
      (fun t => (t.readByte 0x13, t.regs.si, t.regs.di, t.regs.cx, t.ip)) =
        some (4, 2, 0x12, 3, 0x100) := by decide

/-- B6.1: CX = 0. -/
theorem test_movs_zero :
    after (step (repeating true (real [0xA4] r0 0x2)))
      (fun t => (t.regs.si, t.regs.cx, t.ip, t.pre)) =
        some (0, 0, 0x101, Prefixes.none) := by decide

/-- B6.2: the last word. -/
theorem test_stos :
    after (step (repeating true (real [0xAB] { r0 with cx := 0x1, ax := 0x1234, di := 0x104 } 0x2)))
      (fun t => (t.readWord 0x104, t.regs.di, t.regs.cx, t.ip)) =
        some (0x1234, 0x106, 0, 0x101) := by decide

/-- B6.8: exception 13, DI unchanged. -/
theorem test_stos_wrap :
    after (step (real [0xAB] { r0 with di := 0xFFFF } 0x2))
      (fun t => (t.regs.di, stackWord t 0x1FA)) =
        some (0xFFFF, 0x100) := by decide

/-- B6.3: the matching byte. -/
theorem test_scas :
    after (step (repeating false (real [0xAE] { r0 with cx := 0x3, di := 0x2 } 0x2)))
      (fun t => (t.flags.zf, t.regs.di, t.regs.cx, t.ip)) =
        some (true, 3, 2, 0x101) := by decide

/-- B6.4: the third pair differs. -/
theorem test_cmps :
    after (step (repeating true
        (low (low (real [0xA7] { r0 with cx := 0x1, si := 0x4, di := 0x14 } 0x2) 0x14 [4]) 4 [3])))
      (fun t => (t.flags.zf, t.flags.cf, t.flags.sf, t.regs.si, t.regs.di)) =
        some (false, true, true, 6, 0x16) := by decide

/-- B6.9. -/
theorem test_lods :
    after (step (real [0xAC] { r0 with si := 0xFFFF, ax := 0x1234 } 0x2))
      (fun t => (t.regs.ax, t.regs.si)) =
        some (0x1200, 0) := by decide

/-- B6.13: the SI operand follows the override. -/
theorem test_lods_override :
    after (step { low (real [0xAD] { r0 with si := 0x100 } 0x2) 0x300 [0x34, 0x12] with
        es := realSeg 0x20 0x200, pre := { Prefixes.none with seg := some .es } })
      (fun t => t.regs.ax) =
        some 0x1234 := by decide

/-- R467: the answer of the device is stored. -/
theorem test_ins :
    after (step (real [0x6C] { r0 with dx := 0x60 } 0x2))
      (fun t => (t.regs.di, t.out.length)) =
        some (1, 1) := by decide

/-- R469. -/
theorem test_outs :
    after (step (low (real [0x6E] { r0 with dx := 0x60, si := 0x5 } 0x2) 5 [0x77]))
      (fun t => (t.out, t.regs.si)) =
        some ([.ioWrite 0x60 .byte 0x77], 6) := by decide

/-! ## Control transfer -/

/-- B7.1. -/
theorem test_call :
    after (step (real [0xE8, 0x10, 0x00] r0 0x2))
      (fun t => (t.ip, t.regs.sp, stackWord t 0x1FE)) =
        some (0x113, 0x1FE, 0x103) := by decide

/-- R483. -/
theorem test_call_rm :
    after (step (real [0xFF, 0xD3] { r0 with bx := 0x300 } 0x2))
      (fun t => (t.ip, stackWord t 0x1FE)) =
        some (0x300, 0x102) := by decide

/-- B7.4. -/
theorem test_call_far :
    after (step (real [0x9A, 0x78, 0x56, 0x34, 0x12] r0 0x2))
      (fun t => (t.cs.base, t.ip, stackWord t 0x1FE, stackWord t 0x1FC)) =
        some (0x12340, 0x5678, 0x1000, 0x105) := by decide

/-- R236: CALL through the gate from CPL 3, two parameters. -/
theorem test_call_gate :
    after (step (high (user [0x9A, 0x00, 0x00, 0x43,
      0x00] { r0 with sp := 0x100 } 0x2) 0x20100 [0xAA, 0xAA, 0xBB, 0xBB]))
      (fun t => (t.cpl, t.ip, t.regs.sp, (List.range 6).map fun i =>
        stackWord t (0x7F4 + BitVec.ofNat 16 (2 * i)))) =
        some (0, 0x400, 0x7F4, [0x105, 0x1B, 0xAAAA, 0xBBBB, 0x100, 0x23]) := by decide

/-- R238: the matching RET 4, DS and ES of level 0 nulled (R239). -/
theorem test_ret_outward :
    after (step (high (prot [0xCA, 0x04,
      0x00] { r0 with sp := 0x7F4 } 0x2) 0x207F4 (words [0x205, 0x1B, 0xAAAA, 0xBBBB, 0x100,
        0x23])))
      (fun t => (t.cpl, t.regs.sp, t.ss.sel, t.cs.sel, t.ip, t.ds.valid)) =
        some (3, 0x104, 0x23, 0x1B, 0x205, false) := by decide

/-- B7.2. -/
theorem test_jmp_wrap :
    after (step (real [0xE9, 0x0D, 0x00] r0 0x2))
      (fun t => (t.ip, t.cs.sel)) =
        some (0x110, 0x1000) := by decide

/-- B7.3. -/
theorem test_jmp_short :
    after (step (real [0xEB, 0xFE] r0 0x2))
      (fun t => t.ip) =
        some 0x100 := by decide

/-- B8.9: a task switch by JMP. -/
theorem test_jmp_task :
    after (step (prot [0xEA, 0x00, 0x00, 0x38, 0x00] r0 0x2))
      (fun t => (t.tr.sel, t.ip, t.regs.ax, t.msw.ts, t.readByte 0x103D, t.readByte 0x1035)) =
        some (0x38, 0x700, 1, true, 0x83, 0x81) := by decide

/-- B8.9: limit 2Ah is exception 10, here without a gate, so a double fault and shutdown. -/
theorem test_jmp_task_limit :
    after (step (prot [0xEA, 0x00, 0x00, 0x60, 0x00] r0 0x2))
      (fun t => t.run) =
        some .shutdown := by decide

/-- R493. -/
theorem test_ret :
    after (step (low (real [0xC3] { r0 with sp := 0x1FE } 0x2) 0x1FE [0x34, 0x12]))
      (fun t => (t.ip, t.regs.sp)) =
        some (0x1234, 0x200) := by decide

/-- B7.5. -/
theorem test_ret_far :
    after (step (low (real [0xCA, 0x04,
      0x00] { r0 with sp := 0x1FC } 0x2) 0x1FC (words [0x105, 0x1000])))
      (fun t => (t.ip, t.cs.sel, t.regs.sp)) =
        some (0x105, 0x1000, 0x204) := by decide

/-- Table B7, 80h and 01h. -/
theorem test_jnbe :
    after (step (real [0x77, 0x10] r0 0x812))
      (fun t => t.ip) =
        some 0x112 := by decide

/-- Table B7, 7Fh and FFh: SF = OF. -/
theorem test_jl :
    after (step (real [0x7C, 0x10] r0 0x883))
      (fun t => t.ip) =
        some 0x102 := by decide

/-- B7.7. -/
theorem test_loop_ends :
    after (step (real [0xE2, 0xFE] { r0 with cx := 0x1 } 0x2))
      (fun t => (t.regs.cx, t.ip)) =
        some (0, 0x102) := by decide

/-- B7.8. -/
theorem test_loop_wraps :
    after (step (real [0xE2, 0xFE] r0 0x2))
      (fun t => (t.regs.cx, t.ip)) =
        some (0xFFFF, 0x100) := by decide

/-- B7.9. -/
theorem test_jcxz :
    after (step (real [0xE3, 0x02] r0 0x2))
      (fun t => t.ip) =
        some 0x104 := by decide

/-! ## High level instructions, interrupts -/

/-- B7.11. -/
theorem test_enter :
    after (step (real [0xC8, 0x04, 0x00, 0x00] { r0 with sp := 0x100, bp := 0x200 } 0x2))
      (fun t => (t.regs.bp, t.regs.sp, stackWord t 0xFE)) =
        some (0xFE, 0xFA, 0x200) := by decide

/-- B7.12. -/
theorem test_enter_2 :
    after (step (low (real [0xC8, 0x02, 0x00,
      0x02] { r0 with sp := 0x100, bp := 0x200 } 0x2) 0x1FE [0x55, 0x55]))
      (fun t => (t.regs.bp, t.regs.sp, [stackWord t 0xFE, stackWord t 0xFC, stackWord t 0xFA])) =
        some (0xFE, 0xF8, [0x200, 0x5555, 0xFE]) := by decide

/-- P5. -/
theorem test_leave :
    after (step (low (real [0xC9] { r0 with bp := 0x1F8 } 0x2) 0x1F8 [0x33, 0x33]))
      (fun t => (t.regs.bp, t.regs.sp)) =
        some (0x3333, 0x1FA) := by decide

/-- B7.13. -/
theorem test_bound :
    after (step (low (real [0x62,
      0x07] { r0 with ax := 0x9, bx := 0x300 } 0x2) 0x300 (words [0, 9])))
      (fun t => t.ip) =
        some 0x102 := by decide

/-- B7.13: exception 5, the saved IP at the 62. -/
theorem test_bound_out :
    after (step (low (real [0x62,
      0x07] { r0 with ax := 0xA, bx := 0x300 } 0x2) 0x300 (words [0, 9])))
      (fun t => stackWord t 0x1FA) =
        some 0x100 := by decide

/-- B8.1. -/
theorem test_int :
    after (step (low (real [0xCD, 0x21] r0 0x202) 0x84 (words [0x1234, 0x5678])))
      (fun t => (t.cs.sel, t.ip, t.flags.toWord, [stackWord t 0x1FE, stackWord t 0x1FC,
        stackWord t 0x1FA])) =
        some (0x5678, 0x1234, 2, [0x202, 0x1000, 0x102]) := by decide

/-- B8.11: a gate of DPL 0 at CPL 3 is exception 13 with code 6 * 8 + 2. -/
theorem test_int_gate_dpl :
    after (step (user [0xCD, 0x06] r0 0x2))
      (fun t => (t.ip, t.cpl, stackWord t 0x7F4)) =
        some (0xD00, 0, 0x32) := by decide

/-- B7.15. -/
theorem test_into :
    after (step (real [0xCE] r0 0x802))
      (fun t => (t.regs.sp, stackWord t 0x1FA)) =
        some (0x1FA, 0x101) := by decide

/-- B8.2. -/
theorem test_iret :
    after (step (low (real [0xCF] { r0 with sp := 0x1FA } 0x2) 0x1FA (words [0x102, 0x1000,
      0x202])))
      (fun t => (t.ip, t.cs.sel, t.flags.toWord, t.regs.sp)) =
        some (0x102, 0x1000, 0x202, 0x200) := by decide

/-! ## Processor control and protection -/

/-- B7.18. -/
theorem test_stc : after (step (real [0xF9] r0 0x2)) (fun t => t.flags.toWord) = some 3 := by decide

/-- B7.16. -/
theorem test_sti :
    after (step (real [0xFB] r0 0x2))
      (fun t => (t.flags.toWord, t.intInhibit)) =
        some (0x202, true) := by decide

/-- B7.17: exception 13. -/
theorem test_hlt_user :
    after (step (user [0xF4] r0 0x2))
      (fun t => (t.run, t.ip)) =
        some (.running, 0xD00) := by decide

/-- B7.6: exception 7, the saved IP at the 9B. -/
theorem test_wait :
    after (step { real [0x9B] r0 0x2 with
        msw := { pe := false, mp := true, em := false, ts := true } })
      (fun t => stackWord t 0x1FA) =
        some 0x100 := by decide

/-- B8.17. -/
theorem test_lmsw :
    after (step (real [0x0F, 0x01, 0xF0] { r0 with ax := 0xF } 0x2))
      (fun t => (t.msw.toWord, t.modeSwitch)) =
        some (0xFFFF, true) := by decide

/-- B8.18. -/
theorem test_lmsw_keeps_pe :
    after (step (prot [0x0F, 0x01, 0xF0] r0 0x2))
      (fun t => t.msw.toWord) =
        some 0xFFF1 := by decide

/-- B9.2. -/
theorem test_smsw :
    after (step (real [0x0F, 0x01, 0xE0] r0 0x2))
      (fun t => t.regs.ax) =
        some 0xFFF0 := by decide

/-- P4. -/
theorem test_lgdt :
    after (step (low (real [0x0F, 0x01, 0x16, 0x40, 0x00] r0 0x2) 0x40 [0x1F, 0x00, 0x80,
      0x00, 0x01, 0x00]))
      (fun t => t.gdtr) =
        some ⟨0x010080, 0x001F⟩ := by decide

/-- B8.19: the busy bit is set in memory. -/
theorem test_ltr :
    after (step (prot [0x0F, 0x00, 0xD8] { r0 with ax := 0x38 } 0x2))
      (fun t => (t.tr.sel, t.tr.base, t.readByte 0x103D)) =
        some (0x38, 0x3100, 0x83) := by decide

/-- B8.13. -/
theorem test_arpl :
    after (step (prot [0x63, 0xC3] { r0 with bx := 0x10, ax := 0x23 } 0x2))
      (fun t => (t.regs.bx, t.flags.zf)) =
        some (0x13, true) := by decide

/-- B8.14. -/
theorem test_lar :
    after (step (prot [0x0F, 0x02, 0xC3] { r0 with bx := 0x68 } 0x2))
      (fun t => (t.regs.ax, t.flags.zf)) =
        some (0x9300, true) := by decide

/-- B8.15. -/
theorem test_lar_outside :
    after (step (prot [0x0F, 0x02, 0xC3] { r0 with bx := 0x70, ax := 0x7 } 0x42))
      (fun t => (t.regs.ax, t.flags.zf)) =
        some (7, false) := by decide

/-- R610. -/
theorem test_verr :
    after (step (prot [0x0F, 0x00, 0xE0] { r0 with ax := 0x10 } 0x2))
      (fun t => t.flags.zf) =
        some true := by decide

/-- R608. -/
theorem test_lsl :
    after (step (prot [0x0F, 0x03, 0xC3] { r0 with bx := 0x68 } 0x2))
      (fun t => (t.regs.ax, t.flags.zf)) =
        some (0xFF, true) := by decide

/-- R761: RESET in the course of an instruction. -/
theorem test_reset_during :
    after (step { prot [0x60] r0 0x2 with pins := { Pins.quiet with resetDuring := true } })
      (fun t => (t.run, t.ip, t.msw.pe)) =
        some (.resetActive, 0xFFF0, false) := by decide

/-- R118: a store to ROM is lost. -/
theorem test_store_rom :
    after (step { real [0xA2, 0x00, 0x05] { r0 with ax := 0x77 } 0x2 with
        platform := { Platform.default with regions := [⟨0x0500, 0x05FF, .rom⟩] } })
      (fun t => (t.readByte 0x0500, t.ip)) =
        some (0, 0x103) := by decide

/-! ## States and operands that meet the hypotheses of the statements -/

/-- The real-mode state most hypotheses are met in. -/
def calm : State := real [0x90] r0 2

/-- A protected-mode state whose DS ends at offset 00FFh. -/
def narrow : State :=
  { prot [0x90] r0 2 with ds := { cache 0x0010 0x20000 0x93 with limit := 0x00FF } }

/-- A machine in real address mode with ROM at a range of addresses. -/
def withRom (first last : Nat) : State :=
  { calm with
    platform := { Platform.default with regions := [{ first := first, last := last, kind := .rom }] } }

/-- An r/m operand ends at the last byte its segment has, in both modes; a register always is
accessible. -/
def operandsOk (w : Width) (off : Word) : Bool :=
  (RM.mem (.direct off) :: [.reg 7]).all fun rm =>
    narrow.rmReady .read w rm && narrow.rmReady .write w rm

theorem test_hyp_EncodedInstructionsDecode :
    (Instr.addRmImm (.mem (.ind16 .bpDi 0xFFFF)) (.wordS 0x80)).wellFormed = true := by decide

theorem test_hyp_DecodedBytesAreTheEncoding :
    decode [0x83, 0x83, 0xFF, 0xFF, 0x80, 0x90] =
      .ok (.addRmImm (.mem (.ind16 .bpDi 0xFFFF)) (.wordS 0x80)) [0x90] := by decide

theorem test_hyp_EveryStepKeepsTheInvariant :
    (calm.inv = true ∧ goes (step calm) = true) ∧
      (prot [0xEA, 0x00, 0x00, 0x38, 0x00] r0 2).inv = true ∧
      goes (step (prot [0xEA, 0x00, 0x00, 0x38, 0x00] r0 2)) = true := by decide

theorem test_hyp_ProtectedModeIsNotLeft :
    narrow.msw.pe = true ∧ narrow.pins.reset = false ∧ narrow.pins.resetDuring = false ∧
      goes (step narrow) = true := by decide

theorem test_hyp_ControlRegistersHaveOneWriter :
    goes (exec .nop calm) = true ∧ (∀ rm, Instr.nop ≠ .lmsw rm) ∧ (∀ m, Instr.nop ≠ .lgdt m) ∧
      (∀ m, Instr.nop ≠ .lidt m) :=
  ⟨by decide, nofun, nofun, nofun⟩

/-- One NOP, at offset FFFFh of the code segment; entry 13 of the table is 0000h:0500h. -/
def lastByte (b : Byte) : State :=
  { real [] r0 2 with ip := 0xFFFF, mem := cellsAt 0x35 [0x05] ++ cellsAt 0x1FFFF [b] }

/-- R36, R136: after an instruction that ends at FFFFh the next one is exception 13, IP 0500h, with
no wrap to the start of the segment. -/
theorem test_past_the_end :
    (match step (lastByte 0x90) with
      | .next t => (t.ip, after (step t) fun u => (u.ip, u.cs.sel, u.readWord (u.above 0)))
      | _ => (0, none)) = (0#16, some (0x0500#16, 0#16, 0#16)) := by decide

/-- R36, R136, R624: a prefix at FFFFh is the start of an instruction that does not fit. -/
theorem test_prefix_past_the_end :
    (match step (lastByte 0x26) with
      | .next t => after (step t) fun u => (u.ip, u.readWord (u.above 0))
      | _ => none) = some (0x0500#16, 0xFFFF#16) := by decide

/-- R135, R138: where A20 is not decoded, code at FFFFh:0008h runs on at location 0, and the older byte
of a store there may be what is executed. -/
theorem test_stale_over_the_end :
    after (step
      { real [] r0 2 with
        cs := realSeg 0xFFFF#16 0xFFFF0#24, ip := 8, curIp := 8
        platform := { Platform.default with a20Decoded := false }
        mem := cellsAt 0 [0x90] ++ cellsAt 0xFFFF8 [0xA2, 0x00, 0x00] })
      (fun t => (t.ip, t.stale)) = some (11, [(0, 0x90#8)]) := by decide

/-- R123, R125, R132: the stores of a push, the newest first: one operation at an even address, and at
an odd one two, the low byte first. -/
theorem test_stores_in_order :
    ([0x0102#16, 0x0101#16].map fun sp =>
      after (State.act (real [0x50] { r0 with sp := sp, ax := 0x1234 } 2).sample)
        (fun t => t.stores.map Store.cells)) =
      [some [[(0x100#24, 0x34#8), (0x101#24, 0x12#8)]],
        some [[(0x100#24, 0x12#8)], [(0xFF#24, 0x34#8)]]] := by decide

/-- R129: the store of XCHG to a word at an odd address is locked to its read, at the first bus time. -/
theorem test_locked :
    after (State.act (real [0x87, 0x07] { r0 with bx := 0x301 } 2).sample)
        (fun t => t.stores.map fun x => (x.cells.map Prod.fst, x.time, x.since)) =
      some [([0x302#24], 127, 0), ([0x301#24], 126, 0)] := by decide

/-- The state with another gate at selector 0040h and an absent code segment at 0050h. -/
def gated (g : List Byte) (s : State) : State :=
  { s with
    mem := cellsAt 0x1000 (gdt.take 64 ++ g ++ desc 0x000F 0x03200 0x82 ++ desc 0xFFFF 0x10000 0x1A) ++
      cellsAt 0x2000 idt ++ cellsAt 0x3000 tss }

/-- R129: the pushes of a far CALL to a segment that has not been accessed and the store of its accessed bit
are one locked sequence with the read of its descriptor, at bus time 4; the bus is free after it. -/
theorem test_held :
    after (exec (.callFar 0 0x40) (gated (desc 0xFFFF 0x10000 0x9A) (prot [] r0 2)))
      (fun t => (t.stores.map fun x => x.since, t.clock.held, t.regs.sp)) =
      some ([4, 4, 4], none, 0x1FC) := by decide

/-- R253: with an LDT that holds the descriptors of the GDT, selector 003Ch names a task state segment
there, 0014h, 0038h and a selector with LDTR unusable do not. -/
theorem test_namesLocalTss :
    let s := { prot [] r0 2 with ldtr := ⟨0x0048, 0x1000, 0x006F, true⟩ }
    [s.namesLocalTss 0x003C, s.namesLocalTss 0x0014, s.namesLocalTss 0x0038,
        (prot [] r0 2).namesLocalTss 0x003C].map Except.toOption =
      [some true, some false, some false, some false] := by decide

/-- R246, R248, R253, R255: with that LDT, in the order of the list: the task state segment in it is
exception 10 through a task gate and in an IRET, 13 in a CALL; the data segment in it is 13 through a task
gate and 10 in an IRET. -/
theorem test_localTss :
    let s := { prot [] r0 2 with ldtr := ⟨0x0048, 0x1000, 0x006F, true⟩ }
    let raised := fun (k : SwitchKind) (sel : Word) (gate : Bool) =>
      match s.taskDesc sel k gate 0 with
      | .error (.exc v code _) => some (v, code)
      | _ => none
    [raised .int 0x003C true, raised .iret 0x003C false, raised .call 0x003C false,
        raised .int 0x0014 true, raised .iret 0x0014 false] =
      [some (10, 0x3C), some (10, 0x3C), some (13, 0x3C), some (13, 0x14), some (10, 0x14)] := by decide

/-- R334 comment 8: LOCK over a whole IRET in real address mode, not between its transfers in protected
mode, and not past the descriptor of a call gate in a far CALL. -/
theorem test_apart :
    [(prot [] r0 2).apartFrom .iret, calm.apartFrom .iret, calm.apartFrom (.enter 0 0),
        (prot [] r0 2).apartFrom (.callFar 0 0x40), (prot [] r0 2).apartFrom (.callFar 0 0x08)] =
      [0, BusClock.delivery, 0, 5, BusClock.delivery] := by decide

/-- R123, R130, R145: what may come between the halves of a word, between two operations, and under LOCK,
also where it is not active between two transfers and in a delivery, of a store through HOLD after one
that does not use it. -/
theorem test_gap :
    let p := { Pins.quiet with masterStores :=
      [{ hold := false, addr := 0x300, width := .byte, value := 1 },
        { hold := true, addr := 0x302, width := .byte, value := 2 }] }
    let s := { calm with pins := p, platform := { Platform.default with otherMasters := true } }
    let l : State := { s with pre := { Prefixes.none with lock := true } }
    let apart : State := { l with clock := { BusClock.start with apart := 0 } }
    [s.gap 0 0, s.gap 1 0, s.gap 0 1, s.gap 1 1, l.gap 1 0, apart.gap 0 0, apart.gap 1 0,
        l.gap BusClock.delivery 0] = [1, 2, 0, 1, 0, 0, 2, 1] := by decide

/-- A machine with a region that never answers. -/
def withSilent (first last : Nat) (s : State) : State :=
  { s with
    platform := { Platform.default with
      regions := [{ first := first, last := last, kind := .silent }] } }

/-- R708: an operand at a location that never answers; before a store there, one of PUSHA's at its fourth
word, only the words before it are stored. -/
theorem test_stuck :
    after ((withSilent 0x300 0x300 (real [0xA0, 0x00, 0x03] r0 2)).sample.act) (fun t => t.run) =
        some .stuck ∧
      after ((withSilent 0x1F8 0x1F9 (real [0x60] { r0 with ax := 0x11, cx := 0x22, dx := 0x33 } 2)).sample
          |> fun s => match s.act with | .next t => .next (s.storesAnswered t) | o => o)
        (fun t => (t.run, t.readWord 0x1FE, t.readWord 0x1FA, t.readWord 0x1F8)) =
        some (.stuck, 0x11, 0x33, 0) := by decide

/-- R137, R786: the word code fetch of an instruction that ends with the code segment at an even address. -/
theorem test_stuck_past_limit :
    after (withSilent 0x10101 0x10101 { prot [0x90] r0 2 with
        cs := { cache 0x0008 0x10000 0x9B with limit := 0x100 } }).sample.act
      (fun t => t.run) = some .stuck := by decide

/-- R786: six bytes past a JMP may be fetched, the seventh may not, be the sixth at an odd or at an even
address. -/
theorem test_prefetch_past_jump :
    ([0x10107, 0x10108].map fun k =>
      (withSilent k k (real [0xEB, 0x20, 0, 0, 0, 0, 0, 0] r0 2)).silentAhead) = [true, false] ∧
    ([0x10108, 0x10109].map fun k =>
      (withSilent k k { real [0x90, 0xEB, 0x20, 0, 0, 0, 0, 0, 0] r0 2 with
        ip := 0x101, curIp := 0x101 }).silentAhead) = [true, false] := by decide

/-- R136, R786: in real address mode the bytes past a JMP that ends at offset FFFFh may be prefetched, from
either place they may be at, six of them. -/
theorem test_prefetch_past_the_end :
    ([0x20000, 0x20005, 0x20006, 0x10000, 0x10005, 0x10006].map fun k =>
      (withSilent k k { real [] r0 2 with
        ip := 0xFFFE, curIp := 0xFFFE, mem := cellsAt 0x1FFFE [0xEB, 0x20] }).silentAhead) =
      [true, true, false, true, true, false] := by decide

/-- R137, R786: at the end of a code segment the second byte of its last word is prefetched, no further
one. -/
theorem test_prefetch_past_limit :
    ([0x10103, 0x10104].map fun k =>
      (withSilent k k { prot [0x90, 0x90, 0x90] r0 2 with
        cs := { cache 0x0008 0x10000 0x9B with limit := 0x102 } }).silentAhead) = [true, false] := by
  decide

/-- R134, R138: a near RET discards what was prefetched after its read, a NOP nothing. -/
theorem test_flushed :
    (after (exec .ret calm) fun t => (t.flushed, t.stale)) = some (some 126, []) ∧
      (after (exec .nop calm) fun t => t.flushed) = some none := by decide

/-- R110, R712: the second byte of a word written at port FFFFh goes to port 0000h. -/
theorem test_out_last_port :
    after (exec (.outDx .word) { calm with regs := { r0 with ax := 0xAA55, dx := 0xFFFF } })
      (fun t => t.out) =
      some [.ioWrite 0 .byte 0xAA, .ioWrite 0xFFFF .byte 0x55] := by decide

/-- R431, R708: a shift by 0 reads its operand. -/
theorem test_stuck_shift :
    after (exec (.shlCl .byte (.mem (.direct 0x300))) (withSilent 0x300 0x300 calm)) (fun t => t.run) =
      some .stuck := by decide

/-- A machine at which one port never answers. -/
def silentPort (port : Nat) : State :=
  { calm with platform := { Platform.default with silentPorts := [port] } }

/-- R708: the second byte operation of OUT to an odd port is never answered. -/
theorem test_stuck_port :
    after (exec (.outDx .word) { silentPort 0x82 with regs := { r0 with ax := 0xAA55, dx := 0x81 } })
      (fun t => (t.run, t.out.take 1)) = some (.stuck, [.ioWrite 0x81 .byte 0x55]) := by decide

/-- R60, R104: LMSW sets PE where A23 to A20 were not decoded: the near JMP after it was prefetched from
the location its address had before, FFFF5h, and may still be what is executed at FFFFF5h. -/
theorem test_prefetched_over_lmsw :
    after (step
      { real [] { r0 with ax := 1 } 2 with
        cs := State.reset.cs, ip := 0xFFF0, curIp := 0xFFF0
        platform := { Platform.default with a20Decoded := false, prefetchWindow := 6 }
        mem := cellsAt 0xFFFF0 [0x0F, 0x01, 0xF0, 0xEB, 0x02] })
      (fun t => (t.msw.pe, t.modeSwitch, t.staleAt 0xFFFFF3, t.staleAt 0xFFFFF4)) =
        some (true, true, [0xEB], [0x02]) := by decide

/-- R64: the inhibit lasts over an event at a boundary, up to the next instruction. -/
theorem test_accept_keeps_inhibit :
    after (({ calm with intInhibit := true } : State).deliverEvent .trap) (fun t => t.intInhibit) =
      some true := by decide

/-- R64: a LOCK that traps in the shadow of an STI ends the shadow. -/
theorem test_lock_trap_ends_inhibit :
    after (step { user [0xF0] r0 2 with intInhibit := true }) (fun t => (t.cpl, t.intInhibit)) =
      some (0, false) := by decide

/-- R125, R131, R735: the bus operations of another master's word, where there is such a master; none of
one that uses HOLD where the processor's bus operation never ends. -/
theorem test_master_stores :
    let p := { Pins.quiet with masterStores :=
      [{ hold := true, addr := 0x301, width := .word, value := 0x1234 }] }
    let s : State :=
      { calm with pins := p, platform := { Platform.default with otherMasters := true } }
    s.masterOps = [⟨true, [(0x301#24, 0x34#8)]⟩, ⟨true, [(0x302#24, 0x12#8)]⟩] ∧
      ({ s with run := .stuck } : State).masterOps = [] ∧
      ({ calm with pins := p } : State).masterOps = [] := by decide

theorem test_hyp_AStepRunsTheDecodedInstruction :
    (calm.platform.otherMasters = false ∧ calm.pins.masterStores = []) ∧
    (let s := { calm with pre := { Prefixes.none with seg := some .es } }
     decode s.sample.begin.codeBytes = .ok .nop [0, 0, 0, 0, 0] ∧ prefixListed s.pre .nop = true) ∧
    (calm.pins.reset = false ∧ calm.pins.resetDuring = false ∧ calm.run = .running ∧
      calm.sample.boundary = none ∧ decode calm.sample.begin.codeBytes = .ok .nop [0, 0, 0, 0, 0] ∧
      hazardFree calm .nop = true ∧ prefixListed calm.pre .nop = true) ∧
    (let s := lastByte 0xB8
     s.pins.reset = false ∧ s.pins.resetDuring = false ∧ s.run = .running ∧ s.sample.boundary = none ∧
      decode s.sample.begin.codeBytes = .truncated ∧ s.sample.begin.codeSilent = false ∧
      s.modeSwitch = false) ∧
    (let s := withSilent 0x10101 0x10101 (real [0xB8] r0 2)
     decode s.sample.begin.codeBytes = .truncated ∧ s.sample.begin.codeSilent = true) ∧
    (∀ k, calm.platform.kindAt k ≠ .silent) ∧
    (let s : State := { lastByte 0x90 with ip := 0, ipCarry := true }
     s.pins.reset = false ∧ s.pins.resetDuring = false ∧ s.run = .running ∧ s.sample.boundary = none ∧
      s.ipCarry = true ∧ s.modeSwitch = false) :=
  ⟨by decide, by decide, by decide, by decide, by decide, fun _ => nofun, by decide⟩

theorem test_hyp_ResetFromAnyState :
    ({ narrow with pins := { Pins.quiet with reset := true } } : State).pins.reset = true ∧
    (let s : State := { prot [0x60] r0 2 with pins := { Pins.quiet with resetDuring := true } }
     s.pins.reset = false ∧ s.pins.resetDuring = true ∧ s.platform.otherMasters = false ∧
     goes s.sample.work = true) := by decide

theorem test_hyp_WordsOnTheBus :
    Memory.wf narrow.mem = true ∧ narrow.isRam 0xFFFFFF 2 = true ∧
      (withRom 0x0500 0x05FF).isRam 0x04FE 2 = true ∧
      (withRom 0x0500 0x05FF).ramAt 0x0500 = false ∧
      (calm.stores = [] ∧ calm.clock.base = 0 ∧ calm.clock.held = none ∧ 2 * 0x8000 ≤ calm.clock.apart ∧
        2 * 0x7FFF < BusClock.delivery ∧
        ({ calm with pre := { Prefixes.none with lock := true } } : State).pre.lock = true ∧
        (∀ b, calm.platform.kindAt (calm.physAddr b) ≠ .undriven) ∧ (0xFFFFFF#24).toNat % 2 ≠ 0) ∧
      (let s := withSilent 0x301 0x301 calm
       s.rmOk .read .word (.mem (.direct 0x300)) = true ∧
       s.rmAnswers .word (.mem (.direct 0x300)) = false ∧ s.stores = [] ∧
       s.rmOk .write .byte (.mem (.direct 0x301)) = true ∧
       s.platform.kindAt (s.physAddr (s.memAddr (.direct 0x301))) = .silent) ∧
      (let s : State := { calm with run := .stuck }
       s.run = .stuck ∧ s.pins.reset = false ∧ s.pins.resetDuring = false ∧
       s.pins.masterStores = []) :=
  ⟨by decide, by decide, by decide, by decide,
    ⟨by decide, by decide, by decide, by decide, by decide, by decide, fun _ => nofun, by decide⟩,
    by decide, by decide⟩

theorem test_hyp_Moves :
    operandsOk .word 0x00FE = true ∧ operandsOk .byte 0x00FF = true ∧
      (Imm.word 5).width = .word ∧
      calm.readReady (calm.overridden .ds) 0xFFFE .word = true ∧
      calm.accessOk .write (calm.overridden .ds) 0xFFFF Width.byte.bytes = true := by decide

theorem test_hyp_SegmentLoadsInRealMode :
    let s := real [0x90] { r0 with sp := 0xFFFE } 2
    s.msw.pe = false ∧ SReg.ss ≠ .cs ∧ s.rmReady .read .word (.mem (.direct 0xFFFE)) = true ∧
      s.readReady .ss s.regs.sp .word = true ∧
      s.wordsReady (s.memSeg (.direct 0xFFFE)) (s.ea (.direct 0xFFFE)) 2 = true := by decide

/-- DS takes selector 0068h, the last descriptor of the table, by MOV; a null one by POP, the word of
which is the last that can be popped; a selector past the table; the pointer LDS reads at the end of
DS; descriptors that do not fit, and one that is not present. -/
theorem test_hyp_SegmentLoadsInProtectedMode :
    (let s := prot [] { r0 with ax := 0x68 } 2
     s.msw.pe = true ∧ SReg.ds ≠ .cs ∧ s.rmReady .read .word (.reg 0) = true ∧
     isNull (s.rmValue .word (.reg 0)) = false ∧
     s.descAddr (s.rmValue .word (.reg 0)) = some 0x1068 ∧ s.answersAt 0x1068 6 = true ∧
     arPresent (s.busDesc 2 0x1068).ar = true ∧ arPresent (s.busDesc 2 0x1050).ar = false ∧
     s.descAddr 0x70 = none) ∧
    (let s := high (prot [] { r0 with sp := 0xFFFC } 2) 0x2FFFC [3, 0]
     s.popReady s.regs.sp = true ∧ isNull (s.busWord 0 (s.above 0)) = true) ∧
    (let s := high narrow 0x200FC [0, 0, 0x68, 0]
     let m := Mem.direct 0x00FC
     let sel := s.busWord 1 (linear (s.seg (s.memSeg m)).base (s.ea m + 2))
     s.wordsReady (s.memSeg m) (s.ea m) 2 = true ∧ isNull sel = false ∧
     s.descAddr sel = some 0x1068) := by decide

/-- What `segAdmits` is for DS and ES. -/
theorem test_hyp_dataAdmits :
    let s := prot [] r0 2
    dataAdmits s.cpl 0x68 (s.busDesc 2 0x1068) ∧ dataAdmits s.cpl 0x50 (s.busDesc 2 0x1050) ∧
      ¬dataAdmits s.cpl 0x30 (s.busDesc 2 0x1030) := by
  unfold dataAdmits; decide

/-- What `segAdmits` is for SS. -/
theorem test_hyp_stackAdmits :
    let s := prot [] r0 2
    stackAdmits s.cpl 0x68 (s.busDesc 2 0x1068) ∧ stackAdmits s.cpl 0x50 (s.busDesc 2 0x1050) ∧
      ¬stackAdmits s.cpl 0x23 (s.busDesc 2 0x1020) := by
  unfold stackAdmits; decide

/-- The lowest words of the stack segment, and SP = 0 in real address mode. -/
theorem test_hyp_PushesAndTheFlagsWord :
    (real [] { r0 with sp := 0 } 2).pushOk 1 = true ∧
      (prot [] { r0 with sp := 2 } 2).pushOk 1 = true ∧
      narrow.rmReady .read .word (.mem (.direct 0x00FE)) = true := by decide

/-- The ends of the stack segment; in real address mode the skipped word at FFFFh; in protected mode SP
as high as it can be. -/
theorem test_hyp_PushAllAndPopAll :
    (prot [] { r0 with sp := 16 } 2).pushOk 8 = true ∧
      (let s := prot [] { r0 with sp := 0xFFEE } 2
       (∀ i, i < 8 → i ≠ 3 → s.popReady (s.regs.sp + BitVec.ofNat 16 (2 * i)) = true) ∧
       (s.regs.sp + 6).toNat < 0xFFFE) ∧
      (let s := real [] { r0 with sp := 0xFFF9 } 2
       ∀ i, i < 8 → i ≠ 3 → s.popReady (s.regs.sp + BitVec.ofNat 16 (2 * i)) = true) := by decide

theorem test_hyp_PopsAndPopFlags :
    (let s := prot [] { r0 with sp := 0xFFFC } 2
     s.popReady s.regs.sp = true ∧ s.rmOk .write .word (.mem (.direct 0xFFFE)) = true) ∧
      (real [] { r0 with sp := 0xFFFE } 2).popReady 0xFFFE = true := by decide

theorem test_hyp_RealModeKeepsIoplAndNt :
    calm.msw.pe = false ∧ goes (exec .popf calm) = true ∧ goes (exec .iret calm) = true := by decide

theorem test_hyp_Exchanges : operandsOk .word 0x00FE = true ∧ operandsOk .byte 0x00FF = true := by
  decide

theorem test_hyp_PortTransfers :
    calm.msw.pe = false ∧ (user [] r0 0x3002).cpl ≤ (user [] r0 0x3002).flags.iopl ∧
      (0xFFFE#16 ≠ 0xFFFF#16) ∧ ¬Width.byte = .word ∧
      (real [] { r0 with dx := 0xFFFF } 2).regs.dx = 0xFFFF#16 ∧
      calm.portAnswers 0xFFFF .word = true ∧ (silentPort 0x82).portAnswers 0x81 .word = false ∧
      (silentPort 0x82).portAnswers 0x80 .word = true := by decide

theorem test_hyp_TableAddressAndFlagTransfers :
    let s := { narrow with regs := { r0 with ax := 0xFF } }
    s.readReady (s.overridden .ds) (s.regs.bx + (s.regs.ax &&& 0x00FF#16)) .byte = true :=
      by decide

theorem test_hyp_Additions :
    operandsOk (GImm.wordS 0x80).width 0x00FE = true ∧
      operandsOk (GImm.byteS 0x80).width 0x00FF = true := by
  decide

theorem test_hyp_Subtractions :
    operandsOk (GImm.word 0x80).width 0x00FE = true ∧
      operandsOk (GImm.byte 0x80).width 0x00FF = true := by
  decide

theorem test_hyp_ComparisonsAndNegation :
    operandsOk (GImm.wordS 1).width 0x00FE = true ∧ operandsOk .byte 0x00FF = true := by decide

theorem test_hyp_IncrementsAndDecrements :
    operandsOk .word 0x00FE = true ∧ operandsOk .byte 0x00FF = true := by decide

theorem test_hyp_Multiplications :
    operandsOk .word 0x00FE = true ∧ operandsOk .byte 0x00FF = true := by decide

/-- The largest dividend whose quotient fits, and the smallest whose quotient does not; IDIV at -128
and +128, -129 and +127; a zero divisor. -/
theorem test_hyp_Divisions :
    (0x06FF < (7 : Nat) * 2 ^ Width.byte.bits ∧ (7 : Nat) * 2 ^ Width.byte.bits ≤ 0x0700 ∧
      0x0006FFFF < (7 : Nat) * 2 ^ Width.word.bits ∧ (7 : Nat) * 2 ^ Width.word.bits ≤ 0x00070000) ∧
    (-(2 ^ 7 : Int) ≤ (signedValue .word 0xFF80).tdiv (signedValue .byte 1) ∧
      (signedValue .word 0xFF80).tdiv (signedValue .byte 1) < 2 ^ 7 ∧
      (2 ^ 7 : Int) ≤ (signedValue .word 0xFF80).tdiv (signedValue .byte 0xFF) ∧
      (signedValue .word 0xFF7F).tdiv (signedValue .byte 1) < -(2 ^ 7 : Int) ∧
      (signedValue .word 0x007F).tdiv (signedValue .byte 1) < 2 ^ 7) ∧
    calm.rmReady .read .byte (.reg 3) = true ∧ (calm.rmValue .byte (.reg 3)).toNat = 0 := by decide

/-- Each correction taken and not taken, at the ends of its range. -/
theorem test_hyp_AdjustsAfterAddAndSubtract :
    (let s := real [] { r0 with ax := 0xFA } 2
     9 < (s.getReg .byte 0).toNat % 16 ∧ 0x99 < (s.getReg .byte 0).toNat) ∧
    (let s := real [] { r0 with ax := 0x99 } 2
     ¬(9 < (s.getReg .byte 0).toNat % 16 ∨ s.flags.af = true) ∧
     ¬(0x99 < (s.getReg .byte 0).toNat ∨ s.flags.cf = true)) ∧
    (let s := real [] { r0 with ax := 0x05 } 0x13
     (s.getReg .byte 0).toNat < 6 ∧ s.flags.af = true ∧ s.flags.cf = true) := by decide

theorem test_hyp_LogicOperations :
    operandsOk (Imm.word 1).width 0x00FE = true ∧ operandsOk (Imm.byte 1).width 0x00FF = true :=
      by decide

/-- Counts 32 and 0 mask to 0, 33 to 1, 31 and FFh to 31. -/
theorem test_hyp_ShiftsByTheirCount :
    operandsOk .word 0x00FE = true ∧ (0x0020#16).toNat % 32 = 0 ∧ (0x20#8).toNat % 32 = 0 ∧
      (0x0021#16).toNat % 32 = 1 ∧ (0xFFFF#16).toNat % 32 = 31 ∧ (0xFF#8).toNat % 32 = 31 :=
        by decide

theorem test_hyp_Rotates :
    operandsOk .byte 0x00FF = true ∧ (0x0021#16).toNat % 32 = 1 ∧ (0xFF#8).toNat % 32 = 31 :=
      by decide

theorem test_hyp_StringElements :
    let s := prot [] { r0 with si := 0xFFFE, di := 0xFFFE, dx := 0xFFFF } 2
    s.pre.rep = none ∧ s.readReady (s.overridden .ds) s.regs.si .word = true ∧
      s.accessOk .write .es s.regs.di Width.word.bytes = true ∧
      s.readReady .es s.regs.di .word = true ∧ s.cpl ≤ s.flags.iopl ∧
      s.portAnswers s.regs.dx .word = true := by decide

/-- CX = 0, and elements that complete with CX = 1 and CX = FFFFh. -/
theorem test_hyp_PrefixesAndRepeatedStrings :
    (let s : State := { calm with pre := { Prefixes.none with rep := some true } }
     s.pre.rep = some true ∧ s.regs.cx = 0#16) ∧
    ([0x0001#16, 0xFFFF#16].all fun cx =>
      let s : State := { calm with
        regs := { r0 with cx := cx, di := 0x300 }, pre := { Prefixes.none with rep := some true } }
      s.regs.cx != 0#16 && (s.movsElement .word).toBool && (s.lodsElement .byte).toBool &&
        (s.stosElement .word).toBool && (s.insElement .byte).toBool && (s.outsElement .byte).toBool &&
        (s.cmpsElement .word).toBool && (s.scasElement .byte).toBool) = true ∧
    (calm.pre.rep = none ∧ calm.pre.seg = none ∧ calm.pre.lock = false ∧ calm.msw.pe = false ∧
      (user [] r0 0x3002).cpl ≤ (user [] r0 0x3002).flags.iopl) := by decide

/-- A code segment that ends at a limit, IP there less one. -/
def atLimit (limit ip : Word) (f : Word) (cx : Word) : State :=
  { prot [] { r0 with cx := cx } f with
    cs := { cache 0x0008 0x10000 0x9B with limit := limit }, ip := ip }

/-- Every condition holds with one value of the flags and fails with another; the target is the last
byte of the segment. -/
theorem test_hyp_ConditionalJumpsAndLoops :
    (let s := atLimit 0x17F 0x100 0x8C5 0
     s.flags.of = true ∧ s.flags.cf = true ∧ s.flags.zf = true ∧ s.flags.sf = true ∧
     s.flags.pf = true ∧ s.flags.sf = s.flags.of ∧ s.targetOk (s.ip + sext16 0x7F) = true) ∧
    (let s := atLimit 0x17F 0x100 0x82 0
     s.flags.of = false ∧ s.flags.cf = false ∧ s.flags.zf = false ∧ s.flags.pf = false ∧
     s.flags.sf ≠ s.flags.of) ∧
    ((atLimit 0x17E 0x100 0x8C5 0).cs.limit < 0x100 + sext16 0x7F) ∧
    (calm.flags.sf = false ∧ calm.flags.zf = false ∧ calm.flags.sf = calm.flags.of) ∧
    (let s := atLimit 0x17F 0x100 0x42 0
     s.regs.cx ≠ 1#16 ∧ s.flags.zf = true ∧ s.targetOk (s.ip + sext16 0x7F) = true ∧
     s.regs.cx = 0#16) ∧
    (let s := atLimit 0x17F 0x100 2 1
     s.regs.cx = 1#16 ∧ s.flags.zf = false ∧ ¬s.regs.cx = 0#16) := by decide

/-- The last byte of the segment and the first byte past it. -/
theorem test_hyp_NearJumps :
    let s := { atLimit 0x17F 0x100 2 0 with regs := { r0 with ax := 0x17F } }
    s.ip + sext16 0x7F ≤ s.cs.limit ∧ s.rmReady .read .word (.reg 0) = true ∧
      s.rmValue .word (.reg 0) ≤ s.cs.limit ∧ s.msw.pe = true ∧ s.cs.limit < s.ip + 0x80 :=
        by decide

theorem test_hyp_NearCallsAndReturns :
    (let s := atLimit 0x17F 0x100 2 0
     s.msw.pe = true ∧ s.pushOk 1 = true ∧ s.cs.limit < s.ip + 0x80 ∧ s.ip + 0x7F ≤ s.cs.limit ∧
     s.rmReady .read .word (.reg 0) = true) ∧
    ([0x7F#8, 0x80#8].map fun b =>
      let s := high { atLimit 0x17F 0x100 2 0 with regs := { r0 with sp := 0xFFFC } } 0x2FFFC [b, 1]
      (s.popReady s.regs.sp, decide (s.busWord 0 (s.above 0) ≤ s.cs.limit))) =
      [(true, true), (true, false)] := by decide

theorem test_hyp_FarTransfersInRealMode :
    let s := real [] { r0 with sp := 0xFFFC } 2
    s.msw.pe = false ∧
      s.wordsReady (s.memSeg (.direct 0xFFFC)) (s.ea (.direct 0xFFFC)) 2 = true ∧
      s.pushOk 2 = true ∧ s.wordsReady .ss s.regs.sp 2 = true := by decide

/-- A return at CPL 3 to a conforming segment of level 0, at its limit. -/
def toConforming (a : Nat) (sp : Word) (frame : List Byte) : Prop :=
  let s := high (user [] { r0 with sp := sp } 2) a frame
  let newCs := s.busWord 1 (s.above 2)
  let d := s.busDesc 3 0x1028
  s.flags.nt = false ∧ s.ss.permits .read s.regs.sp frame.length = true ∧
    s.wordsAnswer .ss s.regs.sp (frame.length / 2) = true ∧ isNull newCs = false ∧
    s.descAddr newCs = some 0x1028 ∧ s.answersAt 0x1028 6 = true ∧ rpl newCs = s.cpl ∧
    returnAdmits newCs d ∧ arPresent d.ar = true ∧ arDpl d.ar < s.cpl ∧
    s.busWord 0 (s.above 0) ≤ d.limit

/-- A non-conforming and a conforming code segment, the offset at the limit; a far pointer in memory;
a stack with a return address to the same level. -/
theorem test_hyp_FarTransfersInProtectedMode :
    (let s := high (prot [] { r0 with sp := 4 } 2) 0x20300 [0xFF, 0, 0x28, 0]
     s.msw.pe = true ∧ isNull 0x0008 = false ∧ s.descAddr 0x0008 = some 0x1008 ∧
     codeReachable s.cpl 0x0008 (s.busDesc 2 0x1008) ∧ 0xFFFF#16 ≤ (s.busDesc 2 0x1008).limit ∧
     s.pushOk 2 = true ∧ s.answersAt 0x1008 6 = true ∧ s.answersAt 0x1028 6 = true ∧
       s.wordsReady (s.memSeg (.direct 0x300)) (s.ea (.direct 0x300)) 2 = true ∧
     s.busWord 0 (s.memAddr (.direct 0x300)) ≤ (s.busDesc 2 0x1028).limit ∧
     s.descAddr (s.busWord 1 (linear (s.seg (s.memSeg (.direct 0x300))).base 0x302)) = some 0x1028 ∧
     codeReachable s.cpl 0x0028 (s.busDesc 2 0x1028)) ∧
    (let s := high (prot [] { r0 with sp := 0xFFFC } 2) 0x2FFFC [0xFF, 0xFF, 8, 0]
     let newCs := s.busWord 1 (s.above 2)
     let d := s.busDesc 3 0x1008
     s.ss.permits .read s.regs.sp 4 = true ∧ s.wordsAnswer .ss s.regs.sp 2 = true ∧ isNull newCs = false ∧
     s.descAddr newCs = some 0x1008 ∧ returnAdmits newCs d ∧ arPresent d.ar = true ∧
     rpl newCs = s.cpl ∧ s.busWord 0 (s.above 0) ≤ d.limit) ∧
    toConforming 0x2FFFC 0xFFFC [0xFF, 0, 0x2B, 0] := by
  unfold toConforming codeReachable returnAdmits; decide

/-- Levels 0 and 32, 1 and 33, 2 and 31, with just the room they need. -/
theorem test_hyp_EnterFrames :
    ((0x20#8).toNat % 32 = 0 ∧ (prot [] { r0 with sp := 2 } 2).pushOk 1 = true) ∧
    ((0x21#8).toNat % 32 = 1 ∧ (prot [] { r0 with sp := 4 } 2).pushOk 2 = true) ∧
    ([(2, 6), (31, 64)].all fun p : Nat × Nat =>
      let s := prot [] { r0 with sp := BitVec.ofNat 16 p.2, bp := 0x400 } 2
      match s.push s.regs.bp with
      | .ok t =>
        match s.copyFrames (p.1 - 1) t with
        | .ok u => u.pushOk 1
        | .error _ => false
      | .error _ => false) = true := by decide

/-- The index at each bound and one past it. -/
theorem test_hyp_LeaveAndBound :
    (prot [] { r0 with bp := 0xFFFC } 2).popReady 0xFFFC = true ∧
    (real [] { r0 with bp := 0xFFFE } 2).popReady 0xFFFE = true ∧
    (let s := high (prot [] r0 2) 0x2FFFC (words [0xFFFB, 0x0005])
     let m := Mem.direct 0xFFFC
     let lo := signedValue .word (s.busWord 0 (s.memAddr m))
     let hi := signedValue .word (s.busWord 1 (linear (s.seg (s.memSeg m)).base (s.ea m + 2)))
     s.wordsReady (s.memSeg m) (s.ea m) 2 = true ∧ signedValue .word 0xFFFB = lo ∧
     signedValue .word 5 = hi ∧ signedValue .word 0xFFFA < lo ∧ hi < signedValue .word 6) :=
       by decide

theorem test_hyp_SoftwareInterruptsInRealMode :
    calm.flags.of = false ∧ calm.msw.pe = false ∧ 4 * (0xFF#8).toNat + 3 ≤ calm.idtr.limit.toNat ∧
      calm.pushOk 3 = true ∧ calm.answersAt (calm.idtr.base + 0x3FC) 4 = true ∧
      (real [] r0 0x802).flags.of = true := by decide

theorem test_hyp_ExceptionEntryInRealMode :
    calm.msw.pe = false ∧ calm.answersAt (calm.idtr.base + 0x3FC) 4 = true ∧
      4 * (0xFF#8).toNat + 3 ≤ calm.idtr.limit.toNat ∧
      (real [] { r0 with sp := 0 } 2).pushOk 3 = true := by decide

/-- A table that ends with entry 8, one that ends just before its last byte, and a push with SP = 1: as
the first one with SP = 1, as the last one with SP one less than the frame. -/
theorem test_hyp_RealModeTableLimitAndShutdown :
    (let s : State := { calm with idtr := { base := 0, limit := 35 } }
     s.msw.pe = false ∧ s.idtr.limit.toNat < 4 * (9#8).toNat + 3 ∧ 9#8 ≠ 8#8 ∧ 9#8 ≠ 13#8 ∧
     35 ≤ s.idtr.limit.toNat ∧ s.pushOk 3 = true ∧ s.answersAt (s.idtr.base + 32) 4 = true) ∧
    (let s : State := { calm with idtr := { base := 0, limit := 34 } }
     s.idtr.limit.toNat < 4 * (8#8).toNat + 3 ∧ s.idtr.limit.toNat < 35) ∧
    ([1, 3, 5, 15].map fun n : Nat =>
      let s := real [] { r0 with sp := BitVec.ofNat 16 n } 0x802
      (s.regs.sp.toNat % 2, s.rmReady .read .word (.reg 0), s.flags.of,
        s.wordsReady (s.memSeg (.direct 0xFFFC)) (s.ea (.direct 0xFFFC)) 2,
        decide (4 * (0xFF#8).toNat + 3 ≤ s.idtr.limit.toNat) &&
          s.answersAt (s.idtr.base + BitVec.ofNat 24 (4 * (0xFF#8).toNat)) 4, s.msw.pe)) =
      List.replicate 4 (1, true, true, true, true, false) ∧
    1 < 2 * 1 ∧ 3 < 2 * 2 ∧ 5 < 2 * 3 ∧ 15 < 2 * 8 ∧ (0x20#8).toNat % 32 + 1 = 1 ∧
      (0x21#8).toNat % 32 + 1 = 2 := by decide

/-- The state with just the room for n words on the stack of level 0. -/
def roomFor (n : Nat) (s : State) : State :=
  { s with mem := Memory.write (Memory.write s.mem 0x3003 0) 0x3002 (BitVec.ofNat 8 (2 * n)) }

/-- A machine with IF = 1 at a boundary, with these inputs, INTR held, and a single step due or not. -/
def asking (p : Pins) (trap : Bool) : State :=
  { real [0x90] r0 0x202 with pins := p, tfAtStart := trap, intrHeld := true }

/-- Gate 13, the last of the table, with just the room for its frame; and gate 13 by INT at a CPL its
DPL admits. -/
theorem test_hyp_EntryThroughAGate :
    let s := prot [] { r0 with sp := 8 } 2
    let gate := s.idtr.base + BitVec.ofNat 24 (8 * (13#8).toNat)
    let g := s.entering.busDesc 2 gate
    let d := s.entering.busDesc 3 0x1008
    s.answersAt gate 6 = true ∧ s.answersAt 0x1008 6 = true ∧
    s.msw.pe = true ∧ 8 * (13#8).toNat + 7 ≤ s.idtr.limit.toNat ∧ arSystemType g.ar = some 7 ∧
      arPresent g.ar = true ∧ isNull g.gateSelector = false ∧
      s.descAddr g.gateSelector = some 0x1008 ∧ arSegment d.ar = true ∧ arExec d.ar = true ∧
      arPresent d.ar = true ∧ arDpl d.ar = s.cpl ∧ g.gateOffset ≤ d.limit ∧ s.pushOk 4 = true ∧
      s.cpl ≤ arDpl g.ar ∧ s.pushOk 3 = true ∧
      ({ s with pins := { Pins.quiet with vector := 13 } } : State).eventVector .intr = 13#8 := by
  decide

/-- From CPL 3, gate 6, and gate 13, which has an error code and whose DPL admits INT; the stack the
task state segment names has just the room, and the accessed bits lie elsewhere. -/
theorem test_hyp_EntryToAnInnerLevel :
    ([(6#8, 5), (13#8, 6)].all fun p : Byte × Nat =>
      let s := roomFor p.2 (user [] r0 2)
      let gate := s.idtr.base + BitVec.ofNat 24 (8 * p.1.toNat)
      let g := s.entering.busDesc 2 gate
      let d := s.entering.busDesc 3 0x1008
      s.answersAt gate 6 && s.answersAt 0x1008 6 &&
      s.msw.pe && decide (8 * p.1.toNat + 7 ≤ s.idtr.limit.toNat) &&
        (arSystemType g.ar == some 6 || arSystemType g.ar == some 7) && arPresent g.ar &&
        !isNull g.gateSelector && s.descAddr g.gateSelector == some 0x1008 && arSegment d.ar &&
        arExec d.ar && !arDirConf d.ar && arPresent d.ar && decide (arDpl d.ar < s.cpl) &&
        decide (g.gateOffset ≤ d.limit) &&
        (p.1 != 13#8 || decide (s.cpl ≤ arDpl g.ar))) = true ∧
    ({ user [] r0 2 with pins := { Pins.quiet with vector := 6 } } : State).eventVector .intr = 6#8 ∧
    (let s := (roomFor 5 (user [] r0 2)).entering
     (s.holdAccessed (s.busDesc 3 0x1008)).innerStackAt 0 0x10 10 0x1010 5) ∧
    (let s := (roomFor 6 (user [] r0 2)).entering
     (s.holdAccessed (s.busDesc 3 0x1008)).innerStackAt 0 0x10 12 0x1010 6) := by
  unfold State.innerStackAt stackLoadable stackAdmits; decide

/-- Each event, requested at a boundary where nothing was taken, taken, and in real address mode with
a table that ends with its entry; none requested; a halted machine; one held off by an NMI in
service. -/
theorem test_hyp_BoundaryEvents :
    (asking { Pins.quiet with nmi := true } false).sample.nextEvent = some .nmi ∧
    (let s := asking { Pins.quiet with intr := true } true
     s.run = .running ∧ s.pre = Prefixes.none ∧ s.pins.reset = false ∧
     s.pins.resetDuring = false ∧ s.sample.servePereq = none ∧ s.sample.nextEvent = some .trap) ∧
    (let s := { asking { Pins.quiet with intr := true } false with run := .halted }
     s.run = .halted ∧ s.sample.nextEvent = some .intr) ∧
    (let s := { asking { Pins.quiet with intr := true } true with boundaryStep := 2 }
     s.intInhibit = false ∧ s.nmiPending = false ∧ s.pxOverrun = false ∧ s.pins.intr = true ∧
     s.flags.intf = true ∧ s.nmiInService = false ∧ s.boundaryStep < 5 ∧ s.intrHeld = true ∧
     ¬(s.tfAtStart = true ∧ s.boundaryStep < 2)) ∧
    (let s := { calm with pxOverrun := true }
     s.nextEvent = some .overrun ∧ ({ s with nmiInService := true } : State).nextEvent = none) ∧
    (calm.msw.pe = false ∧ calm.pushOk 3 = true ∧ calm.answersAt (calm.idtr.base + 36) 4 = true ∧
     4 * (9#8).toNat + 3 ≤ ({ calm with idtr := ⟨0, 39⟩ } : State).idtr.limit.toNat) := by decide

/-- A task switch by JMP, one by CALL and one through a task gate complete; so do JMP to a task state
segment and to a task gate, INT 5, and IRET from the task a CALL has entered. -/
theorem test_hyp_TaskSwitches :
    (let s := prot [] r0 2
     (s.taskSwitch 0x0038 .jmp false 0 0x0105).toBool = true ∧
      (s.taskSwitch 0x0038 .call false 0 0x0105).toBool = true ∧
      (s.entering.taskSwitch 0x0038 .int true 0 0x0100).toBool = true ∧
      s.answersAt 0x1038 6 = true ∧ s.answersAt 0x1058 6 = true ∧ s.answersAt 0x2028 6 = true ∧
      s.descAddr 0x0038 = some 0x1038 ∧ arSystemType (s.busDesc 2 0x1038).ar = some 1 ∧
      s.cpl ≤ arDpl (s.busDesc 2 0x1038).ar ∧ rpl 0x0038 ≤ arDpl (s.busDesc 2 0x1038).ar ∧
      s.descAddr 0x0058 = some 0x1058 ∧ arSystemType (s.busDesc 2 0x1058).ar = some 5 ∧
      arPresent (s.busDesc 2 0x1058).ar = true ∧ (s.busDesc 2 0x1058).gateSelector = 0x0038 ∧
      8 * (5#8).toNat + 7 ≤ s.idtr.limit.toNat ∧ (s.entering.busDesc 2 0x2028).gateSelector = 0x0038 ∧
      arSystemType (s.entering.busDesc 2 0x2028).ar = some 5 ∧
      arPresent (s.entering.busDesc 2 0x2028).ar = true) ∧
    after (exec (.callFar 0 0x0038) (prot [] r0 2)) (fun t =>
      t.flags.nt && t.tr.loaded && decide (1 ≤ t.tr.limit.toNat) &&
        t.answersAt t.tr.base 2 &&
          (t.taskSwitch (t.busWord 0 t.tr.base) .iret false 0 t.ip).toBool) = some true := by decide

theorem test_hyp_farTransfer (s : State) :
    s.farTransfer (.jmpFar 0 0x0038) false 0 0x0038 := .inl rfl

/-- A gate of DPL 0 used at CPL 3; one that is absent; null, out of the table, data and absent code as
its target. -/
theorem test_hyp_callGateFailures :
    [gate 0x0400 0x0008 0 0x84, gate 0x0400 0x0008 0 0x64, gate 0x0400 0x0003 0 0xE4,
        gate 0x0400 0x0070 0 0xE4, gate 0x0400 0x0010 0 0xE4, gate 0x0400 0x0050 0 0xE4].map
      (fun g =>
        let s := gated g (user [] r0 2)
        let g := s.busDesc 2 0x1040
        [arSystemType g.ar == some 4, decide (arDpl g.ar < s.cpl), arPresent g.ar,
          isNull g.gateSelector] ++
        match s.descAddr g.gateSelector with
        | none => []
        | some c =>
          [arCode (s.busDesc 3 c).ar && decide (arDpl (s.busDesc 3 c).ar ≤ s.cpl),
            arPresent (s.busDesc 3 c).ar]) =
      [[true, true, true, false, true, true], [true, false, false, false, true, true],
        [true, false, true, true, false, false], [true, false, true, false],
        [true, false, true, false, false, true], [true, false, true, false, true, false]] := by decide

/-- A target with RPL 3 at CPL 0; the same level, at the end of the segment, and conforming; an inner
level, with two parameters at the end of the stack and just the room for them. -/
theorem test_hyp_CallGates :
    (let s := gated (gate 0xFFFF 0x000B 0 0xE4) (prot [] { r0 with sp := 4 } 2)
     let d := s.busDesc 3 0x1008
     s.descAddr 0x0043 = some 0x1040 ∧ s.descAddr 0x000B = some 0x1008 ∧ arDirConf d.ar = false ∧
     arDpl d.ar = s.cpl ∧ s.cpl < rpl 0x000B ∧ codeReachable s.cpl 0x0008 d ∧ 0xFFFF#16 ≤ d.limit ∧
     codeReachable s.cpl 0x002B (s.busDesc 3 0x1028) ∧ 0x00FF#16 ≤ (s.busDesc 3 0x1028).limit ∧
     s.pushOk 2 = true ∧ s.answersAt 0x1040 6 = true ∧ s.answersAt 0x1008 6 = true ∧
     s.answersAt 0x1028 6 = true) ∧
    (let s := roomFor 6 (user [] { r0 with sp := 0xFFFC } 2)
     (s.holdAccessed (s.busDesc 3 0x1008)).innerStackAt 0 0x10 12 0x1010 6 ∧
     (s.busDesc 2 0x1040).gateCount = 2 ∧
     ∀ j, j < 2 → s.readReady .ss (s.regs.sp + BitVec.ofNat 16 (2 * j)) .word = true) := by
  unfold State.innerStackAt stackLoadable stackAdmits codeReachable; decide

/-- RET 4 and IRET to level 3 with a frame that ends with the stack segment, and RET to level 0 from
level 3. -/
theorem test_hyp_ReturnsToAnOuterLevel :
    (let s := high (prot [] { r0 with sp := 0xFFF4 } 2) 0x2FFF4
       (words [0xFFFF, 0x1B, 0xAAAA, 0xBBBB, 0x100, 0x23])
     s.msw.pe = true ∧ s.ss.permits .read s.regs.sp 4 = true ∧
     s.wordsAnswer .ss s.regs.sp (4 / 2) = true ∧
     s.wordsAnswer .ss (s.regs.sp + BitVec.ofNat 16 4 + 4) 2 = true ∧
     s.answersAt 0x1018 6 = true ∧ s.answersAt 0x1020 6 = true ∧
     s.ss.permits .read s.regs.sp (4 + (4#16).toNat + 4) = true ∧
     isNull (s.busWord 1 (s.above 2)) = false ∧ s.descAddr (s.busWord 1 (s.above 2)) = some 0x1018 ∧
     s.cpl < rpl (s.busWord 1 (s.above 2)) ∧ returnAdmits 0x1B (s.busDesc 3 0x1018) ∧
     arPresent (s.busDesc 3 0x1018).ar = true ∧
     s.busWord 0 (s.above 0) ≤ (s.busDesc 3 0x1018).limit ∧
     let h := s.holdAccessed (s.busDesc 3 0x1018)
     s.descAddr (h.busWord 5 (s.above (4 + (4#16).toNat + 2))) = some 0x1020 ∧
     stackLoadable 3 0x23 (h.busDesc 6 0x1020)) ∧
    (let s := high (prot [] { r0 with sp := 0xFFF6 } 2) 0x2FFF6
       (words [0x205, 0x1B, 0x202, 0x100, 0x23])
     s.flags.nt = false ∧ s.ss.permits .read s.regs.sp (6 + 0 + 4) = true ∧
     let h := s.holdAccessed (s.busDesc 3 0x1018)
     s.descAddr (h.busWord 5 (s.above (6 + 0 + 2))) = some 0x1020) ∧
    (let s := high (user [] { r0 with sp := 0xFFFC } 2) 0x2FFFC (words [0x205, 0x08])
     s.ss.permits .read s.regs.sp 4 = true ∧ s.descAddr (s.busWord 1 (s.above 2)) = some 0x1008 ∧
     rpl (s.busWord 1 (s.above 2)) < s.cpl) := by
  unfold returnAdmits stackLoadable stackAdmits; decide

theorem test_hyp_InterruptReturns :
    (let s := real [] { r0 with sp := 0xFFFA } 2
     s.msw.pe = false ∧ s.wordsReady .ss s.regs.sp 3 = true) ∧
    (let s := high (prot [] { r0 with sp := 0xFFFA } 2) 0x2FFFA (words [0xFFFF, 8, 0x202])
     let newCs := s.busWord 1 (s.above 2)
     let d := s.busDesc 3 0x1008
     s.flags.nt = false ∧ s.ss.permits .read s.regs.sp 6 = true ∧
     s.wordsAnswer .ss s.regs.sp 3 = true ∧ s.answersAt 0x1008 6 = true ∧ isNull newCs = false ∧
     s.descAddr newCs = some 0x1008 ∧ returnAdmits newCs d ∧ arPresent d.ar = true ∧
     rpl newCs = s.cpl ∧ s.busWord 0 (s.above 0) ≤ d.limit) ∧
    toConforming 0x2FFFA 0xFFFA (words [0xFF, 0x2B, 0x202]) := by
  unfold toConforming returnAdmits; decide

theorem test_hyp_FlagInstructionsAndHalt :
    calm.msw.pe = false ∧ (user [] r0 0x3002).cpl ≤ (user [] r0 0x3002).flags.iopl ∧
    (prot [] r0 2).cpl = 0#2 ∧
    (let s : State := { calm with run := .halted }
     s.run = .halted ∧ s.pins.reset = false ∧ s.pins.resetDuring = false ∧ s.pins.intr = false ∧
     s.pins.nmi = false ∧ s.pins.pereq = [] ∧ s.pins.masterStores = [] ∧ s.nmiPending = false ∧
     s.pxOverrun = false ∧ s.tfAtStart = false) := by decide

/-- A machine with TS and MP, one with EM, and one with neither; SP = 0 wraps; the exception taken. -/
theorem test_hyp_ProcessorExtensionNotAvailable :
    (let s : State := { calm with
       msw := { pe := false, mp := true, em := false, ts := true }
       regs := { r0 with sp := 0 }, idtr := { base := 0, limit := 31 } }
     s.msw.ts = true ∧ s.msw.mp = true ∧ s.msw.pe = false ∧ 31 ≤ s.idtr.limit.toNat ∧
     s.pushOk 3 = true ∧ s.answersAt (s.idtr.base + 28) 4 = true ∧
     goes (s.takeException 7 0 .unchanged) = true) ∧
    ({ calm with msw := { pe := false, mp := false, em := true, ts := false } } : State).msw.em = true ∧
    (calm.msw.em = false ∧ calm.msw.ts = false ∧ calm.platform.pxPresent = false) := by decide

/-- A machine with an extension attached. -/
def attached (p : Pins) : State :=
  { calm with pins := p, platform := { Platform.default with pxPresent := true } }

/-- BUSY active; ERROR active with a table that ends with entry 16; an operand whose first word ends
at the limit. -/
theorem test_hyp_ProcessorExtensionInstructions :
    (attached { Pins.quiet with busy := true }).pins.busy = true ∧
    (let s : State := { attached { Pins.quiet with error := true } with idtr := ⟨0, 67⟩ }
     ¬(s.msw.ts = true ∧ s.msw.mp = true) ∧ s.platform.pxPresent = true ∧ s.pins.busy = false ∧
     s.pins.error = true ∧ s.msw.pe = false ∧ 67 ≤ s.idtr.limit.toNat ∧ s.pushOk 3 = true ∧
     s.answersAt (s.idtr.base + 64) 4 = true) ∧
    (narrow.msw.em = false ∧ narrow.msw.ts = false ∧ narrow.platform.pxPresent = false ∧
      (narrow.seg (narrow.memSeg (.direct 0xFE))).permits .read (narrow.ea (.direct 0xFE)) 2 = true ∧
      (narrow.seg (narrow.memSeg (.direct 0xFE))).permits .write (narrow.ea (.direct 0xFE)) 2 =
        true) := by
  decide

theorem test_hyp_SystemRegisterTransfers :
    narrow.cpl = 0#2 ∧
      narrow.wordsReady (narrow.memSeg (.direct 0xFA)) (narrow.ea (.direct 0xFA)) 3 = true ∧
      narrow.wordsOk .write (narrow.memSeg (.direct 0xFA)) (narrow.ea (.direct 0xFA)) 3 = true ∧
      operandsOk .word 0x00FE = true ∧ narrow.msw.pe = true ∧
      (let s : State := { calm with
         cs := State.reset.cs, platform := { Platform.default with a20Decoded := false } }
       let a := linear s.cs.base (s.curIp + BitVec.ofNat 16 15)
       s.msw.pe = false ∧ 15 < (s.ip - s.curIp).toNat + s.platform.prefetchWindow ∧
       s.physAddr a ≠ a.toNat ∧ s.fetchAnswers a = true) := by decide

/-- A null selector, an LDT descriptor and an available task state segment. -/
theorem test_hyp_LocalTableAndTaskRegisterLoads :
    narrow.msw.pe = true ∧ narrow.cpl = 0#2 ∧ isNull 0x0003 = true ∧
      (isNull 0x0048 = false ∧ (0x0048#16).getLsbD 2 = false ∧
        narrow.descAddr 0x0048 = some 0x1048 ∧ narrow.answersAt 0x1048 6 = true ∧
        arPresent (narrow.busDesc 2 0x1048).ar = true ∧
        arSystemType (narrow.busDesc 2 0x1048).ar = some 2) ∧
      (isNull 0x0038 = false ∧ narrow.descAddr 0x0038 = some 0x1038 ∧ narrow.answersAt 0x1038 6 = true ∧
        arPresent (narrow.busDesc 2 0x1038).ar = true ∧
        arSystemType (narrow.busDesc 2 0x1038).ar = some 1) := by decide

/-- A null selector, one past the table, one the tests see and one they do not; the RPLs of ARPL
either way round. -/
theorem test_hyp_SelectorTests :
    (let s := user [] r0 2
     s.msw.pe = true ∧ isNull 0x0003 = true ∧ s.descAddr 0x0070 = none ∧
     isNull 0x0068 = false ∧ s.descAddr 0x0068 = some 0x1068 ∧
     ¬testVisible s 0x0068 (s.busDesc 2 0x1068) ∧ s.descAddr 0x0023 = some 0x1020 ∧
     s.answersAt 0x1068 6 = true ∧ s.answersAt 0x1020 6 = true ∧
     testVisible s 0x0023 (s.busDesc 2 0x1020)) ∧
    ((0x0010#16).toNat % 4 < (0x0023#16).toNat % 4 ∧
      (0x0023#16).toNat % 4 ≤ (0x0013#16).toNat % 4) := by
  unfold testVisible; decide

theorem test_hyp_ProtectedModeInstructionsInRealMode : calm.msw.pe = false := by decide

theorem test_hyp_PrivilegeTraps :
    let s := user [] r0 0x2002
    s.msw.pe = true ∧ s.cpl ≠ 0#2 ∧ s.flags.iopl < s.cpl ∧ s.pre.rep = none ∧ s.pre.lock = false ∧
      ({ s with pre := { Prefixes.none with seg := some .es } } : State).pre.rep = none ∧
      (repeating true { s with regs := { r0 with cx := 1 } }).regs.cx ≠ 0#16 := by decide

/-- The word one byte past the end of its segment, read and written, as an r/m operand, a pointer and a
direct offset; the byte past it; the string elements, the words popped and pushed at the ends of the
stack, SP = FFFDh and FFFBh in real address mode among them; offset FFFFh there. -/
theorem test_hyp_OperandsOutsideTheirSegment :
    (let m := Mem.direct 0xFF
     narrow.rmOk .read .word (.mem m) = false ∧ narrow.rmOk .write .word (.mem m) = false ∧
     narrow.rmOk .read .byte (.mem (.direct 0x100)) = false ∧ narrow.msw.pe = true ∧
     narrow.cpl = 0#2 ∧ narrow.wordsOk .read (narrow.memSeg m) 0xFD 2 = false ∧
     narrow.wordsOk .write (narrow.memSeg m) 0xFB 3 = false ∧
     narrow.accessOk .read (narrow.overridden .ds) 0xFF 2 = false ∧
     (narrow.seg (narrow.memSeg m)).permits .read (narrow.ea m) 2 = false ∧
     (narrow.seg (narrow.memSeg m)).permits .write (narrow.ea m) 2 = false) ∧
    (let s := { narrow with regs := { r0 with bx := 0xFF, ax := 1, si := 0xFF, di := 0xFFFF } }
     s.accessOk .read (s.overridden .ds) (s.regs.bx + (s.regs.ax &&& 0x00FF#16)) 1 = false ∧
     s.accessOk .read (s.overridden .ds) s.regs.si 2 = false ∧ s.pre.rep = none ∧
     s.cpl ≤ s.flags.iopl ∧ s.accessOk .write .es s.regs.di 2 = false ∧
     s.accessOk .read .es s.regs.di 2 = false ∧
     ({ s with regs := r0 } : State).readReady (s.overridden .ds) r0.si .word = true) ∧
    (let s := prot [] { r0 with sp := 0xFFFE, bp := 0xFFFE } 2
     s.popAdmitted s.regs.sp = false ∧ s.popAdmitted s.regs.bp = false ∧
     s.wordsOk .read .ss s.regs.sp 2 = false ∧ s.wordsOk .read .ss s.regs.sp 3 = false ∧
     s.flags.nt = false) ∧
    (let s := real [] { r0 with sp := 0xFFFD } 2
     s.wordsOk .read .ss s.regs.sp 1 = true ∧ s.wordsOk .read .ss s.regs.sp 2 = false ∧
     s.wordsOk .read .ss 0xFFFB 2 = true ∧ s.wordsOk .read .ss 0xFFFB 3 = false ∧
     s.msw.pe = false) ∧
    ((prot [] { r0 with sp := 1 } 2).pushOk 1 = false ∧ (prot [] { r0 with sp := 3 } 2).pushOk 2 = false ∧
     isNull 0x0008 = false ∧ narrow.descAddr 0x0008 = some 0x1008 ∧
     narrow.answersAt 0x1008 6 = true ∧ narrow.ip + 5 ≤ narrow.cs.limit ∧
     codeReachable narrow.cpl 0x0008 (narrow.busDesc 2 0x1008)) ∧
    (calm.msw.pe = false ∧ calm.accessOk .read .ds 0xFFFF 2 = false) := by
  unfold codeReachable; decide

end Sys2Proof.Tests
end

section
/-! PROOFS. What a step makes of the bytes at CS:IP. -/

namespace Sys2Proof.Machine

/-! ## A step without RESET -/

/-- A step in which RESET does not become active. -/
theorem step_of_no_reset {s : State} (h : s.pins.reset = false) (hd : s.pins.resetDuring = false) :
    step s = s.sample.settled (s.sample.answered s.sample.act) := by
  simp [step, h, hd, State.work]

theorem State.sample_masterOps {s : State}
    (h : s.platform.otherMasters = false ∨ s.pins.masterStores = []) : s.sample.masterOps = [] :=
  State.masterOps_eq_nil h

theorem State.sample_mem_quiet {s : State}
    (h : s.platform.otherMasters = false ∨ s.pins.masterStores = []) : s.sample.mem = s.mem := by
  rw [State.sample_quiet h]

/-! ## A step while running (R17, R36, R133, R137, R633) -/

/-- Where nothing comes first at the boundary, a running machine runs the instruction at CS:IP. -/
theorem State.act_of_no_boundary {s : State} (h : s.run = .running)
    (hb : s.pre = Prefixes.none → s.boundary = none) : s.act = s.runNext := by
  simp only [State.act, h, State.runStep]
  split
  · rw [hb ‹_›]
  · rfl

/-- The start of an instruction, its fields one by one (R36, R65, R630). -/
theorem State.begin_eq (s : State) :
    s.begin = { s with
      curIp := if s.pre = Prefixes.none then s.ip else s.curIp
      tfAtStart := if s.pre = Prefixes.none then s.flags.tf else s.tfAtStart
      intrHeld := if s.pre = Prefixes.none then s.pins.intr else s.intrHeld
      boundaryStep := if s.pre = Prefixes.none then 0 else s.boundaryStep } := by
  unfold State.begin
  split <;> rfl

/-- The state an instruction's effects begin in, its fields one by one (R17, R64, R780). -/
theorem State.ready_eq (s : State) (i : Instr) (n : Nat) :
    s.ready i n = { s with
      ip := s.ip + BitVec.ofNat 16 n
      ipCarry := decide (0x10000 ≤ s.codeOffset + n)
      intInhibit := isPrefix i && s.intInhibit
      modeSwitch := isPrefix i && s.modeSwitch } := by
  unfold State.ready
  cases isPrefix i <;> rfl

/-- The end of an instruction: its prefixes are used up (R300). -/
theorem endInstr_eq (i : Instr) (o : Host.Outcome State Fault Refusal) :
    endInstr i o = match o with
      | .next t => .next { t with pre := if isPrefix i then t.pre else Prefixes.none }
      | o => o := by
  cases o with
  | next t => simp only [endInstr]; cases isPrefix i <;> rfl
  | _ => rfl

/-- No byte is fetched past offset FFFFh (R36, R136). -/
theorem State.fetchable_of_past {s : State} {off : Nat} (h : 0xFFFF < off) :
    s.fetchable off = false := by
  simp [State.fetchable, show ¬off ≤ 0xFFFF by omega]

theorem State.codeOffset_of_ipCarry {s : State} (h : s.ipCarry = true) : 0xFFFF < s.codeOffset := by
  rw [State.codeOffset, if_pos h]
  omega

theorem State.codeBytes_of_ipCarry {s : State} (h : s.ipCarry = true) : s.codeBytes = [] := by
  simp [State.codeBytes, maxLength, State.codeFrom,
    State.fetchable_of_past (State.codeOffset_of_ipCarry h)]

theorem State.codeSilent_of_ipCarry {s : State} (h : s.ipCarry = true) : s.codeSilent = false := by
  simp [State.codeSilent, State.codeBytes_of_ipCarry h,
    State.fetchable_of_past (State.codeOffset_of_ipCarry h)]

theorem State.fetch_of_ok {s : State} {i : Instr} {rest : List Byte}
    (h : decode s.codeBytes = .ok i rest) (hz : hazardFree s i = true)
    (hp : prefixListed s.pre i = true) :
    s.fetch = .run i (s.ready i (s.codeBytes.length - rest.length)) := by
  simp [State.fetch, h, hz, hp]

/-- Where the segment ends before the instruction does, exception 13 is next (R136, R137). -/
theorem State.fetch_of_end {s : State}
    (h : decode s.codeBytes = .truncated ∧ s.codeSilent = false ∨ s.ipCarry = true)
    (hm : s.modeSwitch = false) : s.fetch = .overrun := by
  have key : decode s.codeBytes = .truncated ∧ s.codeSilent = false := by
    rcases h with h | h
    · exact h
    · rw [State.codeBytes_of_ipCarry h]
      exact ⟨rfl, State.codeSilent_of_ipCarry h⟩
  simp [State.fetch, key, hm]

theorem State.fetch_of_silent {s : State} (h : decode s.codeBytes = .truncated)
    (hs : s.codeSilent = true) : s.fetch = .silent := by
  simp [State.fetch, h, hs]

/-! ## Where everything answers (R708) -/

section
variable {s : State} (h : ∀ k, s.platform.kindAt k ≠ .silent)
include h

theorem State.storesSilent_of_no_silent (x : Store) : s.storesSilent x = false := by
  simp [State.storesSilent, h]

theorem State.storesAnswered_of_no_silent (t : State) : s.storesAnswered t = t := by
  have hf : t.stores.reverse.find? s.storesSilent = none := by
    simp [State.storesSilent_of_no_silent h]
  rw [State.storesAnswered, hf]

/-- Where no location is silent, no store or prefetch is waited for. -/
theorem State.answered_of_no_silent (o : Host.Outcome State Fault Refusal) : s.answered o = o := by
  have ha : s.silentAhead = false := by simp [State.silentAhead, h]
  cases o <;> simp [State.answered, State.storesAnswered_of_no_silent h, ha]

end

/-- Settles O7: a step is that of `State.runNext`, and each clause is what `State.fetch` finds at CS:IP. -/
theorem aStepRunsTheDecodedInstruction : Obligations.AStepRunsTheDecodedInstruction := by
  intro s hr hd hrun hb first u
  have hu : u = s.sample.begin := s.sample.begin_eq.symm
  have hstep : step s = s.sample.settled (s.sample.answered s.sample.runNext) := by
    rw [step_of_no_reset hr hd, State.act_of_no_boundary (s := s.sample) hrun hb]
  rw [hstep, State.runNext, ← hu]
  refine ⟨fun i rest h hz hp => ?_, fun h hm => ?_, fun h hs => ?_, fun h o => ?_, fun h o => ?_⟩
  · rw [State.fetch_of_ok (s := u) h hz hp, State.ready_eq]
    exact congrArg (fun o => s.sample.settled (s.sample.answered o)) (endInstr_eq i _)
  · rw [State.fetch_of_end (s := u) h hm]
  · rw [State.fetch_of_silent h hs]
    rfl
  · exact State.settled_quiet (State.sample_masterOps h) o
  · exact State.answered_of_no_silent (s := s.sample) h o

end Sys2Proof.Machine
end

section
/-! PROOFS. Words in memory and on the bus, and what never answers. -/

namespace Sys2Proof.Machine

/-! ## A word in memory and on the bus (R15, R120, R123, R125) -/

theorem State.byteAt_setStores (s : State) (l : List Store) (k : Nat) :
    (s.setStores l).byteAt k = s.byteAt k := rfl

/-- A store leaves what is not RAM as it is (R118). -/
theorem State.byteAt_writeWord_of_not_ram {s : State} {k : Nat} (h : s.ramAt k = false) (a : Addr)
    (v : Word) : (s.writeWord a v).byteAt k = s.byteAt k := by
  simp [State.writeWord, State.byteAt_setStores, State.byteAt_writeByte, h]

/-- The low byte of a word stored in RAM is at the lower address (R120). -/
theorem State.readByte_writeWord_low {s : State} {a : Addr} (v : Word) (h : s.isRam a 2 = true) :
    (s.writeWord a v).readByte a = loByte v := by
  simp only [State.readByte_writeWord, State.physAddr_ne_succ, State.isRam_two h, false_and, and_self,
    ↓reduceIte]

theorem State.readByte_writeWord_high {s : State} {a : Addr} (v : Word) (h : s.isRam a 2 = true) :
    (s.writeWord a v).readByte (a + 1) = hiByte v := by
  simp only [State.readByte_writeWord, State.isRam_two h, and_self, ↓reduceIte]

theorem State.sameMemoryBut_writeWord (s : State) (a : Addr) (v : Word) :
    s.sameMemoryBut (s.writeWord a v) a 2 := fun _ hb =>
  State.readByte_writeWord_ne v (by simpa [State.apart] using hb 0 (by decide))
    (by simpa [State.apart] using hb 1 (by decide))

/-- The bus operations of a store are recorded newest first. -/
theorem State.recorded_cells (s : State) (ops : List (List (Addr × Byte))) :
    (s.recorded ops).map Store.cells = ops.reverse ++ s.stores.map Store.cells := by
  simp only [State.recorded, List.map_append, List.map_reverse, List.map_map, Function.comp_def]
  rw [List.zipIdx_map_fst]

theorem even_iff_getLsbD_zero (a : Addr) : a.toNat % 2 = 0 ↔ a.getLsbD 0 = false := by
  simp [BitVec.getLsbD, Nat.testBit_zero]

theorem State.writeWord_cells (s : State) (a : Addr) (v : Word) :
    (s.writeWord a v).stores.map Store.cells =
      (if a.toNat % 2 = 0 then [[(a, loByte v), (a + 1, hiByte v)]]
        else [[(a + 1, hiByte v)], [(a, loByte v)]]) ++ s.stores.map Store.cells := by
  rw [State.writeWord_stores, State.recorded_cells, storeOps]
  simp only [even_iff_getLsbD_zero]
  cases a.getLsbD 0 <;> rfl

/-! ## What a read finds among other masters' operations (R123, R129 to R132) -/

/-- Memory after the first n of other masters' operations, those made before the step being in it. -/
def State.afterOthers (s : State) (n : Nat) : State :=
  { s with mem := s.otherStores s.mem ((s.masterOps.take n).drop (s.passed 0)) }

/-- How many of other masters' operations are made by the i-th read of a step. -/
def State.passedRead (s : State) (i : Nat) : Nat := s.passed (2 * i)

/-- How many are made by the second half of it, at an odd address. -/
def State.passedHalf (s : State) (i : Nat) : Nat := s.passed (2 * i + 1)

/-- No store is made yet and the machine is in no locked sequence of the bus. -/
def State.freshBus (s : State) : Prop :=
  s.stores = [] ∧ s.clock.base = 0 ∧ s.clock.held = none

/-- Later reads find no fewer of other masters' operations. -/
theorem State.passedRead_bounds (s : State) (i : Nat) :
    s.passed 0 ≤ s.passedRead i ∧ s.passedRead i ≤ s.passedHalf i ∧
      s.passedHalf i ≤ s.passedRead (i + 1) ∧ s.passedHalf i ≤ s.masterOps.length :=
  ⟨s.passed_mono (by omega), s.passed_mono (by omega), s.passed_mono (by omega), s.passed_le _⟩

/-- Under LOCK the reads find the same of them, as long as it remains active (R130). -/
theorem State.passedRead_locked {s : State} (h : s.pre.lock = true) (i : Nat) :
    (2 * i < BusClock.delivery → s.passedHalf i = s.passedRead i) ∧
      (2 * i ≤ s.clock.apart → s.passedRead i = s.passed 0) :=
  ⟨State.passed_locked_halves h (by omega), State.passed_locked h⟩

section
variable {s : State} (h : s.freshBus)
include h

theorem State.time_of_freshBus (i : Nat) : s.time i = 2 * i := by
  obtain ⟨hs, hb, -⟩ := h
  simp [State.time, hs, hb]

variable (hk : ∀ b, s.platform.kindAt (s.physAddr b) ≠ .undriven)
include hk

/-- A read at a bus time finds memory after the operations made by then (R132). -/
theorem State.byteSeen_of_freshBus (m : Nat) (a : Addr) :
    s.byteSeen m (s.physAddr a) = (s.afterOthers (s.passed m)).readByte a := by
  obtain ⟨hs, -, hh⟩ := h
  rw [State.byteSeen_eq hs (hk a), State.seen, hh]
  rfl

theorem State.busByte_of_freshBus (i : Nat) (a : Addr) :
    s.busByte i a = (s.afterOthers (s.passedRead i)).readByte a := by
  rw [State.busByte, State.byteSeen_of_freshBus h hk, State.time_of_freshBus h, State.passedRead]

/-- Nothing comes between the halves of a word read in a locked sequence (R129). -/
theorem State.lockedWord_of_freshBus (i : Nat) (a : Addr) :
    s.lockedWord i a = (s.afterOthers (s.passedRead i)).readWord a := by
  rw [State.lockedWord, State.busByte_of_freshBus h hk, State.busByte_of_freshBus h hk, State.readWord]

/-- The second half of a word at an odd address is an operation of its own (R123, R125). -/
theorem State.busWord_of_freshBus (i : Nat) (a : Addr) :
    s.busWord i a = mkWord ((s.afterOthers (s.passedRead i)).readByte a)
      ((s.afterOthers (if a.toNat % 2 = 0 then s.passedRead i else s.passedHalf i)).readByte
        (a + 1)) := by
  simp only [State.busWord, State.byteSeen_of_freshBus h hk, State.time_of_freshBus h,
    even_iff_getLsbD_zero, State.passedRead, State.passedHalf]
  cases a.getLsbD 0 <;> rfl

end

/-! ## What is never answered (R708) -/

/-- A step whose first store waits for ever has stored nothing, and what left the machine before that
store has left it. -/
theorem State.storesAnswered_of_first_silent {s t : State} {x : Store} {xs : List Store}
    (ht : t.stores.reverse = x :: xs) (hx : s.storesSilent x = true) :
    s.storesAnswered t = (s.cutTo t 0 x.events).enterStuck := by
  simp [State.storesAnswered, ht, hx]

/-- A step cut before its first store, nothing having left the machine. -/
theorem State.cutTo_zero {s t : State} (ho : t.out = s.out) :
    (s.cutTo t 0 s.out.length).stores = [] ∧ (s.cutTo t 0 s.out.length).mem = s.mem ∧
      (s.cutTo t 0 s.out.length).out = s.out := by
  simp [State.cutTo, ho]

theorem State.storesAnswered_of_no_stores {s t : State} (ht : t.stores = []) :
    s.storesAnswered t = t := by
  simp [State.storesAnswered, ht]

/-- Where a step has neither stored nor sent anything, there is nothing to cut short. -/
theorem State.cutAt_of_no_effect {s t : State} (reset : Bool) (ht : t.stores = [])
    (ho : t.out = s.out) : (s.cutAt t reset).mem = s.mem ∧ (s.cutAt t reset).out = s.out := by
  simp [State.cutAt, State.cutTo, ht, ho, Nat.mod_one]

/-- The first bus operation of a store: it holds the address stored to, and nothing has left the machine
since the state before. -/
theorem State.store_first {s : State} (hs : s.stores = []) (r : SReg) (off : Word) (w : Width)
    (v : Word) : ∃ x xs b, (s.store r off w v).stores.reverse = x :: xs ∧ x.events = s.out.length ∧
      (linear (s.seg r).base off, b) ∈ x.cells := by
  cases w with
  | byte => simp [State.store, hs]
  | word =>
    simp only [State.store, State.writeWord_stores, storeOps, State.recorded, hs]
    split <;> simp

/-- A step that has come no further than its first store, which is never answered. -/
theorem State.answered_of_first_silent {s t : State} {x : Store} {xs : List Store}
    (ht : t.stores.reverse = x :: xs) (hx : s.storesSilent x = true) (he : x.events = s.out.length)
    (ho : t.out = s.out) :
    ∃ u, s.answered (.next t) = .next u ∧ u.run = .stuck ∧ u.mem = s.mem ∧ u.out = s.out := by
  have ha : s.platform.answers = false := by
    rw [Bool.eq_false_iff]
    intro ha
    simp [State.storesSilent, Platform.kindAt_ne_silent ha] at hx
  have hc := State.storesAnswered_of_first_silent ht hx
  rw [he] at hc
  obtain ⟨hcs, hcm, hco⟩ := State.cutTo_zero ho
  obtain ⟨hm, hout⟩ := State.cutAt_of_no_effect
    (t := (s.cutTo t 0 s.out.length).enterStuck) false hcs hco
  refine ⟨_, by rw [State.answered, ha, hc]; rfl, ?_⟩
  split
  · exact ⟨rfl, hm, hout⟩
  · exact ⟨rfl, hcm, hco⟩

/-- Nothing ahead in the code is waited for by a machine that does not run. -/
theorem State.silentAhead_of_not_running {s : State} (h : s.run ≠ .running) :
    s.silentAhead = false := by
  simp [State.silentAhead, h]

/-- An outcome without stores is answered as it is where the machine does not run. -/
theorem State.answered_of_no_stores {s t : State} (h : s.run ≠ .running) (ht : t.stores = []) :
    s.answered (.next t) = .next t := by
  simp [State.answered, State.storesAnswered_of_no_stores ht, State.silentAhead_of_not_running h]

/-- A step of a machine whose bus operation never ends. -/
theorem step_stuck {s : State} (h : s.run = .stuck) (hr : s.pins.reset = false)
    (hd : s.pins.resetDuring = false) : step s = .next (s.sample.settle s.sample) := by
  have hrun : s.sample.run = .stuck := h
  rw [step_of_no_reset hr hd, State.act_stuck hrun,
    State.answered_of_no_stores (by simp [hrun]) rfl, State.settled]

theorem exec_movRegRm (w : Width) (reg : RegNum) (rm : RM) (s : State) :
    exec (.movRegRm w reg rm) s = execMovRegRm w reg rm s := rfl

theorem exec_movRmReg (w : Width) (rm : RM) (reg : RegNum) (s : State) :
    exec (.movRmReg w rm reg) s = execMovRmReg w rm reg s := rfl

/-- MOV from a location that never answers waits. -/
theorem exec_movRegRm_stuck {s : State} {w : Width} {reg : RegNum} {m : Mem}
    (h : s.rmOk .read w (.mem m) = true) (ha : s.rmAnswers w (.mem m) = false) :
    exec (.movRegRm w reg (.mem m)) s = .next { s with run := .stuck } := by
  rw [exec_movRegRm, execMovRegRm, State.readRM, State.operand_stuck h ha]
  rfl

theorem exec_movRmReg_mem {s : State} {w : Width} {m : Mem} (reg : RegNum)
    (h : s.rmOk .write w (.mem m) = true) :
    exec (.movRmReg w (.mem m) reg) s =
      .next (s.store (s.memSeg m) (s.ea m) w (s.getReg w reg)) := by
  rw [exec_movRmReg, execMovRmReg, State.writeRM_of _ h]
  rfl

/-- MOV to a location that never answers waits, and has stored nothing. -/
theorem exec_movRmReg_silent {s : State} {w : Width} {m : Mem} (reg : RegNum) (hs : s.stores = [])
    (h : s.rmOk .write w (.mem m) = true)
    (hk : s.platform.kindAt (s.physAddr (s.memAddr m)) = .silent) :
    ∃ t u, exec (.movRmReg w (.mem m) reg) s = .next t ∧ s.answered (.next t) = .next u ∧
      u.run = .stuck ∧ u.mem = s.mem ∧ u.out = s.out := by
  obtain ⟨x, xs, b, ht, he, hx⟩ :=
    State.store_first hs (s.memSeg m) (s.ea m) w (s.getReg w reg)
  have hsil : s.storesSilent x = true := List.any_eq_true.2 ⟨_, hx, by simpa [State.memAddr] using hk⟩
  obtain ⟨u, hu⟩ := State.answered_of_first_silent ht hsil he (s.store_out _ _ _ _)
  exact ⟨_, u, exec_movRmReg_mem reg h, hu⟩

/-- The end of a step leaves the run state, the registers and what left the machine (R132). -/
theorem State.settle_frame (s t : State) : (s.settle t).run = t.run ∧
    (s.settle t).regs = t.regs ∧ (s.settle t).ip = t.ip ∧ (s.settle t).out = t.out := by
  rw [State.settle_eq]
  exact ⟨rfl, rfl, rfl, rfl⟩

/-- A machine whose bus operation never ends stays as it is but for what other masters store. -/
theorem step_stuck_frame {s : State} (h : s.run = .stuck) (hr : s.pins.reset = false)
    (hd : s.pins.resetDuring = false) :
    ∃ t, step s = .next t ∧ t.run = .stuck ∧ t.regs = s.regs ∧ t.ip = s.ip ∧ t.out = s.out ∧
      (s.platform.otherMasters = false ∨ s.pins.masterStores = [] → t.mem = s.mem) := by
  obtain ⟨hrun, hregs, hip, hout⟩ := s.sample.settle_frame s.sample
  refine ⟨_, step_stuck h hr hd, hrun.trans h, hregs, hip, hout, fun hq => ?_⟩
  rw [State.settle_quiet (State.sample_masterOps hq), State.sample_mem_quiet hq]

/-- Settles O11: the stores by the laws of `State.writeWord`, the reads by how many of other masters'
operations `State.passed` counts at their bus times, the waiting by what the step has stored. -/
theorem wordsOnTheBus : Obligations.WordsOnTheBus := by
  refine ⟨fun s a v => ?_, fun s hs hb hh => ?_, fun s w reg m h ha => exec_movRegRm_stuck h ha,
    fun s w reg m hs h hk => exec_movRmReg_silent reg hs h hk,
    fun s h hr hd => step_stuck_frame h hr hd⟩
  · exact ⟨fun h => ⟨State.readByte_writeWord_low v h, State.readByte_writeWord_high v h,
        State.readWord_writeWord_same v (State.isRam_two h).1 (State.isRam_two h).2⟩,
      fun k h => State.byteAt_writeWord_of_not_ram h a v, s.sameMemoryBut_writeWord a v,
      State.wf_writeWord a v, s.writeWord_cells a v⟩
  · have h : s.freshBus := ⟨hs, hb, hh⟩
    refine ⟨s.passedRead, s.passedHalf, fun i => ⟨s.passedRead_bounds i,
      fun hl => State.passedRead_locked hl i, s.passed_halves (by omega), fun a hk => ?_⟩⟩
    have hw := State.lockedWord_of_freshBus h hk i
    exact ⟨State.busByte_of_freshBus h hk i a, hw a, hw a, hw (a + 2), hw (a + 4),
      State.busWord_of_freshBus h hk i a⟩

end Sys2Proof.Machine
end

section
/-! PROOFS. PUSH and the flags word. -/

namespace Sys2Proof.Machine

/-! ## Push16 (R16, R210, R372) -/

/-- A word may be pushed where there is room for one. -/
theorem State.push_of_pushOk {s : State} (h : s.pushOk 1 = true) (v : Word) :
    s.push v = .ok (s.pushRaw v) := by
  rw [State.push_eq_ok]
  refine ⟨rfl, ?_⟩
  cases hp : s.msw.pe with
  | true => simpa [State.pushOk, hp, SegReg.room, SegReg.pushAdmitted] using h
  | false => simpa [State.pushOk, hp] using h

/-- SP does not wrap between the two bytes of the word that is pushed. -/
theorem State.sp_ne_one_of_pushOk {s : State} (h : s.pushOk 1 = true) : s.regs.sp ≠ 1#16 := by
  intro h1
  cases hp : s.msw.pe <;> simp [State.pushOk, hp, SegReg.room, h1] at h

theorem linear_succ (base : Addr) {off : Word} (h : off ≠ 0xFFFF#16) :
    linear base (off + 1) = linear base off + 1 := by
  simp only [linear]
  bv_omega

/-- The bytes of the word below the top of the stack. -/
theorem State.below_one {s : State} (h : s.regs.sp ≠ 1#16) : s.below 1 = s.below 2 + 1 := by
  have hne : s.regs.sp - 2#16 ≠ 0xFFFF#16 := by bv_omega
  have hsp : s.regs.sp - 1#16 = s.regs.sp - 2#16 + 1 := by bv_omega
  rw [State.below, State.below, hsp]
  exact linear_succ _ hne

/-- Memory after a push is that after a store below the top of the stack. -/
theorem State.readByte_pushRaw (s : State) (v : Word) (b : Addr) :
    (s.pushRaw v).readByte b = (s.writeWord (s.below 2) v).readByte b := rfl

/-- A word pushed is below the old top of the stack, and no other byte changes. -/
theorem State.pushed_pushRaw {s : State} (h : s.regs.sp ≠ 1#16) (v : Word) :
    s.pushed (s.pushRaw v) [v] := by
  refine ⟨by simp, fun i hi hram => ?_, fun b hb => ?_⟩
  · obtain rfl : i = 0 := by simpa using hi
    obtain ⟨h0, h1⟩ := State.isRam_two hram
    simp only [State.readWord, State.readByte_pushRaw]
    exact State.readWord_writeWord_same v h0 h1
  · have hhi := hb 0 (by simp)
    rw [Nat.zero_add, State.below_one h] at hhi
    rw [State.readByte_pushRaw]
    exact State.readByte_writeWord_ne v (hb 1 (by simp)) hhi

theorem Regs.onlyWord_sp (r : Regs) (v : Word) : r.onlyWord { r with sp := v } .sp v :=
  ⟨rfl, fun m hm => (r.get_set .sp m v).trans (if_neg hm)⟩

theorem State.sameElse_store (s : State) (r : SReg) (off : Word) (w : Width) (v : Word) :
    s.sameElse (s.store r off w v) := by cases w <;> rfl

theorem State.sameElse_setSp {s t : State} (h : s.sameElse t) (v : Word) :
    s.sameElse (t.setSp v) := by
  unfold State.sameElse at h ⊢
  rw [h]
  rfl

theorem State.sameElse_pushRaw (s : State) (v : Word) : s.sameElse (s.pushRaw v) :=
  State.sameElse_setSp (s.sameElse_store .ss (s.regs.sp - 2) .word v) _

/-- What an instruction that pushes one word and does nothing else leaves. -/
theorem exec_of_push {s : State} {i : Instr} {v : Word} (h : s.pushOk 1 = true)
    (hi : exec i s = s.finish (s.push v)) :
    ∃ t, exec i s = .next t ∧ s.pushed t [v] ∧ s.regs.onlyWord t.regs .sp (s.regs.sp - 2) ∧
      t.flags = s.flags ∧ s.sameElse t :=
  ⟨s.pushRaw v, by rw [hi, State.push_of_pushOk h, State.finish_ok],
    State.pushed_pushRaw (State.sp_ne_one_of_pushOk h) v, s.regs.onlyWord_sp _, s.pushRaw_flags v,
    s.sameElse_pushRaw v⟩

/-! ## The flags word (R41 to R45) -/

theorem Flags.toWord_bits (f : Flags) :
    f.toWord.getLsbD 0 = f.cf ∧ f.toWord.getLsbD 1 = true ∧ f.toWord.getLsbD 2 = f.pf ∧
    f.toWord.getLsbD 3 = false ∧ f.toWord.getLsbD 4 = f.af ∧ f.toWord.getLsbD 5 = false ∧
    f.toWord.getLsbD 6 = f.zf ∧ f.toWord.getLsbD 7 = f.sf ∧ f.toWord.getLsbD 8 = f.tf ∧
    f.toWord.getLsbD 9 = f.intf ∧ f.toWord.getLsbD 10 = f.df ∧ f.toWord.getLsbD 11 = f.of ∧
    f.toWord.getLsbD 14 = f.nt ∧ f.toWord.getLsbD 15 = false := by
  simp only [Flags.toWord, BitVec.getLsbD_append]
  simp

theorem Flags.toWord_iopl (f : Flags) : f.toWord.extractLsb' 12 2 = f.iopl := by
  apply BitVec.eq_of_getLsbD_eq
  intro i hi
  simp only [Flags.toWord, BitVec.getLsbD_extractLsb', BitVec.getLsbD_append]
  interval_cases i <;> simp

theorem Flags.ofWord_toWord (f : Flags) : Flags.ofWord f.toWord = f := by
  obtain ⟨cf, -, pf, -, af, -, zf, sf, tf, intf, df, of, nt, -⟩ := f.toWord_bits
  simp only [Flags.ofWord, cf, pf, af, zf, sf, tf, intf, df, of, nt, f.toWord_iopl]

/-! ## The instructions that push a word -/

theorem exec_pushRm (rm : RM) (s : State) : exec (.pushRm rm) s = execPushRm rm s := rfl

/-- PUSH r/m reads its operand before SP moves (R349). -/
theorem exec_pushRm_of_ready {s : State} {rm : RM} (h : s.rmReady .read .word rm = true) :
    exec (.pushRm rm) s = s.finish (s.push (s.rmValue .word rm)) := by
  rw [exec_pushRm, execPushRm, State.readRM_of_ready h, Exec.ok_bind]

theorem exec_pushReg (reg : RegNum) (s : State) :
    exec (.pushReg reg) s = s.finish (s.push (s.regs.get (reg16Of reg))) := rfl

theorem exec_pushSreg (r : SReg) (s : State) :
    exec (.pushSreg r) s = s.finish (s.push (s.seg r).sel) := rfl

theorem exec_pushImm (imm : SImm) (s : State) :
    exec (.pushImm imm) s = s.finish (s.push imm.value) := rfl

theorem exec_pushf (s : State) : exec .pushf s = s.finish (s.push s.flags.toWord) := rfl

/-- What the listed instructions push, by the form of the operand (R349 to R351, R353, R370). -/
theorem exec_pushes {s : State} {i : Instr} {v : Word}
    (h : (∃ rm, i = .pushRm rm ∧ s.rmReady .read .word rm = true ∧ v = s.rmValue .word rm) ∨
      (∃ reg, i = .pushReg reg ∧ v = s.regs.get (reg16Of reg)) ∨
      (∃ r, i = .pushSreg r ∧ v = (s.seg r).sel) ∨
      (∃ imm, i = .pushImm imm ∧ v = imm.value) ∨
      (i = .pushf ∧ v = s.flags.toWord)) : exec i s = s.finish (s.push v) := by
  obtain ⟨rm, rfl, hr, rfl⟩ | ⟨reg, rfl, rfl⟩ | ⟨r, rfl, rfl⟩ | ⟨imm, rfl, rfl⟩ | ⟨rfl, rfl⟩ := h
  · exact exec_pushRm_of_ready hr
  · exact exec_pushReg reg s
  · exact exec_pushSreg r s
  · exact exec_pushImm imm s
  · exact exec_pushf s

/-- Settles O15: each form is one push of its operand's value. -/
theorem pushesAndTheFlagsWord : Obligations.PushesAndTheFlagsWord := by
  refine ⟨fun s h i v hi => exec_of_push h (exec_pushes hi), fun f => ?_⟩
  obtain ⟨b0, b1, b2, b3, b4, b5, b6, b7, b8, b9, b10, b11, b14, b15⟩ := f.toWord_bits
  exact ⟨b0, b1, b2, b3, b4, b5, b6, b7, b8, b9, b10, b11, f.toWord_iopl, b14, b15,
    f.ofWord_toWord⟩

end Sys2Proof.Machine
end

section
/-! PROOFS. What no operation changes: the control registers, and the invariant of the machine. -/

namespace Sys2Proof.Machine

/-! ## The relation from a state to one an operation leads to -/

/-- What LMSW, LGDT and LIDT alone write, TS apart (R53, R55, R56). -/
def State.control (s : State) : Bool × Bool × Bool × TableReg × TableReg :=
  (s.msw.pe, s.msw.mp, s.msw.em, s.gdtr, s.idtr)

/-- What the invariant says of real address mode, memory apart. -/
def State.privileged (s : State) :
    BitVec 2 × BitVec 2 × Bool × SegReg × SegReg × SegReg × SegReg :=
  (s.cpl, s.flags.iopl, s.flags.nt, s.es, s.cs, s.ss, s.ds)

/-- IOPL and NT are as they were: what a computation does to FLAGS (R46). -/
def Flags.sameLevel (f g : Flags) : Prop := g.iopl = f.iopl ∧ g.nt = f.nt

/-- From s to t the control registers keep their values, so do IOPL and NT in real address mode (R46),
and the invariant is kept. -/
structure State.Keeps (s t : State) : Prop where
  control : t.control = s.control
  level : s.msw.pe = false → s.flags.sameLevel t.flags
  inv : s.inv = true → t.inv = true

theorem State.inv_iff (s : State) :
    s.inv = true ↔ Memory.wf s.mem = true ∧ (s.msw.pe = true ∨
      s.cpl = 0#2 ∧ s.flags.iopl = 0#2 ∧ s.flags.nt = false ∧ s.es.isReal = true ∧
        s.cs.isReal = true ∧ s.ss.isReal = true ∧ s.ds.isReal = true) := by
  simp [State.inv, and_assoc]

theorem State.wf_of_inv {s : State} (h : s.inv = true) : Memory.wf s.mem = true :=
  (s.inv_iff.1 h).1

theorem State.control_eq_iff (s t : State) : t.control = s.control ↔
    t.msw.pe = s.msw.pe ∧ t.msw.mp = s.msw.mp ∧ t.msw.em = s.msw.em ∧ t.gdtr = s.gdtr ∧
      t.idtr = s.idtr := by
  simp [State.control]

theorem State.pe_of_control {s t : State} (h : t.control = s.control) : t.msw.pe = s.msw.pe :=
  congrArg Prod.fst h

namespace State.Keeps

variable {s t u : State}

theorem refl (s : State) : s.Keeps s := ⟨rfl, fun _ => ⟨rfl, rfl⟩, id⟩

theorem pe (h : s.Keeps t) : t.msw.pe = s.msw.pe := State.pe_of_control h.control

theorem trans (h : s.Keeps t) (h' : t.Keeps u) : s.Keeps u where
  control := h'.control.trans h.control
  level hp :=
    have ⟨hiopl, hnt⟩ := h.level hp
    have ⟨hiopl', hnt'⟩ := h'.level (h.pe.trans hp)
    ⟨hiopl'.trans hiopl, hnt'.trans hnt⟩
  inv hi := h'.inv (h.inv hi)

theorem prot (h : s.Keeps t) (hp : s.msw.pe = true) : t.msw.pe = true := h.pe.trans hp

/-- An update of memory and of what the invariant does not speak of. -/
theorem of_mem (hc : t.control = s.control) (hr : t.privileged = s.privileged)
    (hm : Memory.wf s.mem = true → Memory.wf t.mem = true) : s.Keeps t := by
  have hp := State.pe_of_control hc
  simp only [State.privileged, Prod.mk.injEq] at hr
  obtain ⟨hcpl, hiopl, hnt, hes, hcs, hss, hds⟩ := hr
  refine ⟨hc, fun _ => ⟨hiopl, hnt⟩, fun hi => ?_⟩
  rw [State.inv_iff] at hi ⊢
  rw [hp, hcpl, hiopl, hnt, hes, hcs, hss, hds]
  exact ⟨hm hi.1, hi.2⟩

/-- An update of what the invariant does not speak of. -/
theorem of_same (hc : t.control = s.control) (hr : t.privileged = s.privileged)
    (hm : t.mem = s.mem) : s.Keeps t := of_mem hc hr fun h => hm ▸ h

/-- In protected mode the invariant speaks of memory alone. -/
theorem of_prot (hp : s.msw.pe = true) (hc : t.control = s.control)
    (hm : Memory.wf s.mem = true → Memory.wf t.mem = true) : s.Keeps t :=
  have hp' := (State.pe_of_control hc).trans hp
  ⟨hc, fun h => absurd hp (by simp [h]), fun hi => t.inv_iff.2 ⟨hm (State.wf_of_inv hi), .inl hp'⟩⟩

/-- The memory of a state that is led to, put into the state before. -/
theorem putMem (h : s.Keeps t) :
    s.Keeps { s with mem := t.mem, stale := t.stale, stores := t.stores } :=
  have hm (hi : s.inv = true) : Memory.wf t.mem = true := State.wf_of_inv (h.inv hi)
  ⟨rfl, fun _ => ⟨rfl, rfl⟩, fun hi => (State.inv_iff _).2 ⟨hm hi, (s.inv_iff.1 hi).2⟩⟩

end State.Keeps

/-! ## Each named update -/

section
variable (s : State)

theorem State.keeps_setReg (w : Width) (n : RegNum) (v : Word) : s.Keeps (s.setReg w n v) := by
  cases w <;> exact .of_same rfl rfl rfl

theorem State.keeps_setAx (v : Word) : s.Keeps (s.setAx v) := .of_same rfl rfl rfl

theorem State.keeps_setCx (v : Word) : s.Keeps (s.setCx v) := .of_same rfl rfl rfl

theorem State.keeps_setDx (v : Word) : s.Keeps (s.setDx v) := .of_same rfl rfl rfl

theorem State.keeps_setSp (v : Word) : s.Keeps (s.setSp v) := .of_same rfl rfl rfl

theorem State.keeps_setBp (v : Word) : s.Keeps (s.setBp v) := .of_same rfl rfl rfl

theorem State.keeps_stepSi (w : Width) : s.Keeps (s.stepSi w) := .of_same rfl rfl rfl

theorem State.keeps_stepDi (w : Width) : s.Keeps (s.stepDi w) := .of_same rfl rfl rfl

theorem State.keeps_setZf (z : Bool) : s.Keeps (s.setZf z) := .of_same rfl rfl rfl

theorem State.keeps_hold (d : Desc) : s.Keeps (s.hold d) := .of_same rfl rfl rfl

theorem State.keeps_holdAccessed (d : Desc) : s.Keeps (s.holdAccessed d) := by
  unfold State.holdAccessed
  split
  · exact .refl s
  · exact s.keeps_hold d

theorem State.keeps_release (t : State) : s.Keeps (s.release t) := .of_same rfl rfl rfl

theorem State.keeps_entering : s.Keeps s.entering := .of_same rfl rfl rfl

theorem State.keeps_flushQueue : s.Keeps s.flushQueue := .of_same rfl rfl rfl

theorem State.keeps_jump (target : Word) : s.Keeps (s.jump target) := .of_same rfl rfl rfl

theorem State.keeps_emit (e : Event) : s.Keeps (s.emit e) := .of_same rfl rfl rfl

theorem State.keeps_enterStuck : s.Keeps s.enterStuck := .of_same rfl rfl rfl

theorem State.keeps_enterShutdown : s.Keeps s.enterShutdown := .of_same rfl rfl rfl

theorem State.keeps_afterEntry (kind : IntKind) (n : Nat) : s.Keeps (s.afterEntry kind n) :=
  .of_same rfl rfl rfl

theorem State.keeps_inhibitAfter (r : SReg) : s.Keeps (s.inhibitAfter r) := .of_same rfl rfl rfl

theorem State.keeps_setStores (l : List Store) : s.Keeps (s.setStores l) := .of_same rfl rfl rfl

theorem State.keeps_lockedSince (t : State) (n : Nat) : s.Keeps (s.lockedSince t n) :=
  s.keeps_setStores _

theorem State.keeps_writeByte (a : Addr) (v : Byte) : s.Keeps (s.writeByte a v) :=
  .of_mem rfl rfl (State.wf_writeByte a v)

theorem State.keeps_writeWord (a : Addr) (v : Word) : s.Keeps (s.writeWord a v) := by
  unfold State.writeWord
  exact ((s.keeps_writeByte a _).trans (State.keeps_writeByte _ _ _)).trans
    (State.keeps_setStores _ _)

theorem State.keeps_store (r : SReg) (off : Word) (w : Width) (v : Word) :
    s.Keeps (s.store r off w v) := by
  cases w
  · exact s.keeps_writeByte _ _
  · exact s.keeps_writeWord _ _

theorem State.keeps_rmPut (w : Width) (rm : RM) (v : Word) : s.Keeps (s.rmPut w rm v) := by
  cases rm
  · exact s.keeps_setReg w _ v
  · exact s.keeps_store _ _ w v

theorem State.keeps_pushRaw (v : Word) : s.Keeps (s.pushRaw v) :=
  (s.keeps_writeWord _ v).trans (State.keeps_setSp _ _)

theorem State.keeps_setAccessed (a : Addr) (d : Desc) : s.Keeps (s.setAccessed a d) := by
  unfold State.setAccessed
  split
  · exact .refl s
  · exact (s.keeps_writeByte _ _).trans (State.keeps_lockedSince _ _ _)

/-- A bus operation at a port is no store to memory. -/
theorem State.keeps_ioRead (port : Word) (w : Width) : s.Keeps (s.ioRead port w).2 := by
  unfold State.ioRead
  split <;> exact .of_same rfl rfl rfl

theorem State.keeps_ioWrite (port : Word) (w : Width) (v : Word) :
    s.Keeps (s.ioWrite port w v) := by
  unfold State.ioWrite
  split <;> exact .of_same rfl rfl rfl

end

theorem State.keeps_writeWords (vs : List Word) (s : State) (a : Addr) :
    s.Keeps (s.writeWords vs a) := by
  induction vs generalizing s a with
  | nil => exact .refl s
  | cons v vs ih => exact (s.keeps_writeWord a v).trans (ih _ _)

theorem State.keeps_pushAllRaw (vs : List Word) (s : State) : s.Keeps (s.pushAllRaw vs) := by
  induction vs generalizing s with
  | nil => exact .refl s
  | cons v vs ih => exact (s.keeps_pushRaw v).trans (ih _)

theorem State.keeps_storeWords (vs : List Word) (s : State) (r : SReg) (off : Word) :
    s.Keeps (s.storeWords r off vs) := by
  induction vs generalizing s off with
  | nil => exact .refl s
  | cons v vs ih => exact (s.keeps_store r off .word v).trans (ih _ _)

theorem State.keeps_saveTask (s : State) (kind : SwitchKind) (retIp : Word) :
    s.Keeps (s.saveTask kind retIp) := State.keeps_writeWords _ s _

theorem State.keeps_clearBusy (s : State) (kind : SwitchKind) : s.Keeps (s.clearBusy kind) := by
  unfold State.clearBusy
  split
  · exact (s.keeps_writeByte _ _).trans (State.keeps_lockedSince _ _ _)
  · exact .refl s

theorem State.keeps_markBusy (s : State) (kind : SwitchKind) (a : Addr) (d : Desc) :
    s.Keeps (s.markBusy kind a d) := by
  unfold State.markBusy
  split
  · exact .refl s
  · exact (s.keeps_writeByte _ _).trans (State.keeps_lockedSince _ _ _)

theorem State.keeps_setFlags {s : State} {f : Flags} (h : s.flags.sameLevel f) :
    s.Keeps (s.setFlags f) := by
  obtain ⟨hiopl, hnt⟩ := h
  refine .of_same rfl ?_ rfl
  simp only [State.privileged, State.setFlags, hiopl, hnt]

/-- A segment register as real address mode has it may be written in either mode. -/
theorem State.keeps_setSeg {s : State} {v : SegReg} (r : SReg) (h : v.isReal = true) :
    s.Keeps (s.setSeg r v) := by
  refine ⟨by cases r <;> rfl, fun _ => by cases r <;> exact ⟨rfl, rfl⟩, fun hi => ?_⟩
  rw [State.inv_iff] at hi ⊢
  obtain ⟨hm, hp | ⟨hcpl, hiopl, hnt, hes, hcs, hss, hds⟩⟩ := hi
  · cases r <;> exact ⟨hm, .inl hp⟩
  · cases r
    · exact ⟨hm, .inr ⟨hcpl, hiopl, hnt, h, hcs, hss, hds⟩⟩
    · exact ⟨hm, .inr ⟨hcpl, hiopl, hnt, hes, h, hss, hds⟩⟩
    · exact ⟨hm, .inr ⟨hcpl, hiopl, hnt, hes, hcs, h, hds⟩⟩
    · exact ⟨hm, .inr ⟨hcpl, hiopl, hnt, hes, hcs, hss, h⟩⟩

theorem realSeg_isReal (sel : Word) (base : Addr) : (realSeg sel base).isReal = true := by
  simp [SegReg.isReal, realSeg]

theorem State.keeps_loadReal (s : State) (r : SReg) (sel : Word) : s.Keeps (s.loadReal r sel) :=
  State.keeps_setSeg r (realSeg_isReal _ _)

theorem State.keeps_realFar (s : State) (sel off : Word) : s.Keeps (s.realFar sel off) :=
  (s.keeps_loadReal .cs sel).trans (State.keeps_jump _ off)

/-! ## Updates of protected mode -/

section
variable {s : State} (hp : s.msw.pe = true)
include hp

theorem State.keeps_setFlags_prot (f : Flags) : s.Keeps (s.setFlags f) := .of_prot hp rfl id

theorem State.keeps_setSeg_prot (r : SReg) (v : SegReg) : s.Keeps (s.setSeg r v) := by
  cases r <;> exact .of_prot hp rfl id

theorem State.keeps_loadCs (sel : Word) (d : Addr × Desc) : s.Keeps (s.loadCs sel d) :=
  have h := s.keeps_setAccessed d.1 d.2
  h.trans (.of_prot (h.prot hp) rfl id)

theorem State.keeps_putStack (sel : Word) (d : Addr × Desc) : s.Keeps (s.putStack sel d) :=
  have h := s.keeps_setAccessed d.1 d.2
  h.trans (State.keeps_setSeg_prot (h.prot hp) .ss _)

theorem State.keeps_putData (r : SReg) (sel : Word) (d : Option (Addr × Desc)) :
    s.Keeps (s.putData r sel d) := by
  cases d with
  | none => exact State.keeps_setSeg_prot hp r _
  | some d =>
    have h := s.keeps_setAccessed d.1 d.2
    exact h.trans (State.keeps_setSeg_prot (h.prot hp) r _)

theorem State.keeps_switchStack (k : Word × Word × Addr × Desc) : s.Keeps (s.switchStack k) :=
  (State.keeps_putStack hp k.1 k.2.2).trans (State.keeps_setSp _ _)

theorem State.keeps_linkBack (kind : SwitchKind) (base : Addr) (oldTr : Word) :
    s.Keeps (s.linkBack kind base oldTr) := by
  unfold State.linkBack
  split
  · exact (State.keeps_setFlags_prot hp { s.flags with nt := true }).trans
      (State.keeps_writeWord _ base oldTr)
  · exact .refl s

/-- Of MSW a task switch writes TS alone (R249). -/
theorem State.keeps_enterTask (kind : SwitchKind) (tsel : Word) (t : Desc) :
    s.Keeps (s.enterTask kind tsel t) := by
  have hregs : s.Keeps { s with
      tr := { sel := tsel, base := t.base, limit := t.limit, loaded := true }
      regs := s.tssRegs t.base
      flags := Flags.ofWord (s.tssWord t.base 16) } := .of_prot hp rfl id
  have hjump := hregs.trans (State.keeps_jump _ (s.tssWord t.base 14))
  have hlink := hjump.trans (State.keeps_linkBack (hjump.prot hp) kind t.base s.tr.sel)
  have hflush := hlink.trans (State.keeps_flushQueue _)
  exact hflush.trans (.of_prot (hflush.prot hp) rfl id)

end

end Sys2Proof.Machine
end

section
/-! PROOFS. What every operation that may raise leads to, also where it stops. -/

namespace Sys2Proof.Machine

/-! ## Operations that may raise -/

/-- Every state that goes on from a stop is led to from s. -/
def Stop.Keeps (s : State) : Stop → Prop
  | .exc _ _ left => s.Keeps (left.stateOr s)
  | .shutdown t => s.Keeps t
  | .stuck t => s.Keeps t
  | .refuse _ => True

/-- An operation that began in s answers with Q, or stops in a state that is led to from s. -/
def Leads {α : Type} (s : State) (Q : α → Prop) : Exec α → Prop
  | .ok a => Q a
  | .error e => e.Keeps s

/-- An operation that only reads, or raises with nothing changed. -/
abbrev Reads {α : Type} (s : State) (x : Exec α) : Prop := Leads s (fun _ => True) x

/-- A stop of a part is a stop of the whole. -/
theorem Stop.Keeps.after {s t : State} {e : Stop} (h : s.Keeps t) (he : e.Keeps t) :
    e.Keeps s := by
  cases e with
  | exc v c left =>
    cases left with
    | unchanged => exact .refl s
    | partly u => exact h.trans he
    | inNewTask u => exact h.trans he
  | shutdown u => exact h.trans he
  | stuck u => exact h.trans he
  | refuse r => trivial

namespace Leads

variable {α β : Type} {s t : State} {P Q : α → Prop} {R : β → Prop} {x : Exec α} {f : α → Exec β}

theorem bind (hx : Leads s P x) (hf : ∀ a, P a → Leads s R (f a)) : Leads s R (x >>= f) := by
  cases x with
  | ok a => exact hf a hx
  | error e => exact hx

theorem read (hx : Reads s x) (hf : ∀ a, Leads s R (f a)) : Leads s R (x >>= f) :=
  hx.bind fun a _ => hf a

theorem ite {c : Prop} [Decidable c] {x y : Exec α} (hx : c → Leads s Q x)
    (hy : ¬c → Leads s Q y) : Leads s Q (if c then x else y) := by
  split
  · exact hx ‹_›
  · exact hy ‹_›

/-- A value that is read in one of two ways. -/
theorem readIte {c : Prop} [Decidable c] {x y : Exec α} (hx : Reads s x) (hy : Reads s y)
    (hf : ∀ a, Leads s R (f a)) : Leads s R (if c then x >>= f else y >>= f) := by
  split
  · exact hx.read hf
  · exact hy.read hf

theorem mono (hx : Leads s P x) (h : ∀ a, P a → Q a) : Leads s Q x := by
  cases x with
  | ok a => exact h a hx
  | error e => exact hx

theorem of_eq {y : Exec α} (hx : Leads s Q x) (h : x = y) : Leads s Q y := h ▸ hx

/-- An operation that begins in a state led to from s. -/
theorem after (h : s.Keeps t) (hx : Leads t Q x) : Leads s Q x := by
  cases x with
  | ok a => exact hx
  | error e => exact Stop.Keeps.after h hx

theorem trans {y : Exec State} (h : s.Keeps t) (hy : Leads t t.Keeps y) : Leads s s.Keeps y :=
  (hy.mono fun _ hu => h.trans hu).after h

end Leads

theorem leads_raise {α : Type} {Q : α → Prop} (s : State) (v : Nat) (code : Word) :
    Leads s Q (raise v code) := State.Keeps.refl s

theorem reads_require (s : State) (ok : Bool) (v : Nat) (code : Word) :
    Reads s (require ok v code) := by
  cases ok
  · exact leads_raise s v code
  · trivial

theorem leads_stuck {α : Type} {Q : α → Prop} (s : State) : Leads s Q (.error (.stuck s)) :=
  State.Keeps.refl s

/-! ## Reading: the operations that answer a value -/

section
variable (s : State)

theorem reads_await (a : Addr) (n : Nat) : Reads s (s.await a n) := by
  unfold State.await
  split
  · trivial
  · exact leads_stuck s

theorem reads_check (a : Access) (r : SReg) (off : Word) (n : Nat) : Reads s (s.check a r off n) :=
  reads_require s _ _ _

theorem reads_checkWords (a : Access) (r : SReg) (off : Word) (k : Nat) :
    Reads s (s.checkWords a r off k) := reads_require s _ _ _

theorem reads_fetchAt (r : SReg) (off : Word) (w : Width) (i : Nat) :
    Reads s (s.fetchAt r off w i) := (reads_await s _ _).read fun _ => trivial

theorem reads_memRead (r : SReg) (off : Word) (w : Width) (i : Nat) :
    Reads s (s.memRead r off w i) :=
  (reads_check s _ _ _ _).read fun _ => reads_fetchAt s _ _ _ _

theorem reads_readPointer (r : SReg) (off : Word) : Reads s (s.readPointer r off) :=
  (reads_checkWords s _ _ _ _).read fun _ => (reads_fetchAt s _ _ _ _).read fun _ =>
    (reads_fetchAt s _ _ _ _).read fun _ => trivial

theorem reads_checkRM (a : Access) (w : Width) (rm : RM) : Reads s (s.checkRM a w rm) := by
  cases rm
  · trivial
  · exact reads_check s _ _ _ _

theorem reads_operand (a : Access) (w : Width) (rm : RM) : Reads s (s.operand a w rm) := by
  refine (reads_checkRM s a w rm).read fun _ => ?_
  split
  · trivial
  · exact leads_stuck s

theorem reads_readRM (w : Width) (rm : RM) : Reads s (s.readRM w rm) := reads_operand s _ _ _

theorem reads_popWord (sp : Word) : Reads s (s.popWord sp) :=
  (reads_require s _ _ _).read fun _ => reads_fetchAt s _ _ _ _

theorem reads_stackTop : Reads s s.stackTop := reads_popWord s _

theorem reads_awaitStack (k : Nat) : Reads s (s.awaitStack k) := by
  unfold State.awaitStack
  split
  · trivial
  · exact leads_stuck s

theorem reads_readTable (m : Mem) : Reads s (s.readTable m) :=
  (reads_checkWords s _ _ _ _).read fun _ => (reads_fetchAt s _ _ _ _).read fun _ =>
    (reads_fetchAt s _ _ _ _).read fun _ => (reads_fetchAt s _ _ _ _).read fun _ => trivial

theorem reads_checkCpl0 : Reads s s.checkCpl0 := reads_require s _ _ _

theorem reads_checkIopl : Reads s s.checkIopl := reads_require s _ _ _

theorem reads_checkProt : Reads s s.checkProt := reads_require s _ _ _

/-- What follows the test of the mode is run in protected mode alone. -/
theorem leads_checkProt {β : Type} {Q : β → Prop} {f : Unit → Exec β}
    (hf : s.msw.pe = true → Leads s Q (f ())) : Leads s Q (s.checkProt >>= f) := by
  unfold State.checkProt
  cases hp : s.msw.pe
  · exact leads_raise s _ _
  · exact hf hp

theorem reads_fetchDesc (i : Nat) (a : Addr) : Reads s (s.fetchDesc i a) :=
  (reads_await s _ _).read fun _ => trivial

theorem reads_descriptor (i : Nat) (sel : Word) (v : Nat) (code : Word) :
    Reads s (s.descriptor i sel v code) := by
  unfold State.descriptor
  split
  · exact (reads_fetchDesc s _ _).read fun _ => trivial
  · exact leads_raise s v code

theorem reads_dataDesc (i : Nat) (cpl : BitVec 2) (sel : Word) (bad : Nat) (ext : Word) :
    Reads s (s.dataDesc i cpl sel bad ext) := by
  unfold State.dataDesc
  split
  · trivial
  · exact (reads_descriptor s _ _ _ _).read fun _ => (reads_require s _ _ _).read fun _ =>
      (reads_require s _ _ _).read fun _ => (reads_require s _ _ _).read fun _ =>
      (reads_require s _ _ _).read fun _ => trivial

theorem reads_stackDesc (i : Nat) (cpl : BitVec 2) (sel : Word) (bad : Nat) (ext : Word) :
    Reads s (s.stackDesc i cpl sel bad ext) :=
  (reads_require s _ _ _).read fun _ => (reads_descriptor s _ _ _ _).read fun _ =>
    (reads_require s _ _ _).read fun _ => (reads_require s _ _ _).read fun _ =>
    (reads_require s _ _ _).read fun _ => (reads_require s _ _ _).read fun _ => trivial

theorem reads_systemDesc (sel : Word) (type : Nat) : Reads s (s.systemDesc sel type) :=
  (reads_require s _ _ _).read fun _ => (reads_descriptor s _ _ _ _).read fun _ =>
    (reads_require s _ _ _).read fun _ => (reads_require s _ _ _).read fun _ => trivial

theorem reads_probe (sel : Word) : Reads s (s.probe sel) := by
  unfold State.probe
  split
  · trivial
  · split
    · trivial
    · exact (reads_fetchDesc s _ _).read fun _ => trivial

theorem reads_awaitBusy (kind : SwitchKind) : Reads s (s.awaitBusy kind) := by
  unfold State.awaitBusy
  split
  · exact reads_await s _ _
  · trivial

theorem reads_namesLocalTss (sel : Word) : Reads s (s.namesLocalTss sel) := by
  unfold State.namesLocalTss
  split
  · exact (reads_fetchDesc s _ _).read fun _ => trivial
  · trivial

theorem reads_localTaskVector (tsel : Word) (gate : Bool) (bad : Nat) :
    Reads s (s.localTaskVector tsel gate bad) := by
  unfold State.localTaskVector
  split
  · exact (reads_namesLocalTss s _).read fun _ => trivial
  · trivial

theorem reads_taskDesc (tsel : Word) (kind : SwitchKind) (gate : Bool) (ext : Word) :
    Reads s (s.taskDesc tsel kind gate ext) :=
  (reads_require s _ _ _).read fun _ => (reads_localTaskVector s _ _ _).read fun _ =>
    (reads_require s _ _ _).read fun _ => (reads_descriptor s _ _ _ _).read fun _ =>
    (reads_require s _ _ _).read fun _ => (reads_require s _ _ _).read fun _ =>
    (reads_require s _ _ _).read fun _ => trivial

theorem reads_checkTr (ext : Word) : Reads s (s.checkTr ext) := by
  unfold State.checkTr
  split
  · exact reads_require s _ _ _
  · trivial

theorem reads_innerStack (level : BitVec 2) (ext : Word) : Reads s (s.innerStack level ext) :=
  (reads_require s _ _ _).read fun _ => (reads_await s _ _).read fun _ =>
    (reads_stackDesc s _ _ _ _ _).read fun _ => trivial

theorem reads_gateTarget (csel ext : Word) : Reads s (s.gateTarget csel ext) :=
  (reads_require s _ _ _).read fun _ => (reads_descriptor s _ _ _ _).read fun _ =>
    (reads_require s _ _ _).read fun _ => (reads_require s _ _ _).read fun _ =>
    (reads_require s _ _ _).read fun _ => trivial

theorem reads_checkGate (sel : Word) (g : Desc) : Reads s (s.checkGate sel g) :=
  (reads_require s _ _ _).read fun _ => reads_require s _ _ _

theorem reads_returnDesc (sel : Word) : Reads s (s.returnDesc sel) :=
  (reads_require s _ _ _).read fun _ => (reads_descriptor s _ _ _ _).read fun _ =>
    (reads_require s _ _ _).read fun _ => (reads_require s _ _ _).read fun _ =>
    (reads_require s _ _ _).read fun _ => (reads_require s _ _ _).read fun _ => trivial

theorem reads_backLink : Reads s s.backLink := by
  unfold State.backLink
  split
  · exact (reads_require s _ _ _).read fun _ => (reads_await s _ _).read fun _ => trivial
  · trivial

theorem reads_awaitPort (port : Nat) (w : Width) : Reads s (s.awaitPort port w) := by
  unfold State.awaitPort
  split
  · trivial
  · exact leads_stuck s

theorem reads_checkEsc (op : BitVec 6) (rm : RM) : Reads s (s.checkEsc op rm) := by
  cases rm
  · trivial
  · exact reads_require s _ _ _

end

theorem reads_params (n : Nat) (s : State) (i : Nat) (off : Word) :
    Reads s (s.params i n off) := by
  induction n generalizing i off with
  | zero => trivial
  | succ n ih =>
    exact (reads_memRead s _ _ _ _).read fun _ => (ih _ _).read fun _ => trivial

/-! ## Writing: the operations that answer a state -/

section
variable (s : State)

theorem leads_memWrite (r : SReg) (off : Word) (w : Width) (v : Word) :
    Leads s s.Keeps (s.memWrite r off w v) :=
  (reads_check s _ _ _ _).read fun _ => s.keeps_store r off w v

theorem leads_writeRM (w : Width) (rm : RM) (v : Word) : Leads s s.Keeps (s.writeRM w rm v) :=
  (reads_checkRM s _ _ _).read fun _ => s.keeps_rmPut w rm v

theorem leads_push (v : Word) : Leads s s.Keeps (s.push v) := by
  unfold State.push
  split
  · split
    · exact s.keeps_pushRaw v
    · exact leads_raise s _ _
  · split
    · exact State.Keeps.refl s
    · exact s.keeps_pushRaw v

theorem leads_nearJump (target : Word) : Leads s s.Keeps (s.nearJump target) :=
  (reads_require s _ _ _).read fun _ => s.keeps_jump target

theorem leads_jumpIf (cond : Bool) (disp : Byte) : Leads s s.Keeps (s.jumpIf cond disp) := by
  cases cond
  · exact State.Keeps.refl s
  · exact leads_nearJump s _

theorem leads_loopWhile (cond : Bool) (disp : Byte) :
    Leads s s.Keeps (s.loopWhile cond disp) := by
  unfold State.loopWhile
  dsimp only
  split
  · exact (leads_nearJump s _).bind fun t ht => ht.trans (t.keeps_setCx _)
  · exact s.keeps_setCx _

theorem leads_loadSeg (r : SReg) (sel : Word) : Leads s s.Keeps (s.loadSeg r sel) := by
  unfold State.loadSeg
  split
  next hp =>
    cases r with
    | ss => exact (reads_stackDesc s _ _ _ _ _).read fun d => State.keeps_putStack hp sel d
    | _ => exact (reads_dataDesc s _ _ _ _ _).read fun d => State.keeps_putData hp _ sel d
  next => exact s.keeps_loadReal r sel

theorem leads_readPort (port : Word) (w : Width) :
    Leads s (fun r : Word × State => s.Keeps r.2) (s.readPort port w) := by
  unfold State.readPort
  split
  · refine (reads_awaitPort s _ _).read fun _ => Leads.read ?_ fun _ => s.keeps_ioRead port w
    exact (reads_awaitPort _ _ _).after (s.keeps_emit _)
  · exact (reads_awaitPort s _ _).read fun _ => s.keeps_ioRead port w

theorem leads_writePort (port : Word) (w : Width) (v : Word) :
    Leads s s.Keeps (s.writePort port w v) := by
  unfold State.writePort
  split
  · refine (reads_awaitPort s _ _).read fun _ => Leads.read ?_ fun _ => s.keeps_ioWrite port w v
    exact (reads_awaitPort _ _ _).after (s.keeps_emit _)
  · exact (reads_awaitPort s _ _).read fun _ => s.keeps_ioWrite port w v

end

theorem leads_pushAll (vs : List Word) (s : State) : Leads s s.Keeps (s.pushAll vs) := by
  induction vs generalizing s with
  | nil => exact State.Keeps.refl s
  | cons v vs ih => exact (leads_push s v).bind fun t ht => (ih t).trans ht

/-- One element of a string instruction decides for all of them. -/
theorem leads_repeated {s : State} (compares : Bool) {f : State → Exec State}
    (h : Leads s s.Keeps (f s)) : Leads s s.Keeps (s.repeated compares f) := by
  unfold State.repeated
  split
  · exact h
  · split
    · exact State.Keeps.refl s
    · refine h.bind fun t ht => ?_
      have hcx := ht.trans (t.keeps_setCx (t.regs.cx - 1))
      dsimp only
      split
      · exact hcx
      · exact hcx.trans (.of_same rfl rfl rfl)

theorem leads_inTask {α : Type} {s t : State} {Q : α → Prop} {r : Exec α} (h : s.Keeps t)
    (hr : Leads t Q r) : Leads s Q (inTask t r) := by
  unfold inTask
  split
  · exact h
  · exact hr.after h

end Sys2Proof.Machine
end

section
/-! PROOFS. What protected-mode transfers, task switches and deliveries lead to. -/

namespace Sys2Proof.Machine

/-! ## The task switch (R249) -/

section
variable {s : State} (hp : s.msw.pe = true)
include hp

theorem leads_taskCs (ext : Word) : Leads s s.Keeps (s.taskCs ext) :=
  (reads_require s _ _ _).read fun _ => (reads_descriptor s _ _ _ _).read fun d =>
    (reads_require s _ _ _).read fun _ => (reads_require s _ _ _).read fun _ =>
    (reads_require s _ _ _).read fun _ => State.keeps_loadCs hp _ d

theorem leads_taskSs (ext : Word) : Leads s s.Keeps (s.taskSs ext) :=
  (reads_stackDesc s _ _ _ _ _).read fun d => State.keeps_putStack hp _ d

theorem leads_taskData (i : Nat) (r : SReg) (ext : Word) : Leads s s.Keeps (s.taskData i r ext) :=
  (reads_dataDesc s _ _ _ _ _).read fun d => State.keeps_putData hp r _ d

end

theorem leads_taskLdt (s : State) (ext : Word) : Leads s s.Keeps (s.taskLdt ext) := by
  unfold State.taskLdt
  dsimp only
  split
  · exact State.Keeps.refl s
  · exact (reads_require s _ _ _).read fun _ => (reads_descriptor s _ _ _ _).read fun _ =>
      (reads_require s _ _ _).read fun _ => (reads_require s _ _ _).read fun _ =>
      .of_same rfl rfl rfl

/-- A part of the validation of a new task, in the state the parts before it have led to. -/
theorem leads_inTask_bind {s t : State} {r : Exec State} {f : State → Exec State} (h : s.Keeps t)
    (hr : Leads t t.Keeps r) (hf : ∀ u, s.Keeps u → Leads s s.Keeps (f u)) :
    Leads s s.Keeps (inTask t r >>= f) :=
  (leads_inTask h hr).bind fun u hu => hf u (h.trans hu)

section
variable {s : State} (hp : s.msw.pe = true)
include hp

theorem leads_validateTask (ext : Word) : Leads s s.Keeps (s.validateTask ext) :=
  leads_inTask_bind (.refl s) (leads_taskLdt s ext) fun _ h1 =>
  leads_inTask_bind h1 (leads_taskCs (h1.prot hp) ext) fun _ h2 =>
  leads_inTask_bind h2 (leads_taskSs (h2.prot hp) ext) fun _ h3 =>
  leads_inTask_bind h3 (leads_taskData (h3.prot hp) 29 .ds ext) fun _ h4 =>
  leads_inTask_bind h4 (leads_taskData (h4.prot hp) 30 .es ext) fun t h5 =>
  Leads.read (leads_inTask h5 (reads_require t _ _ _)) fun _ => h5

/-- A task switch, its failures before and after the new task is entered included. -/
theorem leads_taskSwitch (tsel : Word) (kind : SwitchKind) (gate : Bool) (ext retIp : Word) :
    Leads s s.Keeps (s.taskSwitch tsel kind gate ext retIp) := by
  refine (reads_taskDesc s _ _ _ _).read fun d => (reads_checkTr s _).read fun _ => ?_
  have hheld : s.Keeps (if kind = .iret then s else s.hold d.2) := by
    split
    · exact .refl s
    · exact s.keeps_hold d.2
  have hsaved := hheld.trans (State.keeps_saveTask _ kind retIp)
  refine Leads.read ((reads_awaitBusy _ kind).after hsaved) fun _ => ?_
  have hbusy := ((hsaved.trans (State.keeps_clearBusy _ kind)).trans
    (State.keeps_markBusy _ kind d.1 d.2)).trans (State.keeps_release _ s)
  refine Leads.read ((reads_await _ _ _).after hbusy) fun _ => ?_
  have hentered := hbusy.trans (State.keeps_enterTask (hbusy.prot hp) kind tsel d.2)
  exact ((leads_validateTask (hentered.prot hp) ext).trans hentered).bind fun t ht =>
    ht.trans t.keeps_flushQueue

/-! ## Code segments and gates (R231 to R241) -/

theorem leads_enterCode (sel off : Word) (c : Addr × Desc) (call : Bool) :
    Leads s s.Keeps (s.enterCode sel off c call) := by
  refine (reads_require s _ _ _).read fun _ => (reads_require s _ _ _).read fun _ => ?_
  have hheld := s.keeps_holdAccessed c.2
  have hpushed : s.Keeps (if call then (s.holdAccessed c.2).pushAllRaw [s.cs.sel, s.ip]
      else s.holdAccessed c.2) := by
    split
    · exact hheld.trans (State.keeps_pushAllRaw _ _)
    · exact hheld
  exact ((hpushed.trans (State.keeps_loadCs (hpushed.prot hp) _ c)).trans
    (State.keeps_jump _ off)).trans (State.keeps_release _ s)

theorem leads_innerCall (g : Desc) (c : Addr × Desc) : Leads s s.Keeps (s.innerCall g c) := by
  have hheld := s.keeps_holdAccessed c.2
  refine Leads.read ((reads_innerStack _ _ _).after hheld) fun k =>
    (reads_require s _ _ _).read fun _ => (reads_require s _ _ _).read fun _ => ?_
  have hboth := hheld.trans (State.keeps_holdAccessed _ k.2.2.2)
  refine Leads.read ((reads_params _ _ _ _).after hboth) fun ps => ?_
  have hstack := hboth.trans (State.keeps_switchStack (hboth.prot hp) k)
  exact (((hstack.trans (State.keeps_loadCs (hstack.prot hp) _ c)).trans
    (State.keeps_release _ s)).trans (State.keeps_pushAllRaw _ _)).trans (State.keeps_jump _ _)

theorem leads_useCallGate (sel : Word) (g : Desc) (call : Bool) :
    Leads s s.Keeps (s.useCallGate sel g call) := by
  refine (reads_checkGate s _ _).read fun _ => (reads_gateTarget s _ _).read fun c => ?_
  split
  · cases call
    · exact leads_raise s _ _
    · exact leads_innerCall hp g c
  · exact (reads_require s _ _ _).read fun _ => leads_enterCode hp _ _ c call

theorem leads_transferToCode (sel off : Word) (call : Bool) :
    Leads s s.Keeps (s.transferToCode sel off call) := by
  refine (reads_require s _ _ _).read fun _ => (reads_descriptor s _ _ _ _).read fun d => ?_
  dsimp only
  split
  · exact (reads_require s _ _ _).read fun _ => (reads_require s _ _ _).read fun _ =>
      (reads_require s _ _ _).read fun _ => leads_enterCode hp sel off d call
  · split
    · exact (reads_require s _ _ _).read fun _ => leads_taskSwitch hp _ _ _ _ _
    · exact leads_useCallGate hp sel d.2 call
    · exact (reads_checkGate s _ _).read fun _ => leads_taskSwitch hp _ _ _ _ _
    · exact leads_raise s _ _

/-! ## Returns (R238, R239) -/

theorem leads_farReturn (adj : Word) (iret : Bool) : Leads s s.Keeps (s.farReturn adj iret) := by
  refine (reads_require s _ _ _).read fun _ => (reads_fetchAt s _ _ _ _).read fun newIp =>
    (reads_fetchAt s _ _ _ _).read fun newCs => Leads.readIte (reads_fetchAt s _ _ _ _) trivial
    fun newFl => (reads_returnDesc s _).read fun c => ?_
  have hcs := State.keeps_loadCs hp newCs c
  refine Leads.ite (fun _ => ?_) fun _ => ?_
  · refine (reads_require s _ _ _).read fun _ => ?_
    have hsp (v : Word) := hcs.trans (State.keeps_setSp _ v)
    exact ((hsp _).trans (State.keeps_setFlags_prot ((hsp _).prot hp) _)).trans
      (State.keeps_jump _ newIp)
  · refine (reads_require s _ _ _).read fun _ => ?_
    have hheld := s.keeps_holdAccessed c.2
    refine Leads.read ((reads_fetchAt _ _ _ _ _).after hheld) fun outSp =>
      Leads.read ((reads_fetchAt _ _ _ _ _).after hheld) fun outSs =>
      Leads.read ((reads_stackDesc _ _ _ _ _ _).after hheld) fun d =>
      (reads_require s _ _ _).read fun _ => ?_
    have hcs' := hheld.trans (State.keeps_loadCs (hheld.prot hp) newCs c)
    have hss := hcs'.trans (State.keeps_putStack (hcs'.prot hp) outSs d)
    have hsp := (hss.trans (State.keeps_release _ s)).trans (State.keeps_setSp _ (outSp + adj))
    refine State.Keeps.trans ?_ (State.keeps_jump _ newIp)
    exact hsp.trans (.of_prot (hsp.prot hp) rfl id)

end

theorem leads_realIret (s : State) : Leads s s.Keeps s.realIret :=
  (reads_checkWords s _ _ _ _).read fun _ => (reads_fetchAt s _ _ _ _).read fun _ =>
    (reads_fetchAt s _ _ _ _).read fun _ => (reads_fetchAt s _ _ _ _).read fun _ =>
    have hflags (v : Word) : (s.setSp (s.regs.sp + 6)).Keeps
        ((s.setSp (s.regs.sp + 6)).setFlags (s.flags.loadReal v)) :=
      State.keeps_setFlags ⟨rfl, rfl⟩
    ((s.keeps_setSp _).trans (hflags _)).trans (State.keeps_realFar _ _ _)

theorem leads_interruptReturn (s : State) : Leads s s.Keeps s.interruptReturn := by
  have hdone (t : State) (ht : s.Keeps t) : s.Keeps { t with nmiInService := false } :=
    ht.trans (.of_same rfl rfl rfl)
  unfold State.interruptReturn
  dsimp only
  split
  next hp =>
    split
    · exact (reads_backLink s).read fun link => (leads_taskSwitch hp link _ _ _ _).bind hdone
    · exact (leads_farReturn hp _ _).bind hdone
  next => exact (leads_realIret s).bind hdone

/-! ## Deliveries (R640, R645) -/

theorem leads_realEntry (s : State) (n : Byte) (kind : IntKind) (ret : RetAddr) :
    Leads s s.Keeps (s.realEntry n kind ret) := by
  refine (reads_await s _ _).read fun _ => (leads_push s _).bind fun a ha => ?_
  have hflags : s.Keeps (a.setFlags { a.flags with intf := false, tf := false }) :=
    ha.trans (State.keeps_setFlags ⟨rfl, rfl⟩)
  exact ((leads_push _ ret.cs).trans hflags).bind fun b hb =>
    ((leads_push b ret.ip).trans hb).bind fun c hc =>
    (hc.trans (c.keeps_realFar _ _)).trans (State.keeps_afterEntry _ kind _)

theorem leads_realInterrupt (s : State) (n : Byte) (kind : IntKind) (ret fail : RetAddr) :
    Leads s s.Keeps (s.realInterrupt n kind ret fail) := by
  unfold State.realInterrupt
  split
  · exact leads_realEntry s n kind ret
  · split
    · exact State.Keeps.refl s
    · exact leads_realEntry s _ _ fail

section
variable {s : State} (hp : s.msw.pe = true)
include hp

theorem State.keeps_enterGate {t : State} (h : s.Keeps t) (g : Desc) (c : Addr × Desc)
    (level : BitVec 2) (kind : IntKind) : s.Keeps (s.enterGate t g c level kind) := by
  have hcs := (h.trans (State.keeps_loadCs (h.prot hp) (withRpl g.gateSelector level) c)).trans
    (State.keeps_jump _ g.gateOffset)
  exact (hcs.trans (State.keeps_setFlags_prot (hcs.prot hp) _)).trans
    (State.keeps_afterEntry _ kind _)

theorem leads_gateEntry (g : Desc) (kind : IntKind) (ret : RetAddr) (code : Option Word) :
    Leads s s.Keeps (s.gateEntry g kind ret code) := by
  refine (reads_gateTarget s _ _).read fun c => ?_
  have hheld := s.keeps_holdAccessed c.2
  dsimp only
  split
  · refine Leads.read ((reads_innerStack _ _ _).after hheld) fun k =>
      (reads_require s _ _ _).read fun _ => (reads_require s _ _ _).read fun _ => ?_
    have hpushed := (hheld.trans (State.keeps_switchStack (hheld.prot hp) k)).trans
      (State.keeps_pushAllRaw ([s.ss.sel, s.regs.sp] ++ s.entryFrame ret code) _)
    exact (State.keeps_enterGate hp hpushed g c _ kind).trans (State.keeps_release _ s)
  · refine (reads_require s _ _ _).read fun _ => (reads_require s _ _ _).read fun _ => ?_
    have hpushed := hheld.trans (State.keeps_pushAllRaw (s.entryFrame ret code) _)
    split
    · exact (State.keeps_enterGate hp hpushed g c _ kind).trans (State.keeps_release _ s)
    · exact hpushed.putMem

theorem leads_taskEntry (g : Desc) (kind : IntKind) (ret : RetAddr) (code : Option Word) :
    Leads s s.Keeps (s.taskEntry g kind ret code) := by
  refine (leads_taskSwitch hp g.gateSelector .int true kind.ext ret.ip).bind fun t ht => ?_
  have hnmi : s.Keeps (if kind = .nmi then t.setFlags { t.flags with intf := false } else t) := by
    split
    · exact ht.trans (State.keeps_setFlags ⟨rfl, rfl⟩)
    · exact ht
  have hdone (u : State) (hu : s.Keeps u) : s.Keeps (u.flushQueue.afterEntry kind s.draws) :=
    (hu.trans u.keeps_flushQueue).trans (State.keeps_afterEntry _ kind _)
  cases code with
  | none => exact hdone _ hnmi
  | some c => exact leads_inTask_bind hnmi (leads_push _ c) hdone

theorem leads_protEntry (n : Byte) (kind : IntKind) (ret : RetAddr) (code : Option Word) :
    Leads s s.Keeps (s.protEntry n kind ret code) := by
  refine (reads_require s _ _ _).read fun _ => (reads_fetchDesc s _ _).read fun g =>
    (reads_require s _ _ _).read fun _ => (reads_require s _ _ _).read fun _ =>
    (reads_require s _ _ _).read fun _ => ?_
  split
  · exact leads_taskEntry hp g kind ret code
  · exact leads_gateEntry hp g kind ret code

end

/-- A delivery, and those of the exceptions raised inside it (R660). -/
theorem leads_protInterrupt (fuel : Nat) {s : State} (hp : s.msw.pe = true) (n : Byte)
    (kind : IntKind) (ret fail : RetAddr) (code : Option Word) :
    Leads s s.Keeps (State.protInterrupt fuel s n kind ret fail code) := by
  induction fuel generalizing s n kind ret fail code with
  | zero => exact State.Keeps.refl s
  | succ fuel ih =>
    have hentry := leads_protEntry hp n kind ret code
    unfold State.protInterrupt
    split
    next v c left he =>
      rw [he] at hentry
      have hleft : s.Keeps (left.stateOr s) := hentry
      have hnext := hleft.trans (State.keeps_entering _)
      dsimp only
      split
      · exact hleft
      · split
        · exact (ih (hnext.prot hp) _ _ _ _ _).trans hnext
        · exact (ih (hnext.prot hp) _ _ _ _ _).trans hnext
    next => exact hentry

theorem leads_interrupt (s : State) (n : Byte) (kind : IntKind) (ret fail : RetAddr)
    (code : Option Word) : Leads s s.Keeps (s.interrupt n kind ret fail code) := by
  have hin := s.keeps_entering
  unfold State.interrupt
  split
  next hp => exact (leads_protInterrupt 5 (hin.prot hp) n kind ret fail code).trans hin
  next => exact (leads_realInterrupt _ n kind ret fail).trans hin

/-! ## Outcomes -/

/-- The next state, where there is one, is led to from s. -/
def OutcomeKeeps (s : State) (o : Host.Outcome State Fault Refusal) : Prop :=
  ∀ t, o = .next t → s.Keeps t

theorem OutcomeKeeps.next {s t : State} (h : s.Keeps t) : OutcomeKeeps s (.next t) := by
  rintro _ ⟨⟩
  exact h

theorem OutcomeKeeps.refused (s : State) (r : Refusal) : OutcomeKeeps s (.refused r) := by
  intro t ht
  cases ht

theorem OutcomeKeeps.after {s t : State} {o : Host.Outcome State Fault Refusal} (h : s.Keeps t)
    (ho : OutcomeKeeps t o) : OutcomeKeeps s o := fun u hu => h.trans (ho u hu)

theorem deliverOutcome_keeps {s : State} {r : Exec State} (h : Leads s s.Keeps r) :
    OutcomeKeeps s (deliverOutcome s r) := by
  cases r with
  | ok t => exact .next (State.Keeps.trans h (t.keeps_release s))
  | error e =>
    cases e with
    | exc v c left =>
      have hleft : s.Keeps (left.stateOr s) := h
      exact .next ((hleft.trans (State.keeps_enterShutdown _)).trans (State.keeps_release _ s))
    | shutdown t => exact .next ((State.Keeps.trans h t.keeps_enterShutdown).trans
        (State.keeps_release _ s))
    | stuck t => exact .next ((State.Keeps.trans h t.keeps_enterStuck).trans
        (State.keeps_release _ s))
    | refuse r => exact .refused s r

theorem deliver_keeps (s : State) (n : Byte) (kind : IntKind) (ret fail : RetAddr)
    (code : Option Word) : OutcomeKeeps s (s.deliver n kind ret fail code) :=
  deliverOutcome_keeps (leads_interrupt s n kind ret fail code)

theorem takeException_keeps {s : State} (v : Byte) (code : Word) {left : Left}
    (h : s.Keeps (left.stateOr s)) : OutcomeKeeps s (s.takeException v code left) := by
  have hbegun : s.Keeps { left.stateOr s with tfAtStart := false, intInhibit := false } :=
    h.trans (.of_same rfl rfl rfl)
  exact .after hbegun (deliver_keeps _ _ _ _ _ _)

/-- An exception or a wait of an instruction. -/
theorem finish_error_keeps {s : State} {e : Stop} (h : e.Keeps s) :
    OutcomeKeeps s (s.finish (.error e)) := by
  cases e with
  | exc v c left => exact takeException_keeps v c h
  | shutdown t => exact .next (State.Keeps.trans h t.keeps_enterShutdown)
  | stuck t => exact .next ((State.Keeps.trans h t.keeps_enterStuck).trans
      (State.keeps_release _ s))
  | refuse r => exact .refused s r

/-- The next state of an instruction is what it answers, or what a stop of it leads to. -/
theorem finish_next {s t : State} {Q : State → Prop} {r : Exec State} (h : Leads s Q r)
    (ht : s.finish r = .next t) : Q t ∨ s.Keeps t := by
  cases r with
  | ok u => cases ht; exact .inl h
  | error e => exact .inr (finish_error_keeps h t ht)

theorem finish_keeps {s : State} {r : Exec State} (h : Leads s s.Keeps r) :
    OutcomeKeeps s (s.finish r) := fun _ ht => (finish_next h ht).elim id id

end Sys2Proof.Machine
end

section
/-! PROOFS. What the meanings of instructions lead to. -/

namespace Sys2Proof.Machine

/-! ## Flag computations leave IOPL and NT (R46) -/

/-- A computation of one operand leaves IOPL and NT. -/
def KeepsLevel (op : Word → Flags → Word × Flags) : Prop :=
  ∀ (a : Word) (f : Flags), f.sameLevel (op a f).2

theorem shiftFlags_sameLevel (op : ShiftOp) (w : Width) (x : Word) (c : Nat) (f : Flags) (n : Nat) :
    f.sameLevel (shiftFlags op w x c f n).2 := by
  unfold shiftFlags
  dsimp only
  split <;> exact ⟨rfl, rfl⟩

theorem aaaFlags_sameLevel (ax : Word) (f : Flags) (n : Nat) :
    f.sameLevel (aaaFlags ax f n).2 := by
  unfold aaaFlags
  dsimp only
  split <;> exact ⟨rfl, rfl⟩

theorem aasFlags_sameLevel (ax : Word) (f : Flags) (n : Nat) :
    f.sameLevel (aasFlags ax f n).2 := by
  unfold aasFlags
  dsimp only
  split <;> exact ⟨rfl, rfl⟩

/-! ## Instructions of one shape -/

section
variable {s : State}

/-- FLAGS written after an update that leaves them. -/
theorem State.Keeps.setFlags {t : State} (h : s.Keeps t) (ht : t.flags = s.flags) {f : Flags}
    (hf : s.flags.sameLevel f) : s.Keeps (t.setFlags f) :=
  h.trans (State.keeps_setFlags (ht.symm ▸ hf))

theorem State.keeps_setRegFlags (w : Width) (n : RegNum) {r : Word × Flags}
    (h : s.flags.sameLevel r.2) : s.Keeps (s.setRegFlags w n r) :=
  (s.keeps_setReg w n r.1).setFlags (s.setReg_flags w n r.1) h

theorem State.keeps_rmPutFlags (w : Width) (rm : RM) {r : Word × Flags}
    (h : s.flags.sameLevel r.2) : s.Keeps (s.rmPutFlags w rm r) :=
  (s.keeps_rmPut w rm r.1).setFlags (s.rmPut_flags w rm r.1) h

theorem State.keeps_setAxFlags {r : Word × Flags} (h : s.flags.sameLevel r.2) :
    s.Keeps (s.setAxFlags r) := (s.keeps_setAx r.1).setFlags rfl h

theorem State.keeps_setAlFlags {r : Byte × Flags} (h : s.flags.sameLevel r.2) :
    s.Keeps (s.setAlFlags r) := (s.keeps_setReg .byte 0#3 _).setFlags rfl h

theorem leads_modifyRM (w : Width) (rm : RM) {op : Word → Flags → Word × Flags}
    (h : KeepsLevel op) : Leads s s.Keeps (s.modifyRM w rm op) :=
  (reads_operand s _ _ _).read fun v => State.keeps_rmPutFlags w rm (h v s.flags)

theorem leads_binRmReg {op : BinOp} (toReg : Bool) (w : Width) (rm : RM) (reg : RegNum)
    (h : ∀ a b f, Flags.sameLevel f (op a b f).2) :
    Leads s s.Keeps (s.binRmReg op toReg w rm reg) := by
  cases toReg
  · exact leads_modifyRM w rm fun a f => h a _ f
  · exact (reads_readRM s w rm).read fun b => State.keeps_setRegFlags w reg (h _ b _)

theorem leads_binRmImm {op : BinOp} (w : Width) (rm : RM) (v : Word)
    (h : ∀ a b f, Flags.sameLevel f (op a b f).2) : Leads s s.Keeps (s.binRmImm op w rm v) :=
  leads_modifyRM w rm fun a f => h a v f

theorem leads_flagsRM (w : Width) (rm : RM) {op : Word → Flags → Flags}
    (h : ∀ (a : Word) (f : Flags), f.sameLevel (op a f)) : Leads s s.Keeps (s.flagsRM w rm op) :=
  (reads_readRM s w rm).read fun a => State.keeps_setFlags (h a s.flags)

theorem leads_shiftRM (op : ShiftOp) (w : Width) (rm : RM) (raw : Byte) :
    Leads s s.Keeps (s.shiftRM op w rm raw) := by
  refine (reads_operand s _ w rm).read fun v => ?_
  show s.Keeps (if _ then _ else _)
  split
  · exact State.Keeps.refl s
  · exact State.keeps_rmPutFlags w rm (shiftFlags_sameLevel op w v _ s.flags s.draws)

end

/-! ## Multiplication and division (R407 to R411) -/

section
variable (s : State)

theorem State.keeps_mulResult (w : Width) (v : Word) : s.Keeps (s.mulResult w v) := by
  cases w <;> exact .of_same rfl rfl rfl

theorem State.keeps_imulResult (w : Width) (v : Word) : s.Keeps (s.imulResult w v) := by
  cases w <;> exact .of_same rfl rfl rfl

theorem State.keeps_putQuotient (w : Width) (q r : Word) :
    s.Keeps ((s.putQuotient w q r).setFlags (s.flags.freeAll s.draws)) := by
  cases w <;> exact .of_same rfl rfl rfl

theorem leads_divResult (w : Width) (v : Word) : Leads s s.Keeps (s.divResult w v) := by
  unfold State.divResult
  dsimp only
  split
  · exact leads_raise s _ _
  · exact s.keeps_putQuotient w _ _

theorem leads_idivResult (w : Width) (v : Word) : Leads s s.Keeps (s.idivResult w v) := by
  unfold State.idivResult
  dsimp only
  split
  · exact leads_raise s _ _
  · exact s.keeps_putQuotient w _ _

/-! ## Control transfers (R480 to R497) -/

theorem leads_nearCall (target : Word) : Leads s s.Keeps (s.nearCall target) :=
  (reads_require s _ _ _).read fun _ => (leads_push s _).bind fun _ ht =>
    ht.trans (State.keeps_jump _ target)

theorem leads_farCall (sel off : Word) : Leads s s.Keeps (s.farCall sel off) := by
  unfold State.farCall
  split
  next hp => exact leads_transferToCode hp sel off true
  next => exact (leads_pushAll _ s).bind fun t ht => ht.trans (t.keeps_realFar sel off)

theorem leads_farJump (sel off : Word) : Leads s s.Keeps (s.farJump sel off) := by
  unfold State.farJump
  split
  next hp => exact leads_transferToCode hp sel off false
  next => exact s.keeps_realFar sel off

theorem leads_nearReturn (adj : Word) : Leads s s.Keeps (s.nearReturn adj) :=
  (reads_stackTop s).read fun _ => (reads_require s _ _ _).read fun _ =>
    (s.keeps_setSp _).trans (State.keeps_jump _ _)

theorem leads_farRet (adj : Word) : Leads s s.Keeps (s.farRet adj) := by
  unfold State.farRet
  split
  next hp => exact leads_farReturn hp adj false
  next => exact (reads_checkWords s _ _ _ _).read fun _ => (reads_fetchAt s _ _ _ _).read fun _ =>
      (reads_fetchAt s _ _ _ _).read fun _ => (s.keeps_setSp _).trans (State.keeps_realFar _ _ _)

/-! ## The stack (R349 to R357, R540) -/

theorem State.keeps_partialPop : s.Keeps s.partialPop := by
  unfold State.partialPop
  split
  · exact .refl s
  · exact s.keeps_setSp _

theorem leads_popFailure {r : Exec State} (h : Leads s s.Keeps r) :
    Leads s s.Keeps (popFailure s r) := by
  unfold popFailure
  split
  · exact s.keeps_partialPop
  · exact h

theorem leads_popSeg (r : SReg) : Leads s s.Keeps (s.popSeg r) :=
  (reads_stackTop s).read fun sel => (leads_loadSeg s r sel).bind fun t ht =>
    (ht.trans (t.keeps_setSp _)).trans (State.keeps_inhibitAfter _ r)

end

theorem State.keeps_partialPush (vs : List Word) (s : State) (sp : Word) (i : Nat) :
    s.Keeps (s.partialPush sp i vs) := by
  induction vs generalizing s sp i with
  | nil => exact .refl s
  | cons v vs ih =>
    unfold State.partialPush
    dsimp only
    split
    · exact (s.keeps_writeWord _ v).trans (ih _ _ _)
    · exact ih s _ _

theorem State.keeps_partialPopa {s t : State} (h : s.Keeps t) (i : Nat) (rs : List Reg16) :
    s.Keeps (s.partialPopa t i rs) := by
  induction rs generalizing t i with
  | nil => exact h
  | cons r rs ih =>
    unfold State.partialPopa
    dsimp only
    split
    · exact ih h _
    · refine ih (t := { t with regs := _ }) (h.trans ?_) _
      exact .of_same rfl rfl rfl

section
variable (s : State)

theorem execPusha_keeps : OutcomeKeeps s (execPusha s) := by
  refine finish_keeps ?_
  dsimp only
  split
  · split
    · exact State.keeps_pushAllRaw _ s
    · split
      · exact (State.keeps_partialPush _ s _ _).trans (State.keeps_setSp _ _)
      · exact leads_raise s _ _
  · exact leads_pushAll _ s

theorem execPopa_keeps : OutcomeKeeps s (execPopa s) := by
  refine finish_keeps ((reads_awaitStack s _).read fun _ => ?_)
  split
  · exact .of_same rfl rfl rfl
  · split
    · exact leads_raise s _ _
    · exact (State.keeps_partialPopa (.refl s) _ _).trans (State.keeps_setSp _ _)

/-- Where a part of ENTER fails, the words it has pushed stay in memory (R650). -/
theorem leads_keepPushes {α : Type} {s t : State} {Q : α → Prop} {r : Exec α} (h : s.Keeps t)
    (hr : Leads t Q r) : Leads s Q (s.keepPushes t r) := by
  unfold State.keepPushes
  split
  · exact h.putMem
  · exact hr.after h

theorem leads_copyFrames (n : Nat) {s t : State} (h : s.Keeps t) :
    Leads s s.Keeps (s.copyFrames n t) := by
  induction n generalizing t with
  | zero => exact h
  | succ n ih =>
    have hbp := h.trans (t.keeps_setBp (t.regs.bp - 2))
    exact Leads.read (leads_keepPushes hbp (reads_memRead _ _ _ _ _)) fun v =>
      (leads_keepPushes hbp (leads_push _ v)).bind fun u hu => ih (hbp.trans hu)

theorem execEnter_keeps (size : Word) (level : Byte) : OutcomeKeeps s (execEnter size level s) := by
  refine finish_keeps ((leads_push s _).bind fun t ht => ?_)
  have hdone (frame : Word) (u : State) (hu : s.Keeps u) :
      s.Keeps ((u.setBp frame).setSp (u.regs.sp - size)) :=
    (hu.trans (u.keeps_setBp frame)).trans (State.keeps_setSp _ _)
  refine Leads.ite (fun _ => hdone _ t ht) fun _ => ?_
  exact (leads_copyFrames _ ht).bind fun u hu =>
    (leads_keepPushes hu (leads_push u _)).bind fun v hv => hdone _ v (hu.trans hv)

/-! ## Ports and strings (R360 to R363, R462 to R469) -/

theorem leads_input (w : Width) (port : Word) : Leads s s.Keeps (s.input w port) :=
  (reads_checkIopl s).read fun _ => .ite (fun _ => trivial) fun _ =>
    (leads_readPort s port w).bind fun r hr => hr.trans (r.2.keeps_setReg w 0#3 r.1)

theorem leads_output (w : Width) (port : Word) : Leads s s.Keeps (s.output w port) :=
  (reads_checkIopl s).read fun _ => leads_writePort s port w _

theorem leads_movsElement (w : Width) : Leads s s.Keeps (s.movsElement w) :=
  (reads_memRead s _ _ _ _).read fun v => (leads_memWrite s _ _ w v).bind fun t ht =>
    (ht.trans (t.keeps_stepSi w)).trans (State.keeps_stepDi _ w)

theorem leads_cmpsElement (w : Width) : Leads s s.Keeps (s.cmpsElement w) :=
  (reads_memRead s _ _ _ _).read fun _ => (reads_memRead s _ _ _ _).read fun _ =>
    ((s.keeps_stepSi w).trans (State.keeps_stepDi _ w)).setFlags rfl ⟨rfl, rfl⟩

theorem leads_scasElement (w : Width) : Leads s s.Keeps (s.scasElement w) :=
  (reads_memRead s _ _ _ _).read fun _ => (s.keeps_stepDi w).setFlags rfl ⟨rfl, rfl⟩

theorem leads_lodsElement (w : Width) : Leads s s.Keeps (s.lodsElement w) :=
  (reads_memRead s _ _ _ _).read fun v => (s.keeps_stepSi w).trans (State.keeps_setReg _ w 0#3 v)

theorem leads_stosElement (w : Width) : Leads s s.Keeps (s.stosElement w) :=
  (leads_memWrite s _ _ w _).bind fun t ht => ht.trans (t.keeps_stepDi w)

theorem leads_insElement (w : Width) : Leads s s.Keeps (s.insElement w) :=
  (reads_checkIopl s).read fun _ => (reads_check s _ _ _ _).read fun _ =>
    (leads_readPort s _ w).bind fun r hr =>
      (hr.trans (r.2.keeps_store .es _ w r.1)).trans (State.keeps_stepDi _ w)

theorem leads_outsElement (w : Width) : Leads s s.Keeps (s.outsElement w) :=
  (reads_checkIopl s).read fun _ => (reads_memRead s _ _ _ _).read fun v =>
    (leads_writePort s _ w v).bind fun t ht => ht.trans (t.keeps_stepSi w)

theorem leads_repeatWith (z : Bool) : Leads s s.Keeps (s.repeatWith z) := by
  unfold State.repeatWith
  split
  · trivial
  · exact .of_same rfl rfl rfl

/-! ## Processor control and protection -/

theorem execWait_keeps : OutcomeKeeps s (execWait s) := by
  unfold execWait
  split
  · exact finish_keeps (leads_raise s _ _)
  · split
    · exact .next (.of_same rfl rfl rfl)
    · split
      · exact deliver_keeps s _ _ _ _ _
      · exact finish_keeps (State.Keeps.refl s)

theorem execInto_keeps : OutcomeKeeps s (execInto s) := by
  unfold execInto
  split
  · exact deliver_keeps s _ _ _ _ _
  · exact finish_keeps (State.Keeps.refl s)

theorem State.keeps_handOver (op : BitVec 6) (code : List Byte) (rm : RM) :
    s.Keeps (s.handOver op code rm) := by
  cases rm <;> exact .of_same rfl rfl rfl

theorem execEsc_keeps (ttt lll : BitVec 3) (rm : RM) : OutcomeKeeps s (execEsc ttt lll rm s) := by
  unfold execEsc
  dsimp only
  split
  · exact finish_keeps (leads_raise s _ _)
  · split
    next e he =>
      have hcheck := reads_checkEsc s (ttt ++ lll) rm
      rw [he] at hcheck
      exact finish_error_keeps hcheck
    next =>
      split
      · exact .next (.of_same rfl rfl rfl)
      · split
        · exact deliver_keeps s _ _ _ _ _
        · exact finish_keeps (s.keeps_handOver _ _ rm)

theorem execLock_keeps : OutcomeKeeps s (execLock s) := by
  refine finish_keeps (.ite (fun _ => trivial) fun _ => ?_)
  exact (reads_checkIopl s).read fun _ => .of_same rfl rfl rfl

theorem leads_storeTable (m : Mem) (r : TableReg) : Leads s s.Keeps (s.storeTable m r) :=
  (reads_checkWords s _ _ _ _).read fun _ => State.keeps_storeWords _ s _ _

theorem State.keeps_probeAccessed (d : Addr × Desc) : s.Keeps (s.probeAccessed d) := by
  unfold State.probeAccessed
  split
  · exact (s.keeps_writeByte _ _).trans (State.keeps_lockedSince _ _ _)
  · exact .refl s

theorem leads_selectorTest (sel : Word) (ok : Desc → Bool) {found : State → Desc → State}
    (h : ∀ t d, State.Keeps t (found t d)) : Leads s s.Keeps (s.selectorTest sel ok found) := by
  refine (reads_probe s sel).read fun d => ?_
  cases d with
  | none => exact s.keeps_setZf false
  | some d =>
    have hprobe := s.keeps_probeAccessed d
    dsimp only
    split
    · exact (hprobe.trans (h _ d.2)).trans (State.keeps_setZf _ true)
    · exact hprobe.trans (State.keeps_setZf _ false)

theorem execLldt_keeps (rm : RM) : OutcomeKeeps s (execLldt rm s) :=
  finish_keeps <| (reads_checkProt s).read fun _ => (reads_checkCpl0 s).read fun _ =>
    (reads_readRM s _ rm).read fun sel => .ite (fun _ => .of_same rfl rfl rfl) fun _ =>
      (reads_systemDesc s sel 2).read fun _ => .of_same rfl rfl rfl

theorem execLtr_keeps (rm : RM) : OutcomeKeeps s (execLtr rm s) :=
  finish_keeps <| (reads_checkProt s).read fun _ => (reads_checkCpl0 s).read fun _ =>
    (reads_readRM s _ rm).read fun sel => (reads_require s _ _ _).read fun _ =>
      (reads_systemDesc s sel 1).read fun d =>
        ((s.keeps_writeByte _ _).trans (State.keeps_lockedSince _ s d.2.time)).trans
          (.of_same rfl rfl rfl)

theorem execArpl_keeps (rm : RM) (reg : RegNum) : OutcomeKeeps s (execArpl rm reg s) :=
  finish_keeps <| (reads_checkProt s).read fun _ => (reads_operand s _ _ rm).read fun _ =>
    .ite (fun _ => (s.keeps_rmPut .word rm _).trans (State.keeps_setZf _ true)) fun _ =>
      s.keeps_setZf false

theorem execXchgRmReg_keeps (w : Width) (rm : RM) (reg : RegNum) :
    OutcomeKeeps s (execXchgRmReg w rm reg s) :=
  finish_keeps <| (reads_checkRM s _ w rm).read fun _ => .ite
    (fun _ => ((s.keeps_rmPut w rm _).trans (State.keeps_lockedSince _ s _)).trans
      (State.keeps_setReg _ w reg _))
    fun _ => leads_stuck s

theorem execPopf_keeps : OutcomeKeeps s (execPopf s) := by
  refine finish_keeps ((reads_stackTop s).read fun v =>
    (s.keeps_setSp (s.regs.sp + 2)).trans ?_)
  unfold State.popfFlags
  split
  next hp => exact State.keeps_setFlags_prot (s := s.setSp (s.regs.sp + 2)) hp _
  next =>
    exact State.keeps_setFlags (s := s.setSp (s.regs.sp + 2)) (f := s.flags.loadReal v)
      ⟨rfl, rfl⟩

end

end Sys2Proof.Machine
end

section
/-! PROOFS. PE, MP, EM, GDTR and IDTR have one writer each. -/

namespace Sys2Proof.Machine

/-! ## What each instruction leads to -/

/-- LMSW, LGDT and LIDT apart, every instruction keeps the control registers and the invariant, in
each of its outcomes. -/
theorem exec_keeps {i : Instr} (s : State) (hlmsw : ∀ rm, i ≠ .lmsw rm) (hlgdt : ∀ m, i ≠ .lgdt m)
    (hlidt : ∀ m, i ≠ .lidt m) : OutcomeKeeps s (exec i s) := by
  cases i with
  | movRmReg w rm reg => exact finish_keeps (leads_writeRM s w rm _)
  | movRegRm w reg rm =>
    exact finish_keeps ((reads_readRM s w rm).read fun _ => s.keeps_setReg w reg _)
  | movRmImm rm imm | movRmSreg rm r | smsw rm =>
    exact finish_keeps (leads_writeRM s _ rm _)
  | movRegImm reg imm => exact .next (s.keeps_setReg _ reg _)
  | movAccMem w off =>
    exact finish_keeps ((reads_memRead s _ _ _ _).read fun _ => s.keeps_setReg w 0#3 _)
  | movMemAcc w off => exact finish_keeps (leads_memWrite s _ _ w _)
  | movSregRm r rm =>
    exact finish_keeps ((reads_readRM s _ rm).read fun sel => (leads_loadSeg s r sel).bind
      fun t ht => ht.trans (t.keeps_inhibitAfter r))
  | pushRm rm => exact finish_keeps ((reads_readRM s _ rm).read fun v => leads_push s v)
  | pushReg reg | pushSreg r | pushImm imm | pushf =>
    exact finish_keeps (leads_push s _)
  | pusha => exact execPusha_keeps s
  | popRm rm =>
    exact finish_keeps ((reads_stackTop s).read fun v => leads_popFailure s
      ((leads_writeRM _ _ rm v).trans (s.keeps_setSp _)))
  | popReg reg =>
    exact finish_keeps ((reads_stackTop s).read fun v =>
      (s.keeps_setSp _).trans (State.keeps_setReg _ .word reg v))
  | popEs => exact finish_keeps (leads_popSeg s .es)
  | popSs => exact finish_keeps (leads_popSeg s .ss)
  | popDs => exact finish_keeps (leads_popSeg s .ds)
  | popa => exact execPopa_keeps s
  | xchgRmReg w rm reg => exact execXchgRmReg_keeps s w rm reg
  | xchgAxReg reg => exact .next ((s.keeps_setAx _).trans (State.keeps_setReg _ .word reg _))
  | nop => exact .next (.refl s)
  | inImm w port | inDx w =>
    exact finish_keeps (leads_input s w _)
  | outImm w port | outDx w =>
    exact finish_keeps (leads_output s w _)
  | xlat => exact finish_keeps ((reads_memRead s _ _ _ _).read fun _ => s.keeps_setReg .byte 0#3 _)
  | lea reg m => exact .next (s.keeps_setReg .word reg _)
  | lds reg m =>
    exact finish_keeps ((reads_readPointer s _ _).read fun p => (leads_loadSeg s .ds p.2).bind
      fun t ht => ht.trans (t.keeps_setReg .word reg p.1))
  | les reg m =>
    exact finish_keeps ((reads_readPointer s _ _).read fun p => (leads_loadSeg s .es p.2).bind
      fun t ht => ht.trans (t.keeps_setReg .word reg p.1))
  | lahf => exact .next (s.keeps_setReg .byte 4#3 _)
  | sahf | cmpAccImm imm | testAccImm imm | clc | cmc | stc | cld | std =>
    exact .next (State.keeps_setFlags ⟨rfl, rfl⟩)
  | popf => exact execPopf_keeps s
  | addRmReg d w rm reg | adcRmReg d w rm reg | subRmReg d w rm reg | sbbRmReg d w rm reg
  | andRmReg d w rm reg | orRmReg d w rm reg | xorRmReg d w rm reg =>
    exact finish_keeps (leads_binRmReg d w rm reg fun _ _ _ => ⟨rfl, rfl⟩)
  | addRmImm rm imm | adcRmImm rm imm | subRmImm rm imm | sbbRmImm rm imm =>
    exact finish_keeps (leads_binRmImm _ rm _ fun _ _ _ => ⟨rfl, rfl⟩)
  | addAccImm imm | adcAccImm imm | incReg reg | subAccImm imm | sbbAccImm imm | decReg reg
  | andAccImm imm | orAccImm imm | xorAccImm imm =>
    exact .next (State.keeps_setRegFlags _ _ ⟨rfl, rfl⟩)
  | incRm w rm | decRm w rm | neg w rm | not w rm =>
    exact finish_keeps (leads_modifyRM w rm fun _ _ => ⟨rfl, rfl⟩)
  | cmpRmReg w rm reg | cmpRegRm w reg rm | testRmReg w rm reg =>
    exact finish_keeps (leads_flagsRM w rm fun _ _ => ⟨rfl, rfl⟩)
  | cmpRmImm rm imm | testRmImm rm imm =>
    exact finish_keeps (leads_flagsRM _ rm fun _ _ => ⟨rfl, rfl⟩)
  | aaa => exact .next (State.keeps_setAxFlags (aaaFlags_sameLevel _ _ _))
  | daa | das =>
    exact .next (State.keeps_setAlFlags ⟨rfl, rfl⟩)
  | aas => exact .next (State.keeps_setAxFlags (aasFlags_sameLevel _ _ _))
  | mul w rm => exact finish_keeps ((reads_readRM s w rm).read fun v => s.keeps_mulResult w v)
  | imulRm w rm => exact finish_keeps ((reads_readRM s w rm).read fun v => s.keeps_imulResult w v)
  | imulImm reg rm imm =>
    exact finish_keeps ((reads_readRM s _ rm).read fun v =>
      (s.keeps_setReg .word reg _).setFlags (s.setReg_flags .word reg _) ⟨rfl, rfl⟩)
  | div w rm => exact finish_keeps ((reads_readRM s w rm).read fun v => leads_divResult s w v)
  | idiv w rm => exact finish_keeps ((reads_readRM s w rm).read fun v => leads_idivResult s w v)
  | aam | aad =>
    exact .next (State.keeps_setAxFlags ⟨rfl, rfl⟩)
  | cbw => exact .next (s.keeps_setAx _)
  | cwd => exact .next (s.keeps_setDx _)
  | rolOne w rm | rolCl w rm | rorOne w rm | rorCl w rm | rclOne w rm | rclCl w rm | rcrOne w rm
  | rcrCl w rm | shlOne w rm | shlCl w rm | shrOne w rm | shrCl w rm | sarOne w rm | sarCl w rm =>
    exact finish_keeps (leads_shiftRM _ w rm _)
  | rolImm w rm c | rorImm w rm c | rclImm w rm c | rcrImm w rm c | shlImm w rm c
  | shrImm w rm c | sarImm w rm c =>
    exact finish_keeps (leads_shiftRM _ w rm c)
  | andRmImm rm imm | orRmImm rm imm | xorRmImm rm imm =>
    exact finish_keeps (leads_modifyRM _ rm fun _ _ => ⟨rfl, rfl⟩)
  | movs w => exact finish_keeps (leads_repeated _ (leads_movsElement s w))
  | cmps w => exact finish_keeps (leads_repeated _ (leads_cmpsElement s w))
  | scas w => exact finish_keeps (leads_repeated _ (leads_scasElement s w))
  | lods w => exact finish_keeps (leads_repeated _ (leads_lodsElement s w))
  | stos w => exact finish_keeps (leads_repeated _ (leads_stosElement s w))
  | ins w => exact finish_keeps (leads_repeated _ (leads_insElement s w))
  | outs w => exact finish_keeps (leads_repeated _ (leads_outsElement s w))
  | rep => exact finish_keeps (leads_repeatWith s true)
  | repne => exact finish_keeps (leads_repeatWith s false)
  | callRel d => exact finish_keeps (leads_nearCall s _)
  | callRm rm => exact finish_keeps ((reads_readRM s _ rm).read fun t => leads_nearCall s t)
  | callFar off sel => exact finish_keeps (leads_farCall s sel off)
  | callFarMem m =>
    exact finish_keeps ((reads_readPointer s _ _).read fun p => leads_farCall s p.2 p.1)
  | jmpShort d | jmpRel d =>
    exact finish_keeps (leads_nearJump s _)
  | jmpRm rm => exact finish_keeps ((reads_readRM s _ rm).read fun t => leads_nearJump s t)
  | jmpFar off sel => exact finish_keeps (leads_farJump s sel off)
  | jmpFarMem m =>
    exact finish_keeps ((reads_readPointer s _ _).read fun p => leads_farJump s p.2 p.1)
  | ret => exact finish_keeps (leads_nearReturn s _)
  | retImm v => exact finish_keeps (leads_nearReturn s v)
  | retFar => exact finish_keeps (leads_farRet s _)
  | retFarImm v => exact finish_keeps (leads_farRet s v)
  | jo d | jno d | jb d | jnb d | je d | jne d | jbe d | jnbe d | js d | jns d | jp d | jnp d
  | jl d | jnl d | jle d | jnle d | jcxz d =>
    exact finish_keeps (leads_jumpIf s _ d)
  | loop d | loopz d | loopnz d =>
    exact finish_keeps (leads_loopWhile s _ d)
  | enter size level => exact execEnter_keeps s size level
  | leave =>
    exact finish_keeps ((reads_popWord s _).read fun v =>
      (s.keeps_setSp _).trans (State.keeps_setBp _ v))
  | bound reg m =>
    exact finish_keeps ((reads_readPointer s _ _).read fun _ => (reads_require s _ _ _).read
      fun _ => State.Keeps.refl s)
  | int n | int3 =>
    exact deliver_keeps s _ _ _ _ _
  | into => exact execInto_keeps s
  | iret => exact finish_keeps (leads_interruptReturn s)
  | cli =>
    exact finish_keeps ((reads_checkIopl s).read fun _ => State.keeps_setFlags ⟨rfl, rfl⟩)
  | sti => exact finish_keeps ((reads_checkIopl s).read fun _ => .of_same rfl rfl rfl)
  | hlt | cts =>
    exact finish_keeps ((reads_checkCpl0 s).read fun _ => .of_same rfl rfl rfl)
  | wait => exact execWait_keeps s
  | lock => exact execLock_keeps s
  | seg r => exact finish_keeps (.ite (fun _ => trivial) fun _ => .of_same rfl rfl rfl)
  | esc ttt lll rm => exact execEsc_keeps s ttt lll rm
  | sldt rm | str rm =>
    exact finish_keeps ((reads_checkProt s).read fun _ => leads_writeRM s _ rm _)
  | lldt rm => exact execLldt_keeps s rm
  | ltr rm => exact execLtr_keeps s rm
  | verr rm | verw rm =>
    exact finish_keeps ((reads_checkProt s).read fun _ => (reads_readRM s _ rm).read fun sel =>
      leads_selectorTest s sel _ fun t _ => .refl t)
  | sgdt m | sidt m =>
    exact finish_keeps (leads_storeTable s m _)
  | lgdt m => exact absurd rfl (hlgdt m)
  | lidt m => exact absurd rfl (hlidt m)
  | lmsw rm => exact absurd rfl (hlmsw rm)
  | lar reg rm | lsl reg rm =>
    exact finish_keeps ((reads_checkProt s).read fun _ => (reads_readRM s _ rm).read fun sel =>
      leads_selectorTest s sel _ fun t _ => t.keeps_setReg .word reg _)
  | arpl rm reg => exact execArpl_keeps s rm reg

/-! ## The writers of the control registers -/

/-- LMSW loads MSW, which clears PE in no case (R604). -/
theorem exec_lmsw_next {rm : RM} {s t : State} (h : exec (.lmsw rm) s = .next t) :
    (∃ v stale, t = { s with
      msw := s.msw.load v, modeSwitch := !s.msw.pe && v.getLsbD 0, stale := stale }) ∨
    s.Keeps t := by
  refine finish_next (Q := fun t => ∃ v stale, t = { s with
    msw := s.msw.load v, modeSwitch := !s.msw.pe && v.getLsbD 0, stale := stale }) ?_ h
  refine (reads_checkCpl0 s).read fun _ => (reads_readRM s .word rm).read fun v => ?_
  exact ⟨v, _, rfl⟩

theorem exec_lgdt_next {m : Mem} {s t : State} (h : exec (.lgdt m) s = .next t) :
    (∃ r, t = { s with gdtr := r }) ∨ s.Keeps t := by
  refine finish_next (Q := fun t => ∃ r, t = { s with gdtr := r }) ?_ h
  refine (reads_checkCpl0 s).read fun _ => (reads_readTable s m).read fun r => ?_
  exact ⟨r, rfl⟩

theorem exec_lidt_next {m : Mem} {s t : State} (h : exec (.lidt m) s = .next t) :
    (∃ r, t = { s with idtr := r }) ∨ s.Keeps t := by
  refine finish_next (Q := fun t => ∃ r, t = { s with idtr := r }) ?_ h
  refine (reads_checkCpl0 s).read fun _ => (reads_readTable s m).read fun r => ?_
  exact ⟨r, rfl⟩

/-- What an instruction leads to: the control registers are kept, or it is the one that writes the
register it changes (R592, R594, R604). -/
theorem exec_next {i : Instr} {s t : State} (h : exec i s = .next t) :
    (∃ rm v stale, i = .lmsw rm ∧ t = { s with
      msw := s.msw.load v, modeSwitch := !s.msw.pe && v.getLsbD 0, stale := stale }) ∨
    (∃ m r, i = .lgdt m ∧ t = { s with gdtr := r }) ∨
    (∃ m r, i = .lidt m ∧ t = { s with idtr := r }) ∨
    s.Keeps t := by
  by_cases hlmsw : ∃ rm, i = .lmsw rm
  · obtain ⟨rm, rfl⟩ := hlmsw
    exact (exec_lmsw_next h).imp (fun ⟨v, stale, ht⟩ => ⟨rm, v, stale, rfl, ht⟩) (.inr ∘ .inr)
  by_cases hlgdt : ∃ m, i = .lgdt m
  · obtain ⟨m, rfl⟩ := hlgdt
    exact .inr ((exec_lgdt_next h).imp (fun ⟨r, ht⟩ => ⟨m, r, rfl, ht⟩) .inr)
  by_cases hlidt : ∃ m, i = .lidt m
  · obtain ⟨m, rfl⟩ := hlidt
    exact .inr (.inr ((exec_lidt_next h).imp_left fun ⟨r, ht⟩ => ⟨m, r, rfl, ht⟩))
  exact .inr (.inr (.inr (exec_keeps s (not_exists.1 hlmsw) (not_exists.1 hlgdt)
    (not_exists.1 hlidt) t h)))

/-- Settles O6: every instruction but the writers keeps the control registers (`exec_keeps`), and a
writer changes its own alone. -/
theorem controlRegistersHaveOneWriter : Obligations.ControlRegistersHaveOneWriter := by
  intro i s t h
  obtain ⟨rm, v, stale, rfl, rfl⟩ | ⟨m, r, rfl, rfl⟩ | ⟨m, r, rfl, rfl⟩ | hk := exec_next h
  · exact ⟨fun hi => absurd rfl (hi rm), fun _ => rfl, fun _ => rfl⟩
  · exact ⟨fun _ => ⟨rfl, rfl, rfl⟩, fun hi => absurd rfl (hi m), fun _ => rfl⟩
  · exact ⟨fun _ => ⟨rfl, rfl, rfl⟩, fun _ => rfl, fun hi => absurd rfl (hi m)⟩
  · obtain ⟨hpe, hmp, hem, hgdtr, hidtr⟩ := (s.control_eq_iff t).1 hk.control
    exact ⟨fun _ => ⟨hpe, hmp, hem⟩, fun _ => hgdtr, fun _ => hidtr⟩

end Sys2Proof.Machine
end

section
/-! PROOFS. Every step keeps the invariant; RESET. -/

namespace Sys2Proof.Machine

/-! ## Boundaries, halt and shutdown (R579, R637, R670) -/

section
variable (s : State)

theorem State.keeps_pxMove (p : PxOperand) (d : Word) : s.Keeps (s.pxMove p d) := by
  unfold State.pxMove
  dsimp only
  split
  · have hstore : s.Keeps ((s.emit (.ioRead 0x00FA .word d)).writeWord
        (linear p.seg.base (BitVec.ofNat 16 p.offset)) d) :=
      (s.keeps_emit _).trans (State.keeps_writeWord _ _ d)
    exact hstore.trans (.of_same rfl rfl rfl)
  · split
    · exact .of_same rfl rfl rfl
    · exact s.keeps_enterStuck

theorem State.keeps_accept (e : BoundaryEvent) : s.Keeps (s.accept e) := by
  cases e <;> exact .of_same rfl rfl rfl

theorem State.keeps_begin : s.Keeps s.begin := by
  rw [State.begin_eq]
  exact .of_same rfl rfl rfl

theorem State.keeps_ready (i : Instr) (n : Nat) : s.Keeps (s.ready i n) := by
  rw [State.ready_eq]
  exact .of_same rfl rfl rfl

theorem State.keeps_sample : s.Keeps s.sample := .of_mem rfl rfl State.wf_sample

/-- The selector of CS is free in real address mode: the segment is of 64K bytes all the same. -/
theorem State.keeps_csSel (sel : Word) : s.Keeps { s with cs := { s.cs with sel := sel } } :=
  ⟨rfl, fun _ => ⟨rfl, rfl⟩, id⟩

end

section
variable {s : State}

theorem servePereq_keeps {t : State} (h : s.servePereq = some t) : s.Keeps t := by
  unfold State.servePereq at h
  split at h
  next d rest p _ _ =>
    have htaken : s.Keeps { s with pins := { s.pins with pereq := rest } } := .of_same rfl rfl rfl
    dsimp only at h
    split at h
    · cases h
    · split at h
      · cases h
        exact htaken.trans (State.keeps_pxMove _ p d)
      · cases h
        exact .of_same rfl rfl rfl
  next => cases h

theorem boundary_keeps {o : Host.Outcome State Fault Refusal} (h : s.boundary = some o) :
    OutcomeKeeps s o := by
  unfold State.boundary at h
  split at h
  next t ht =>
    cases h
    exact .next (servePereq_keeps ht)
  next =>
    obtain ⟨e, -, rfl⟩ := Option.map_eq_some_iff.1 h
    exact .after (s.keeps_accept e) (deliver_keeps _ _ _ _ _ _)

/-- The state in which an NMI that ends shutdown is delivered (R670). -/
def State.leaving (s : State) : State :=
  { s.accept .nmi with
    cs := { (s.accept .nmi).cs with sel := Config.freeWord s.draws .shutdownCs } }

theorem State.keeps_leaving : s.Keeps s.leaving :=
  (s.keeps_accept .nmi).trans (State.keeps_csSel _ _)

theorem leads_leaving (ret : RetAddr) : Leads s.leaving s.leaving.Keeps
    (if s.leaving.msw.pe then s.leaving.protEntry 2#8 .nmi ret none
      else s.leaving.realEntry 2#8 .nmi ret) :=
  .ite (fun hp => leads_protEntry hp _ _ _ _) fun _ => leads_realEntry _ _ _ _

/-- An NMI that ends shutdown, or leads into it again (R672). -/
theorem leaveShutdown_keeps : OutcomeKeeps s s.leaveShutdown := by
  have hentry := leads_leaving (s := s)
    { cs := Config.freeWord s.draws .shutdownCs, ip := Config.freeWord s.draws .shutdownIp }
  have hleaving := State.keeps_leaving (s := s)
  unfold State.leaveShutdown
  dsimp only
  split
  next u hu => exact .next (hleaving.trans (hentry.of_eq hu))
  next => exact .refused s _
  next u hu => exact .next ((hleaving.trans (hentry.of_eq hu)).trans u.keeps_enterShutdown)
  next u hu =>
    exact .next (((hleaving.trans (hentry.of_eq hu)).trans u.keeps_enterStuck).trans
      (State.keeps_release _ s))
  next left hu =>
    have hleft : s.leaving.Keeps (left.stateOr s.leaving) := hentry.of_eq hu
    exact .next ((hleaving.trans hleft).trans (State.keeps_enterShutdown _))

theorem shutdownStep_keeps : OutcomeKeeps s s.shutdownStep := by
  unfold State.shutdownStep
  split
  next t ht => exact .next (servePereq_keeps ht)
  next =>
    split
    · exact leaveShutdown_keeps
    · exact .next (.refl s)

theorem haltStep_keeps : OutcomeKeeps s s.haltStep := by
  unfold State.haltStep
  split
  next o ho => exact boundary_keeps ho
  next => exact .next (.refl s)

/-! ## Instructions (R46, R48, R226) -/

/-- LMSW sets PE or leaves it, so that a state in real address mode was in it before (R604). -/
theorem State.inv_mswLoaded (v : Word) (stale : List Host.Cell) (h : s.inv = true) :
    State.inv { s with
      msw := s.msw.load v, modeSwitch := !s.msw.pe && v.getLsbD 0, stale := stale } = true := by
  rw [State.inv_iff] at h ⊢
  obtain ⟨hm, hp | hreal⟩ := h
  · exact ⟨hm, .inl (by simp [Msw.load, hp])⟩
  · exact ⟨hm, .inr hreal⟩

theorem exec_inv {i : Instr} {t : State} (hs : s.inv = true) (h : exec i s = .next t) :
    t.inv = true := by
  obtain ⟨rm, v, stale, rfl, rfl⟩ | ⟨m, r, rfl, rfl⟩ | ⟨m, r, rfl, rfl⟩ | hk := exec_next h
  · exact State.inv_mswLoaded v stale hs
  · exact hs
  · exact hs
  · exact hk.inv hs

theorem fetch_run {i : Instr} {t : State} (h : s.fetch = .run i t) : ∃ n, t = s.ready i n := by
  unfold State.fetch at h
  split at h
  next j rest _ =>
    split at h
    · cases h
    · split at h
      · cases h
        exact ⟨_, rfl⟩
      · split at h <;> cases h
  next => split at h <;> cases h
  next =>
    split at h
    · cases h
    · split at h <;> cases h

theorem unlistedOutcome_keeps : OutcomeKeeps s s.unlistedOutcome := by
  unfold State.unlistedOutcome
  split
  · exact .refused s _
  · exact takeException_keeps _ _ (.refl s)

theorem endInstr_inv {i : Instr} {o : Host.Outcome State Fault Refusal} {t : State}
    (ho : ∀ u, o = .next u → u.inv = true) (h : endInstr i o = .next t) : t.inv = true := by
  rw [endInstr_eq] at h
  cases o with
  | next u =>
    cases h
    exact ho u rfl
  | _ => cases h

theorem runNext_inv {t : State} (hs : s.inv = true) (h : s.runNext = .next t) : t.inv = true := by
  have hbegin := s.keeps_begin
  unfold State.runNext at h
  split at h
  next i u hu =>
    obtain ⟨n, rfl⟩ := fetch_run hu
    have hready := (hbegin.trans (State.keeps_ready _ i n)).inv hs
    exact endInstr_inv (fun _ => exec_inv hready) h
  next => exact (hbegin.trans (takeException_keeps _ _ (.refl _) t h)).inv hs
  next =>
    cases h
    exact (hbegin.trans (State.keeps_enterStuck _)).inv hs
  next => exact (hbegin.trans (unlistedOutcome_keeps t h)).inv hs
  next => cases h

theorem runStep_inv {t : State} (hs : s.inv = true) (h : s.runStep = .next t) : t.inv = true := by
  unfold State.runStep at h
  split at h
  · split at h
    next o ho => exact (boundary_keeps ho t h).inv hs
    next => exact runNext_inv hs h
  · exact runNext_inv hs h

/-! ## The two ends of a step (R131, R132, R708, R761) -/

theorem act_inv {t : State} (hs : s.inv = true) (h : s.act = .next t) : t.inv = true := by
  unfold State.act at h
  split at h
  · cases h
    exact hs
  · exact (shutdownStep_keeps t h).inv hs
  · exact (haltStep_keeps t h).inv hs
  · exact runStep_inv hs h
  · cases h
    exact hs

/-- A step cut short is in the state it began in, but for memory. -/
theorem State.keeps_cutTo (t : State) (n e : Nat) : s.Keeps (s.cutTo t n e) :=
  .of_mem rfl rfl (State.wf_cutTo t n e)

theorem State.storesAnswered_inv {t : State} (hs : s.inv = true) (ht : t.inv = true) :
    (s.storesAnswered t).inv = true := by
  unfold State.storesAnswered
  dsimp only
  split
  · exact ht
  · exact ((State.keeps_cutTo t _ _).trans (State.keeps_enterStuck _)).inv hs

theorem State.answered_inv {o : Host.Outcome State Fault Refusal} {u : State} (hs : s.inv = true)
    (ho : ∀ t, o = .next t → t.inv = true) (h : s.answered o = .next u) : u.inv = true := by
  cases o with
  | next t =>
    have ht := ho t rfl
    simp only [State.answered] at h
    split at h
    · cases h
      exact ht
    · cases h
      split
      · exact ((State.keeps_cutTo _ _ _).trans (State.keeps_enterStuck _)).inv hs
      · exact State.storesAnswered_inv hs ht
  | _ => cases h

theorem State.settle_inv {t : State} (hs : s.inv = true) (ht : t.inv = true) :
    (s.settle t).inv = true := by
  have hm := State.wf_settle (State.wf_of_inv hs) (State.wf_of_inv ht)
  have hkeeps : t.Keeps (s.settle t) := by
    rw [State.settle_eq]
    exact .of_mem rfl rfl fun _ => hm
  exact hkeeps.inv ht

theorem State.settled_inv {o : Host.Outcome State Fault Refusal} {u : State} (hs : s.inv = true)
    (ho : ∀ t, o = .next t → t.inv = true) (h : s.settled o = .next u) : u.inv = true := by
  cases o with
  | next t =>
    cases h
    exact State.settle_inv hs (ho t rfl)
  | _ => cases h

/-- Reset meets the invariant over any memory in canonical form (R70 to R75). -/
theorem State.inv_applyReset (h : Memory.wf s.mem = true) : s.applyReset.inv = true :=
  (State.inv_iff _).2 ⟨h, .inr ⟨rfl, rfl, rfl, rfl, rfl, rfl, rfl⟩⟩

theorem State.inv_cutByReset (t : State) (hs : s.inv = true) :
    (s.cutByReset t).inv = true :=
  State.inv_applyReset (State.wf_cutByReset t (State.wf_of_inv hs))

theorem State.resetOutcome_inv {o : Host.Outcome State Fault Refusal} {u : State}
    (hs : s.inv = true) (h : s.resetOutcome o = .next u) : u.inv = true := by
  unfold State.resetOutcome at h
  split at h
  · cases h
    exact State.inv_cutByReset _ hs
  · split at h
    · cases h
      exact State.inv_cutByReset _ hs
    · cases h
  next hnext _ => exact absurd h (hnext u)

end

/-- Settles O3: what a step does keeps the invariant, whichever of its parts it is, and its two ends
change memory alone. -/
theorem everyStepKeepsTheInvariant : Obligations.EveryStepKeepsTheInvariant := by
  intro s t hs h
  have hsample : s.sample.inv = true := s.keeps_sample.inv hs
  unfold step at h
  split at h
  · cases h
    exact State.inv_applyReset (State.wf_of_inv hs)
  · split at h
    · exact State.resetOutcome_inv hsample h
    · exact State.settled_inv hsample
        (fun u hu => State.answered_inv hsample (fun v hv => act_inv hsample hv) hu) h

/-- Settles O4. -/
theorem resetMeetsTheInvariant : Obligations.ResetMeetsTheInvariant := by
  unfold Obligations.ResetMeetsTheInvariant
  decide

/-- Settles O9. -/
theorem resetRegisters : Obligations.ResetRegisters := by
  unfold Obligations.ResetRegisters
  decide

end Sys2Proof.Machine
end

section
/-! PROOFS. RESET from any state. -/

namespace Sys2Proof.Machine

/-- A step in the course of which RESET becomes active ends in the reset of a part of it (R761). -/
theorem step_resetDuring {s u : State} (h : s.pins.reset = false) (hd : s.pins.resetDuring = true)
    (hw : s.sample.work = .next u) : step s = .next (s.sample.cutByReset u) := by
  simp [step, h, hd, hw, State.resetOutcome]

/-- The part of a step that RESET leaves, before reset values are given (R761). -/
def State.cutPart (s t : State) : State :=
  { s.cutAt t true with pins := { t.pins with reset := true, resetDuring := false } }

theorem State.cutByReset_eq (s t : State) :
    s.cutByReset t = (s.settle (s.cutPart t)).applyReset := rfl

/-- RESET in the course of a step stays active, in the system it began in. -/
theorem State.cutByReset_system (s t : State) :
    (s.cutByReset t).pins.reset = true ∧ (s.cutByReset t).platform = s.platform := by
  rw [State.cutByReset_eq, State.settle_eq]
  exact ⟨rfl, rfl⟩

theorem State.cutByReset_quiet {s : State} (h : s.masterOps = []) (t : State) :
    (s.cutByReset t).mem = (s.cutAt t true).mem ∧ (s.cutByReset t).out = (s.cutAt t true).out := by
  rw [State.cutByReset_eq, State.settle_quiet h]
  exact ⟨rfl, rfl⟩

/-- What has left the machine where a step is cut short is what left it first. -/
theorem State.cutAt_out (s t : State) (reset : Bool) : ∃ k, (s.cutAt t reset).out = t.out.drop k :=
  ⟨_, rfl⟩

/-- Sampling the inputs changes nothing a bus operation depends on. -/
theorem State.sample_storeCells (s : State) : s.sample.storeCells = s.storeCells := rfl

/-- Settles O10: both ways to reset end in `State.applyReset`, of the state itself or of a part of
its step. -/
theorem resetFromAnyState : Obligations.ResetFromAnyState := by
  have hregs (s : State) : s.applyReset.run = .resetActive ∧ s.applyReset.ip = 0xFFF0#16 ∧
      s.applyReset.cs = State.reset.cs ∧ s.applyReset.ds = State.reset.ds ∧
      s.applyReset.es = State.reset.es ∧ s.applyReset.ss = State.reset.ss ∧
      s.applyReset.flags = State.reset.flags ∧ s.applyReset.msw = State.reset.msw ∧
      s.applyReset.idtr = State.reset.idtr ∧ s.applyReset.cpl = 0#2 ∧
      s.applyReset.nmiPending = false ∧ s.applyReset.nmiInService = false :=
    ⟨rfl, rfl, rfl, rfl, rfl, rfl, rfl, rfl, rfl, rfl, rfl, rfl⟩
  refine ⟨fun s h => ⟨_, step_reset h, hregs s, rfl, rfl⟩, fun s u h hd hw => ?_⟩
  obtain ⟨hreset, hplatform⟩ := s.sample.cutByReset_system u
  refine ⟨_, step_resetDuring h hd hw, hregs _, hreset, hplatform, fun hq => ?_⟩
  obtain ⟨hmem, hout⟩ := State.cutByReset_quiet (State.sample_masterOps hq) u
  obtain ⟨n, hn, hcut⟩ := s.sample.cutAt_mem u true
  obtain ⟨k, hk⟩ := s.sample.cutAt_out u true
  rw [State.sample_storeCells, State.sample_mem_quiet hq] at hcut
  exact ⟨n, k, hn, hmem.trans hcut, hout.trans hk⟩

end Sys2Proof.Machine
end

section
/-! PROOFS. The flag instructions, halt, and IOPL and NT in real address mode. -/

namespace Sys2Proof.Machine

/-! ## IOPL and NT (R46) -/

/-- Bits 12 to 14 of FLAGS are IOPL and NT (R41). -/
theorem Flags.toWord_level (f : Flags) :
    f.toWord.extractLsb' 12 3 = BitVec.ofBool f.nt ++ f.iopl := by
  apply BitVec.eq_of_getLsbD_eq
  intro i hi
  simp only [Flags.toWord, BitVec.getLsbD_extractLsb', BitVec.getLsbD_append]
  interval_cases i <;> simp

theorem Flags.toWord_level_eq {f g : Flags} (h : f.sameLevel g) :
    g.toWord.extractLsb' 12 3 = f.toWord.extractLsb' 12 3 := by
  obtain ⟨hiopl, hnt⟩ := h
  rw [Flags.toWord_level, Flags.toWord_level, hiopl, hnt]

/-- Settles O18: every instruction keeps IOPL and NT in real address mode (`State.Keeps.level`). -/
theorem realModeKeepsIoplAndNt : Obligations.RealModeKeepsIoplAndNt := by
  refine ⟨by decide, fun s t hp h => Flags.toWord_level_eq ?_⟩
  obtain h | h := h
  · exact (execPopf_keeps s t h).level hp
  · exact (finish_keeps (leads_interruptReturn s) t h).level hp

/-! ## The flag instructions, HLT and CTS (R561 to R568, R574) -/

section
variable {s : State}

theorem State.checkIopl_of (h : s.msw.pe = false ∨ s.cpl ≤ s.flags.iopl) :
    s.checkIopl = .ok () := (s.checkIopl_eq_ok ()).2 h

theorem State.checkCpl0_of (h : s.msw.pe = false ∨ s.cpl = 0#2) : s.checkCpl0 = .ok () :=
  (s.checkCpl0_eq_ok ()).2 h

theorem exec_cli_of (h : s.msw.pe = false ∨ s.cpl ≤ s.flags.iopl) :
    exec .cli s = .next { s with flags := { s.flags with intf := false } } := by
  change s.finish (s.checkIopl >>= _) = _
  rw [State.checkIopl_of h]
  rfl

theorem exec_sti_of (h : s.msw.pe = false ∨ s.cpl ≤ s.flags.iopl) :
    exec .sti s =
      .next { s with flags := { s.flags with intf := true }, intInhibit := true } := by
  change s.finish (s.checkIopl >>= _) = _
  rw [State.checkIopl_of h]
  rfl

theorem exec_hlt_of (h : s.msw.pe = false ∨ s.cpl = 0#2) :
    exec .hlt s = .next { s with run := .halted, out := .haltCycle :: s.out } := by
  change s.finish (s.checkCpl0 >>= _) = _
  rw [State.checkCpl0_of h]
  rfl

theorem exec_cts_of (h : s.msw.pe = false ∨ s.cpl = 0#2) :
    exec .cts s = .next { s with msw := { s.msw with ts := false } } := by
  change s.finish (s.checkCpl0 >>= _) = _
  rw [State.checkCpl0_of h]
  rfl

/-! ## A halted step (R673) -/

/-- No event is due at a boundary where no input or latch asks for one (R637). -/
theorem State.nextEvent_of_quiet (htf : s.tfAtStart = false) (hnmi : s.nmiPending = false)
    (hpx : s.pxOverrun = false) (hintr : s.pins.intr = false) : s.nextEvent = none := by
  simp [State.nextEvent, State.due, htf, hnmi, hpx, hintr]

theorem State.servePereq_of_none (h : s.pins.pereq = []) : s.servePereq = none := by
  simp [State.servePereq, h]

/-- A halted machine at whose boundary nothing is due does nothing. -/
theorem State.act_of_halted (h : s.run = .halted) (hpereq : s.pins.pereq = [])
    (he : s.nextEvent = none) : s.act = .next s := by
  simp [State.act, h, State.haltStep, State.boundary, State.servePereq_of_none hpereq, he]

/-- A step of a halted machine with no input active (R568, R673). -/
theorem step_of_halted (hrun : s.run = .halted) (hreset : s.pins.reset = false)
    (hduring : s.pins.resetDuring = false) (hintr : s.pins.intr = false)
    (hnmi : s.pins.nmi = false) (hpereq : s.pins.pereq = []) (hmaster : s.pins.masterStores = [])
    (hpending : s.nmiPending = false) (hpx : s.pxOverrun = false) (htf : s.tfAtStart = false) :
    step s = .next { s with
      nmiLast := false, stores := [], draws := s.draws + 1, clock := s.sample.clock
      flushed := none } := by
  have hsample : s.sample = { s with
      nmiLast := false, stores := [], draws := s.draws + 1, clock := s.sample.clock
      flushed := none } := (State.sample_quiet (.inr hmaster)).trans (by simp [hnmi])
  have hpending' : s.sample.nmiPending = false := by rw [hsample, hpending]
  have hact := State.act_of_halted (s := s.sample) hrun hpereq
    (State.nextEvent_of_quiet htf hpending' hpx hintr)
  have hans : s.sample.answered (.next s.sample) = .next s.sample :=
    State.answered_of_no_stores (by rw [show s.sample.run = .halted from hrun]; decide) rfl
  rw [step_of_no_reset hreset hduring, hact, hans,
    State.settled_quiet (State.sample_masterOps (.inr hmaster))]
  exact congrArg Host.Outcome.next hsample

end

/-- Settles O52: the flag instructions by their meanings, a halted step by what is due at its
boundary. -/
theorem flagInstructionsAndHalt : Obligations.FlagInstructionsAndHalt :=
  ⟨fun _ => ⟨rfl, rfl, rfl, rfl, rfl, fun h => ⟨exec_cli_of h, exec_sti_of h⟩⟩,
    fun _ h => ⟨exec_hlt_of h, exec_cts_of h⟩,
    fun _ hrun hr hd hi hn hp hm hl hx ht => step_of_halted hrun hr hd hi hn hp hm hl hx ht⟩

end Sys2Proof.Machine
end

section
/-! PROOFS. Loads of a segment register. -/

namespace Sys2Proof.Machine

/-! ## What is read before the load -/

/-- A pointer operand that may be read and answers (R23, R121). -/
theorem State.readPointer_of_ready {s : State} {r : SReg} {off : Word}
    (h : s.wordsReady r off 2 = true) :
    s.readPointer r off = .ok (s.busWord 0 (linear (s.seg r).base off),
      s.busWord 1 (linear (s.seg r).base (off + 2))) := by
  simp only [State.wordsReady, Bool.and_eq_true] at h
  obtain ⟨hok, hans⟩ := h
  simp only [State.wordsAnswer, List.range_succ, List.range_zero, List.nil_append, List.cons_append,
    List.all_cons, List.all_nil, Bool.and_true, Bool.and_eq_true] at hans
  rw [State.readPointer_of hok (by simpa using hans.1) hans.2]
  rfl

theorem State.above_zero (s : State) : s.above 0 = linear s.ss.base s.regs.sp := by
  simp [State.above]

theorem State.stackTop_of_ready {s : State} (h : s.popReady s.regs.sp = true) :
    s.stackTop = .ok (s.busWord 0 (s.above 0)) := by
  rw [State.above_zero]
  exact State.popWord_of_ready h

/-- In real address mode a word may be popped where it may be read (R372). -/
theorem State.popReady_of_readReady {s : State} (hp : s.msw.pe = false) {sp : Word}
    (h : s.readReady .ss sp .word = true) : s.popReady sp = true := by
  simp only [State.readReady, Bool.and_eq_true] at h
  simp only [State.popReady, State.popAdmitted, hp, Bool.false_and, Bool.not_false, Bool.and_true,
    Bool.and_eq_true]
  exact h

/-! ## The instructions that load one (R346, R352, R366, R367) -/

/-- An instruction is a load of a segment register with a selector, and an update after it. -/
def IsLoad (i : Instr) (s : State) (r : SReg) (sel : Word) (after : State → State) : Prop :=
  exec i s = s.finish (do
    let t ← s.loadSeg r sel
    .ok (after t))

section
variable {s : State}

theorem isLoad_movSregRm {rm : RM} (r : SReg) (h : s.rmReady .read .word rm = true) :
    IsLoad (.movSregRm r rm) s r (s.rmValue .word rm) (·.inhibitAfter r) := by
  change s.finish (s.readRM .word rm >>= _) = _
  rw [State.readRM_of_ready h]
  rfl

theorem isLoad_pop {i : Instr} {r : SReg} (hi : exec i s = s.finish (s.popSeg r))
    (h : s.popReady s.regs.sp = true) :
    IsLoad i s r (s.busWord 0 (s.above 0)) fun t => (t.setSp (s.regs.sp + 2)).inhibitAfter r := by
  rw [IsLoad, hi, State.popSeg, State.stackTop_of_ready h]
  rfl

theorem isLoad_pointer {i : Instr} {r : SReg} {reg : RegNum} {m : Mem}
    (hi : exec i s = s.finish (s.loadPointer r reg m))
    (h : s.wordsReady (s.memSeg m) (s.ea m) 2 = true) :
    IsLoad i s r (s.busWord 1 (linear (s.seg (s.memSeg m)).base (s.ea m + 2)))
      (·.setReg .word reg (s.busWord 0 (linear (s.seg (s.memSeg m)).base (s.ea m)))) := by
  rw [IsLoad, hi, State.loadPointer, State.readPointer_of_ready h]
  rfl

/-! ## Real address mode (R48) -/

theorem realSeg_eq_realCs (sel : Word) : realSeg sel (sel.setWidth 24 <<< 4) = realCs sel := by
  have hbase : sel.setWidth 24 <<< 4 = BitVec.ofNat 24 (16 * sel.toNat) := by
    apply BitVec.eq_of_toNat_eq
    simp [BitVec.toNat_shiftLeft, Nat.shiftLeft_eq]
    omega
  rw [realSeg, realCs, hbase]

theorem IsLoad.next_real {i : Instr} {r : SReg} {sel : Word} {after : State → State}
    (h : IsLoad i s r sel after) (hp : s.msw.pe = false) :
    exec i s = .next (after (s.setSeg r (realCs sel))) := by
  rw [h, State.loadSeg_real r sel hp, State.loadReal, realSeg_eq_realCs]
  rfl

end

/-- Settles O13: each instruction is a load, which reads nothing in real address mode. -/
theorem segmentLoadsInRealMode : Obligations.SegmentLoadsInRealMode := by
  intro s hp
  refine ⟨fun r rm _ h => ?_, fun h => ?_, fun reg m h => ?_⟩
  · rw [(isLoad_movSregRm r h).next_real hp]
    cases r <;> rfl
  · have hpop := State.popReady_of_readReady hp h
    have hes := (isLoad_pop (i := .popEs) rfl hpop).next_real hp
    have hds := (isLoad_pop (i := .popDs) rfl hpop).next_real hp
    have hss := (isLoad_pop (i := .popSs) rfl hpop).next_real hp
    refine ⟨hes.trans ?_, hds.trans ?_, hss.trans ?_⟩ <;>
      simp [State.inhibitAfter, State.setSeg, State.setSp]
  · exact ⟨(isLoad_pointer (i := .lds reg m) rfl h).next_real hp,
      (isLoad_pointer (i := .les reg m) rfl h).next_real hp⟩

end Sys2Proof.Machine
end

section
/-! PROOFS. Loads of a segment register in protected mode. -/

namespace Sys2Proof.Machine

/-! ## The tests on a descriptor (R191, R192) -/

/-- Two tests that raise the same. -/
theorem require_bind_and {β : Type} (a b : Bool) (v : Nat) (code : Word) (f : Unit → Exec β) :
    (do require a v code; require b v code >>= f) = require (a && b) v code >>= f := by
  cases a <;> cases b <;> rfl

theorem maxPl_le (a b c : BitVec 2) : maxPl a b ≤ c ↔ a ≤ c ∧ b ≤ c := by
  revert a b c
  decide

/-- The tests of R191 and R192 but that of presence, for a segment register. -/
def segFits (r : SReg) (cpl : BitVec 2) (sel : Word) (d : Desc) : Bool :=
  if r = .ss then rpl sel == cpl && (arWritable d.ar && arDpl d.ar == cpl)
  else arSegment d.ar && ((!arExec d.ar || arRw d.ar) &&
    ((arExec d.ar && arDirConf d.ar) || decide (maxPl cpl (rpl sel) ≤ arDpl d.ar)))

theorem segFits_iff (r : SReg) (cpl : BitVec 2) (sel : Word) (d : Desc) :
    segFits r cpl sel d = true ↔ segAdmits r cpl sel d := by
  unfold segFits segAdmits
  split
  · simp [stackAdmits, arWritable, and_assoc]
  · simp [dataAdmits, maxPl_le, imp_iff_not_or]

theorem selCode_zero (sel : Word) : selCode sel 0#16 = sel &&& 0xFFFC#16 := by simp [selCode]

section
variable {s : State}

theorem State.descriptor_outside {sel : Word} (h : s.descAddr sel = none) (i v : Nat)
    (code : Word) :
    s.descriptor i sel v code = raise v code := by
  simp [State.descriptor, h]

theorem State.descriptor_found {sel : Word} {a : Addr} (h : s.descAddr sel = some a)
    (ha : s.answersAt a 6 = true) (i v : Nat) (code : Word) :
    s.descriptor i sel v code = .ok (a, s.busDesc i a) :=
  (State.descriptor_eq_ok _ _ _ _ _ _).2 ⟨a, h, ha, rfl⟩

/-! ## What a load does with a selector (R191, R192, R196) -/

section
variable {sel : Word} (hp : s.msw.pe = true)
include hp

theorem State.loadSeg_null_ss (hn : isNull sel = true) : s.loadSeg .ss sel = raise 13 0#16 := by
  simp [State.loadSeg, hp, State.stackDesc, hn]

theorem State.loadSeg_null {r : SReg} (hn : isNull sel = true) (hr : r ≠ .ss) :
    s.loadSeg r sel = .ok (s.setSeg r ((s.seg r).loadNull sel)) := by
  cases r with
  | ss => exact absurd rfl hr
  | _ => simp [State.loadSeg, hp, State.dataDesc, hn, State.putData]

theorem State.loadSeg_outside {r : SReg} (hn : isNull sel = false) (h : s.descAddr sel = none) :
    s.loadSeg r sel = raise 13 (sel &&& 0xFFFC#16) := by
  cases r <;>
    simp [State.loadSeg, hp, State.stackDesc, State.dataDesc, hn, State.descriptor_outside h,
      selCode_zero]

/-- A selector whose descriptor is read: the tests, and the load. -/
theorem State.loadSeg_found {r : SReg} {a : Addr} (hn : isNull sel = false)
    (h : s.descAddr sel = some a) (ha : s.answersAt a 6 = true) :
    s.loadSeg r sel = (do
      require (segFits r s.cpl sel (s.busDesc 2 a)) 13 (sel &&& 0xFFFC#16)
      require (arPresent (s.busDesc 2 a).ar) (if r = .ss then 12 else 11) (sel &&& 0xFFFC#16)
      .ok ((s.setAccessed a (s.busDesc 2 a)).setSeg r (SegReg.ofDesc sel (s.busDesc 2 a)))) := by
  cases r with
  | ss =>
    simp only [State.loadSeg, hp, ↓reduceIte, State.stackDesc, hn, Bool.not_false, require_true,
      Exec.ok_bind, State.descriptor_found h ha, selCode_zero, bind_assoc, segFits,
      ← require_bind_and]
    rfl
  | _ =>
    simp only [State.loadSeg, hp, ↓reduceIte, State.dataDesc, hn, Bool.false_eq_true, reduceCtorEq,
      Exec.ok_bind, State.descriptor_found h ha, selCode_zero, bind_assoc, segFits,
      ← require_bind_and]
    rfl

end

/-! ## What a load leaves (R160) -/

/-- Setting the accessed bit changes memory alone, with the record of stores and older code
bytes. -/
theorem State.setAccessed_eq (s : State) (a : Addr) (d : Desc) :
    s.setAccessed a d = { s with
      mem := (s.setAccessed a d).mem
      stale := (s.setAccessed a d).stale
      stores := (s.setAccessed a d).stores } := by
  unfold State.setAccessed
  split <;> rfl

theorem State.readByte_setAccessed (s : State) (a : Addr) (d : Desc) (b : Addr) :
    (s.setAccessed a d).readByte b =
      if arAccessed d.ar then s.readByte b
      else (s.writeByte (a + 5) (d.ar ||| 1#8)).readByte b := by
  unfold State.setAccessed
  split <;> rfl

theorem State.accessedAt_setAccessed (s : State) (a : Addr) (d : Desc) :
    s.accessedAt (s.setAccessed a d) a d := by
  refine ⟨fun hram => ?_, fun b hb => ?_⟩
  · rw [State.readByte_setAccessed, State.accessedByte]
    split
    · rfl
    · exact State.readByte_writeByte_same _ (State.isRam_one hram)
  · rw [State.readByte_setAccessed]
    split
    · rfl
    · exact State.readByte_writeByte_ne _ (by simpa [State.apart] using hb 0 (by decide))

/-- What memory shows is that of a state with the same memory, mode and system. -/
theorem State.accessedAt_congr {t u : State} {a : Addr} {d : Desc} (h : s.accessedAt t a d)
    (hr : ∀ b, u.readByte b = t.readByte b) : s.accessedAt u a d :=
  ⟨fun hram => (hr _).trans (h.1 hram), fun b hb => (hr b).trans (h.2 b hb)⟩

/-- The update after a load gives the general registers of u, which is s but for them, and the
interrupt inhibit after a load of SS (R64). -/
def FinishesLoad (s u : State) (r : SReg) (after : State → State) : Prop :=
  u = { s with regs := u.regs } ∧ ∀ t : State, t.regs = s.regs → t.intInhibit = s.intInhibit →
    after t = { t with regs := u.regs, intInhibit := s.intInhibit || r == .ss }

theorem FinishesLoad.null {u : State} {r : SReg} {after : State → State}
    (h : FinishesLoad s u r after) (v : SegReg) (hr : r ≠ .ss) :
    after (s.setSeg r v) = u.setSeg r v := by
  obtain ⟨hu, hafter⟩ := h
  rw [hafter _ (by simp) (by simp), hu]
  cases r with
  | ss => exact absurd rfl hr
  | _ => simp [State.setSeg]

/-- A segment register loaded, its accessed bit set and the update made (R160, R191). -/
theorem FinishesLoad.found {u : State} {r : SReg} {after : State → State}
    (h : FinishesLoad s u r after) (sel : Word) (a : Addr) (d : Desc) :
    ∃ t, after ((s.setAccessed a d).setSeg r (SegReg.ofDesc sel d)) = t ∧
      (t.seg r).loadedFrom sel d ∧ s.accessedAt t a d ∧
      t = { u.setSeg r (t.seg r) with
        mem := t.mem, stale := t.stale, stores := t.stores
        intInhibit := s.intInhibit || r == .ss } := by
  obtain ⟨hu, hafter⟩ := h
  rw [hafter _ (by simp) (by simp)]
  generalize u.regs = regs at hu
  subst hu
  refine ⟨_, rfl, ?_, State.accessedAt_congr (s.accessedAt_setAccessed a d) fun b => ?_, ?_⟩
  · cases r <;> exact ⟨rfl, rfl, rfl, rfl, rfl⟩
  · cases r <;> rfl
  · rw [State.setAccessed_eq]
    cases r <;> rfl

/-- A load in protected mode: each outcome of `State.loadSeg` as that of the instruction. -/
theorem IsLoad.loadsSegment {i : Instr} {u : State} {r : SReg} {sel : Word}
    {after : State → State} (h : IsLoad i s r sel after) (hp : s.msw.pe = true)
    (hf : FinishesLoad s u r after) : loadsSegment i s u r sel := by
  have hraise {v : Nat} {code : Word} (hl : s.loadSeg r sel = raise v code) :
      exec i s = s.takeException (BitVec.ofNat 8 v) code .unchanged := by
    rw [h, hl]
    rfl
  refine ⟨fun hn hr => ?_, fun hn hr => ?_, fun hn ha => ?_, fun a hn ha hans => ?_⟩
  · subst hr
    exact hraise (State.loadSeg_null_ss hp hn)
  · rw [h, State.loadSeg_null hp hn hr]
    exact congrArg Host.Outcome.next (hf.null _ hr)
  · exact hraise (State.loadSeg_outside hp hn ha)
  · intro d
    have hl := State.loadSeg_found (r := r) hp hn ha hans
    refine ⟨fun hfit => ?_, fun hfit habs => ?_, fun hfit hpres => ?_⟩
    · rw [← segFits_iff, Bool.not_eq_true] at hfit
      rw [hfit] at hl
      exact hraise hl
    · rw [(segFits_iff ..).2 hfit, habs] at hl
      cases r <;> exact hraise hl
    · rw [(segFits_iff ..).2 hfit, hpres] at hl
      obtain ⟨t, ht, hloaded⟩ := hf.found sel a d
      refine ⟨t, ?_, hloaded⟩
      rw [h, hl, ← ht]
      rfl

/-! ## The updates after a load -/

theorem finishesLoad_mov (s : State) (r : SReg) : FinishesLoad s s r (·.inhibitAfter r) :=
  ⟨rfl, fun t hregs hinh => by simp [State.inhibitAfter, hinh, ← hregs]⟩

theorem finishesLoad_pop (s : State) (r : SReg) (v : Word) :
    FinishesLoad s (s.setSp v) r fun t => (t.setSp v).inhibitAfter r :=
  ⟨rfl, fun t hregs hinh => by simp [State.inhibitAfter, State.setSp, hregs, hinh]⟩

theorem finishesLoad_pointer (s : State) {r : SReg} (hr : r ≠ .ss) (reg : RegNum) (v : Word) :
    FinishesLoad s (s.setReg .word reg v) r (·.setReg .word reg v) :=
  ⟨rfl, fun t hregs hinh => by simp [State.setReg, hregs, hinh, hr]⟩

end

/-- Settles O14: each instruction is a load with an update after it, and the load is told by
`State.loadSeg_found` and the lemmas before it. -/
theorem segmentLoadsInProtectedMode : Obligations.SegmentLoadsInProtectedMode := by
  intro s hp
  refine ⟨fun r rm _ h => ?_, fun h => ⟨?_, ?_, ?_⟩, fun reg m h => ⟨?_, ?_⟩⟩
  · exact (isLoad_movSregRm r h).loadsSegment hp (finishesLoad_mov s r)
  · exact (isLoad_pop (i := .popDs) rfl h).loadsSegment hp (finishesLoad_pop s _ _)
  · exact (isLoad_pop (i := .popEs) rfl h).loadsSegment hp (finishesLoad_pop s _ _)
  · exact (isLoad_pop (i := .popSs) rfl h).loadsSegment hp (finishesLoad_pop s _ _)
  · exact (isLoad_pointer (i := .lds reg m) rfl h).loadsSegment hp
      (finishesLoad_pointer s (by decide) reg _)
  · exact (isLoad_pointer (i := .les reg m) rfl h).loadsSegment hp
      (finishesLoad_pointer s (by decide) reg _)

end Sys2Proof.Machine
end

section
/-! PROOFS. Several words on the stack, and the entry of an exception in real address mode. -/

namespace Sys2Proof.Machine

/-! ## Offsets of one segment are locations of their own (R103, R104) -/

theorem State.physAddr_linear_ne (s : State) (base : Addr) {a b : Word} (h : a ≠ b) :
    s.physAddr (linear base a) ≠ s.physAddr (linear base b) := by
  have hlin (x : Word) : (linear base x).toNat = (base.toNat + x.toNat) % 2 ^ 24 := by
    simp [linear, BitVec.toNat_add]
  have hne : a.toNat ≠ b.toNat := fun he => h (BitVec.eq_of_toNat_eq he)
  have ha := a.isLt
  have hb := b.isLt
  simp only [State.physAddr, hlin]
  split <;> omega

/-- Two bytes below the top of the stack, less than 64K bytes apart. -/
theorem State.apart_below (s : State) {m n : Nat} (h : m < n) (hn : n < m + 0x10000) :
    s.apart (s.below m) (s.below n) := by
  refine s.physAddr_linear_ne _ fun he => ?_
  have : (BitVec.ofNat 16 m).toNat = (BitVec.ofNat 16 n).toNat := by
    rw [(BitVec.sub_right_inj _).1 he]
  simp only [BitVec.toNat_ofNat] at this
  omega

theorem State.pushRaw_below (s : State) (v : Word) (n : Nat) :
    (s.pushRaw v).below n = s.below (n + 2) := by
  have : s.regs.sp - 2 - BitVec.ofNat 16 n = s.regs.sp - BitVec.ofNat 16 (n + 2) := by
    rw [BitVec.ofNat_add]
    bv_omega
  simp only [State.below, State.pushRaw_ss, State.pushRaw_regs, this]

/-! ## Words pushed one after the other (R16) -/

/-- What is pushed is seen in memory and SP alone. -/
theorem State.pushed_congr {s t u : State} {vs : List Word} (h : s.pushed t vs)
    (hsp : u.regs.sp = t.regs.sp) (hr : ∀ b, u.readByte b = t.readByte b) : s.pushed u vs := by
  obtain ⟨h1, h2, h3⟩ := h
  refine ⟨hsp.trans h1, fun i hi hram => ?_, fun b hb => (hr b).trans (h3 b hb)⟩
  rw [← h2 i hi hram, State.readWord, State.readWord, hr, hr]

/-- Words pushed are below the old top of the stack in their order, where none has SP = 0001h. -/
theorem State.pushed_pushAllRaw (vs : List Word) (s : State) (hlen : vs.length < 0x8000)
    (hsp : ∀ i < vs.length, s.regs.sp - BitVec.ofNat 16 (2 * i) ≠ 1#16) :
    s.pushed (s.pushAllRaw vs) vs := by
  induction vs generalizing s with
  | nil => exact ⟨by simp [State.pushAllRaw], by simp, fun b _ => rfl⟩
  | cons v vs ih =>
    have hlen' : vs.length + 1 < 0x8000 := hlen
    have hsp0 : s.regs.sp ≠ 1#16 := by simpa using hsp 0 (by simp)
    obtain ⟨-, hword, hframe⟩ := State.pushed_pushRaw hsp0 v
    obtain ⟨hsp', hwords, hframe'⟩ := ih (s.pushRaw v) (by omega) fun i hi => by
      have := hsp (i + 1) (by simpa using hi)
      rw [Nat.mul_add, BitVec.ofNat_add] at this
      simp only [State.pushRaw_regs]
      bv_omega
    have hbyte {m : Nat} (hm : 1 ≤ m ∧ m ≤ 2) :
        ((s.pushRaw v).pushAllRaw vs).readByte (s.below m) = (s.pushRaw v).readByte (s.below m) :=
      hframe' _ fun j hj => by
        rw [State.pushRaw_below]
        exact s.apart_below (by omega) (by omega)
    refine ⟨?_, fun i hi hram => ?_, fun b hb => ?_⟩
    · rw [State.pushAllRaw_cons, hsp', State.pushRaw_regs, List.length_cons, Nat.mul_add,
        BitVec.ofNat_add]
      bv_omega
    · cases i with
      | zero =>
        refine Eq.trans ?_ (hword 0 (by simp) hram)
        rw [State.pushAllRaw_cons, State.readWord, State.readWord, Nat.zero_add, Nat.mul_one,
          ← State.below_one hsp0, hbyte (by omega), hbyte (by omega)]
      | succ i =>
        have := hwords i (by simpa using hi)
        rw [State.pushRaw_below] at this
        exact this hram
    · have hfirst : (s.pushRaw v).readByte b = s.readByte b :=
        hframe b fun j hj => hb j (by simp only [List.length_cons, List.length_nil] at hj ⊢; omega)
      rw [State.pushAllRaw_cons, ← hfirst]
      refine hframe' b fun j hj => ?_
      rw [State.pushRaw_below]
      exact hb (j + 2) (by simp only [List.length_cons]; omega)

/-! ## The entry through the table of real address mode (R640) -/

/-- No push of an admitted run of words has SP = 0001h in real address mode (R372). -/
theorem State.sp_of_pushOk_real {s : State} (hp : s.msw.pe = false) {n : Nat}
    (h : s.pushOk n = true) : ∀ i < n, s.regs.sp - BitVec.ofNat 16 (2 * i) ≠ 1#16 := by
  simpa [State.pushOk, hp] using h

theorem State.setFlags_pushRaw (s : State) (f : Flags) (v : Word) :
    (s.setFlags f).pushRaw v = (s.pushRaw v).setFlags f := rfl

/-- Four times a vector is its place in the table. -/
theorem vectorAddr_eq (base : Addr) (n : Byte) :
    base + (n.setWidth 24 <<< 2) = base + BitVec.ofNat 24 (4 * n.toNat) := by
  congr 1
  apply BitVec.eq_of_toNat_eq
  simp [BitVec.toNat_shiftLeft, Nat.shiftLeft_eq]
  omega

/-- The state an entry through the table leads to. -/
def State.realEntered (s : State) (n : Byte) (kind : IntKind) (ret : RetAddr) : State :=
  let a := s.idtr.base + BitVec.ofNat 24 (4 * n.toNat)
  (((s.pushAllRaw [s.flags.toWord, ret.cs, ret.ip]).setFlags
    { s.flags with intf := false, tf := false }).realFar (s.lockedWord 0 (a + 2))
      (s.lockedWord 0 a)).afterEntry kind s.draws

theorem State.realEntry_of {s : State} {n : Byte} (kind : IntKind) (ret : RetAddr)
    (hp : s.msw.pe = false) (hok : s.pushOk 3 = true)
    (hans : s.answersAt (s.idtr.base + BitVec.ofNat 24 (4 * n.toNat)) 4 = true) :
    s.realEntry n kind ret = .ok (s.realEntered n kind ret) := by
  have hsp := State.sp_of_pushOk_real hp hok
  have h0 : s.regs.sp ≠ 1#16 := by simpa using hsp 0 (by decide)
  have h1 : s.regs.sp - 2#16 ≠ 1#16 := hsp 1 (by decide)
  have h2 : s.regs.sp - 2#16 - 2#16 ≠ 1#16 := by
    have : s.regs.sp - 4#16 ≠ 1#16 := hsp 2 (by decide)
    bv_omega
  simp only [State.realEntry, vectorAddr_eq, State.await_of hans, State.push_real _ hp h0,
    Exec.ok_bind]
  rw [State.push_real (s := (s.pushRaw s.flags.toWord).setFlags _) _ (by simpa using hp)
    (by simpa using h1)]
  simp only [Exec.ok_bind]
  rw [State.push_real (s := ((s.pushRaw s.flags.toWord).setFlags _).pushRaw ret.cs) _
    (by simpa using hp) (by simpa using h2)]
  simp only [Exec.ok_bind, State.setFlags_pushRaw]
  rfl

/-- FLAGS, CS and IP written after pushes leave what was pushed. -/
theorem State.pushed_entry {s t : State} {vs : List Word} (h : s.pushed t vs) (f : Flags)
    (sel off : Word) (kind : IntKind) (n : Nat) :
    s.pushed (((t.setFlags f).realFar sel off).afterEntry kind n) vs :=
  State.pushed_congr h rfl fun _ => rfl

/-- What an entry leaves on the stack. -/
theorem State.pushed_realEntered {s : State} (n : Byte) (kind : IntKind) (ret : RetAddr)
    (hp : s.msw.pe = false) (hok : s.pushOk 3 = true) :
    s.pushed (s.realEntered n kind ret) [s.flags.toWord, ret.cs, ret.ip] := by
  unfold State.realEntered
  exact State.pushed_entry (State.pushed_pushAllRaw [s.flags.toWord, ret.cs, ret.ip] s (by simp)
    (State.sp_of_pushOk_real hp hok)) _ _ _ _ _

/-- What an entry leaves apart from the stack: CS:IP of the table, IF and TF clear. -/
theorem State.realEntered_spec (s : State) (n : Byte) (kind : IntKind) (ret : RetAddr) :
    let t := s.realEntered n kind ret
    let a := s.idtr.base + BitVec.ofNat 24 (4 * n.toNat)
    t.flags = { s.flags with intf := false, tf := false } ∧ t.ip = s.lockedWord 0 a ∧
      t.cs = realCs (s.lockedWord 0 (a + 2)) ∧ t.regs = { s.regs with sp := s.regs.sp - 6 } ∧
      t.ss = s.ss ∧ t.ds = s.ds ∧ t.es = s.es ∧ t.run = .running ∧ t.intInhibit = s.intInhibit := by
  have hsp : s.regs.sp - 2#16 - 2#16 - 2#16 = s.regs.sp - 6#16 := by bv_omega
  simp [State.realEntered, State.pushAllRaw, State.realFar, State.afterEntry,
    realSeg_eq_realCs, hsp]

/-! ## The state an exception is delivered in -/

/-- An exception is delivered with the instruction over, and the interrupt inhibit with it (R64). -/
def State.interrupted (s : State) : State :=
  ({ s with tfAtStart := false, intInhibit := false } : State).entering

theorem State.passedAt_interrupted (s : State) (m : Nat) :
    s.interrupted.passedAt m = s.entering.passedAt m := by
  induction m with
  | zero => rfl
  | succ m ih => simp only [State.passedAt, ih]; rfl

theorem State.passed_interrupted (s : State) (m : Nat) :
    s.interrupted.passed m = s.entering.passed m := by
  simp only [State.passed, s.passedAt_interrupted]; rfl

theorem State.knownAt_interrupted (s : State) (k : Nat) :
    s.interrupted.knownAt k = s.entering.knownAt k := by
  simp only [State.knownAt, s.passed_interrupted]; rfl

theorem State.byteSeen_interrupted (s : State) (m k : Nat) :
    s.interrupted.byteSeen m k = s.entering.byteSeen m k := by
  simp only [State.byteSeen, s.passed_interrupted, s.knownAt_interrupted]; rfl

theorem State.lockedWord_interrupted (s : State) (i : Nat) (a : Addr) :
    s.interrupted.lockedWord i a = s.entering.lockedWord i a := by
  simp only [State.lockedWord, State.busByte, s.byteSeen_interrupted]; rfl

theorem State.pushed_interrupted {s t : State} {vs : List Word} (h : s.interrupted.pushed t vs) :
    s.pushed t vs := h

theorem State.interrupted_vectorFits (s : State) (n : Byte) :
    s.interrupted.vectorFits n = s.vectorFits n := rfl

/-- Taking an exception is the entry through its vector. -/
theorem State.takeException_real {s : State} {v : Byte} (code : Word) (hp : s.msw.pe = false)
    (hv : s.vectorFits v = true) (hok : s.pushOk 3 = true)
    (hans : s.answersAt (s.idtr.base + BitVec.ofNat 24 (4 * v.toNat)) 4 = true) :
    s.takeException v code .unchanged =
      .next ((s.interrupted.realEntered v .exception s.here).release s) := by
  let u : State := { s with tfAtStart := false, intInhibit := false }
  have hentry : s.interrupted.realEntry v .exception s.here = _ :=
    State.realEntry_of .exception s.here hp hok hans
  calc s.takeException v code .unchanged
    _ = deliverOutcome u (u.interrupt v .exception s.here s.here
          (if hasCode v then some code else none)) := rfl
    _ = deliverOutcome u (s.interrupted.realEntry v .exception s.here) := by
      rw [State.interrupt_real (s := u) _ _ _ _ hp hv]; rfl
    _ = _ := by rw [hentry]; rfl

/-- Settles O43: the entry pushes three words and jumps through the table. -/
theorem exceptionEntryInRealMode : Obligations.ExceptionEntryInRealMode := by
  intro s v code hp hv hok a hans
  have hfits : s.vectorFits v = true := by simpa [State.vectorFits] using hv
  have htake := State.takeException_real code hp hfits hok hans
  have hpushed := State.pushed_realEntered (s := s.interrupted) v .exception s.here hp hok
  obtain ⟨hflags, hip, hcs, hregs, hrest⟩ := s.interrupted.realEntered_spec v .exception s.here
  rw [State.lockedWord_interrupted] at hip hcs
  have honly := s.regs.onlyWord_sp (s.regs.sp - 6)
  generalize s.interrupted.realEntered v .exception s.here = t at *
  exact ⟨t.release s, htake,
    State.pushed_interrupted (State.pushed_congr hpushed rfl fun _ => rfl),
    hflags, hip, hcs, hregs ▸ honly, hrest⟩

end Sys2Proof.Machine
end

section
/-! PROOFS. The transfers of the system registers. -/

namespace Sys2Proof.Machine

/-! ## Words stored one after the other in a segment (R108) -/

section
variable {s : State} {r : SReg} {off : Word} {v : Word}

theorem State.readByte_store_low (h : s.ramAt (s.physAddr (linear (s.seg r).base off)) = true) :
    (s.store r off .word v).readByte (linear (s.seg r).base off) = loByte v := by
  simp only [State.store, State.readByte_writeWord, State.physAddr_ne_succ, h, false_and, and_self,
    ↓reduceIte]

theorem State.readByte_store_high (hoff : off ≠ 0xFFFF#16)
    (h : s.ramAt (s.physAddr (linear (s.seg r).base (off + 1))) = true) :
    (s.store r off .word v).readByte (linear (s.seg r).base (off + 1)) = hiByte v := by
  rw [linear_succ _ hoff] at h ⊢
  simp only [State.store, State.readByte_writeWord, h, and_self, ↓reduceIte]

theorem State.readByte_store_ne {b : Addr} (hoff : off ≠ 0xFFFF#16)
    (h0 : s.apart b (linear (s.seg r).base off))
    (h1 : s.apart b (linear (s.seg r).base (off + 1))) :
    (s.store r off .word v).readByte b = s.readByte b := by
  rw [linear_succ _ hoff] at h1
  exact State.readByte_writeWord_ne v h0 h1

theorem State.physAddr_store (b : Addr) : (s.store r off .word v).physAddr b = s.physAddr b :=
  State.physAddr_congr (s.store_platform r off .word v) (by rw [s.store_msw]) b

theorem State.ramAt_store (k : Nat) : (s.store r off .word v).ramAt k = s.ramAt k := by
  rw [State.ramAt, s.store_platform, State.ramAt]

theorem State.apart_store {a b : Addr} : (s.store r off .word v).apart a b ↔ s.apart a b := by
  rw [State.apart, State.physAddr_store, State.physAddr_store, State.apart]

end

theorem add_ofNat_succ_succ (off : Word) (n : Nat) :
    off + 2 + BitVec.ofNat 16 n = off + BitVec.ofNat 16 (n + 2) := by
  rw [BitVec.ofNat_add]
  bv_omega

theorem State.storeWords_cons (s : State) (r : SReg) (off v : Word) (vs : List Word) :
    s.storeWords r off (v :: vs) = (s.store r off .word v).storeWords r (off + 2) vs := by
  rfl

/-- Bytes outside the words stored keep their values. -/
theorem State.readByte_storeWords_ne (r : SReg) (vs : List Word) (s : State) (off : Word)
    (hoff : ∀ i < vs.length, off + BitVec.ofNat 16 (2 * i) ≠ 0xFFFF#16) {b : Addr}
    (hb : ∀ k < 2 * vs.length, s.apart b (linear (s.seg r).base (off + BitVec.ofNat 16 k))) :
    (s.storeWords r off vs).readByte b = s.readByte b := by
  induction vs generalizing s off with
  | nil => rfl
  | cons v vs ih =>
    have hoff0 : off ≠ 0xFFFF#16 := by simpa using hoff 0 (by simp)
    have h0 := hb 0 (by simp)
    rw [BitVec.add_zero] at h0
    rw [State.storeWords_cons]
    refine (ih (s.store r off .word v) (off + 2) (fun i hi => ?_) fun k hk => ?_).trans
      (State.readByte_store_ne hoff0 h0 (hb 1 (by simp; omega)))
    · rw [add_ofNat_succ_succ]
      exact hoff (i + 1) (by simpa using hi)
    · rw [add_ofNat_succ_succ, State.store_seg, State.apart_store]
      exact hb (k + 2) (by simp only [List.length_cons]; omega)

/-- The words stored are found in RAM, the low byte of each first (R120). -/
theorem State.readByte_storeWords (r : SReg) (vs : List Word) (s : State) (off : Word)
    (hlen : vs.length < 0x8000)
    (hoff : ∀ i < vs.length, off + BitVec.ofNat 16 (2 * i) ≠ 0xFFFF#16) {i : Nat}
    (hi : i < vs.length) :
    let cell := fun k => linear (s.seg r).base (off + BitVec.ofNat 16 k)
    (s.ramAt (s.physAddr (cell (2 * i))) = true →
      (s.storeWords r off vs).readByte (cell (2 * i)) = loByte (vs.getD i 0)) ∧
    (s.ramAt (s.physAddr (cell (2 * i + 1))) = true →
      (s.storeWords r off vs).readByte (cell (2 * i + 1)) = hiByte (vs.getD i 0)) := by
  induction vs generalizing s off i with
  | nil => simp at hi
  | cons v vs ih =>
    have hlen' : vs.length + 1 < 0x8000 := hlen
    have hoff0 : off ≠ 0xFFFF#16 := by simpa using hoff 0 (by simp)
    have hoff' : ∀ i < vs.length, off + 2 + BitVec.ofNat 16 (2 * i) ≠ 0xFFFF#16 := fun i hi => by
      rw [add_ofNat_succ_succ]
      exact hoff (i + 1) (by simpa using hi)
    rw [State.storeWords_cons]
    cases i with
    | zero =>
      have hkeep {k : Nat} (hk : k < 2) :
          ((s.store r off .word v).storeWords r (off + 2) vs).readByte
              (linear (s.seg r).base (off + BitVec.ofNat 16 k)) =
            (s.store r off .word v).readByte (linear (s.seg r).base (off + BitVec.ofNat 16 k)) :=
        State.readByte_storeWords_ne r vs (s.store r off .word v) (off + 2) hoff' fun j hj => by
          rw [add_ofNat_succ_succ, State.store_seg]
          refine State.physAddr_linear_ne _ _ fun he => ?_
          have := congrArg BitVec.toNat ((BitVec.add_right_inj _).1 he)
          simp only [BitVec.toNat_ofNat] at this
          omega
      refine ⟨fun h => ?_, fun h => ?_⟩
      · rw [hkeep (by decide)]
        simp only [Nat.mul_zero, BitVec.add_zero] at h ⊢
        exact State.readByte_store_low h
      · rw [hkeep (by decide)]
        exact State.readByte_store_high hoff0 h
    | succ i =>
      have := ih (s.store r off .word v) (off + 2) (by omega) hoff' (i := i) (by simpa using hi)
      simp only [add_ofNat_succ_succ, State.store_seg, State.ramAt_store, State.physAddr_store]
        at this
      exact this

/-- A word stored in RAM reads back. -/
theorem State.readWord_storeWords (r : SReg) (vs : List Word) (s : State) (off : Word)
    (hlen : vs.length < 0x8000)
    (hoff : ∀ i < vs.length, off + BitVec.ofNat 16 (2 * i) ≠ 0xFFFF#16) {i : Nat}
    (hi : i < vs.length)
    (h : s.isRam (linear (s.seg r).base (off + BitVec.ofNat 16 (2 * i))) 2 = true) :
    (s.storeWords r off vs).readWord (linear (s.seg r).base (off + BitVec.ofNat 16 (2 * i))) =
      vs.getD i 0 := by
  obtain ⟨hlo, hhi⟩ := State.readByte_storeWords r vs s off hlen hoff hi
  obtain ⟨h0, h1⟩ := State.isRam_two h
  have hsucc : linear (s.seg r).base (off + BitVec.ofNat 16 (2 * i + 1)) =
      linear (s.seg r).base (off + BitVec.ofNat 16 (2 * i)) + 1 := by
    rw [← linear_succ _ (hoff i hi), BitVec.ofNat_add, ← BitVec.add_assoc]
    rfl
  simp only [hsucc] at hhi
  rw [State.readWord, hlo h0, hhi h1, mkWord_lo_hi]

theorem State.sameElse_trans {s t u : State} (h1 : s.sameElse t) (h2 : t.sameElse u) :
    s.sameElse u := by
  refine Eq.trans h2 ?_
  rw [h1]

theorem State.sameElse_storeWords (r : SReg) (vs : List Word) (s : State) (off : Word) :
    s.sameElse (s.storeWords r off vs) := by
  induction vs generalizing s off with
  | nil => exact s.sameElse_refl
  | cons v vs ih =>
    rw [State.storeWords_cons]
    exact State.sameElse_trans (s.sameElse_store r off .word v) (ih _ _)

theorem State.storeWords_regs (r : SReg) (vs : List Word) (s : State) (off : Word) :
    (s.storeWords r off vs).regs = s.regs := by
  induction vs generalizing s off with
  | nil => rfl
  | cons v vs ih => rw [State.storeWords_cons, ih, s.store_regs]

theorem State.storeWords_flags (r : SReg) (vs : List Word) (s : State) (off : Word) :
    (s.storeWords r off vs).flags = s.flags := by
  induction vs generalizing s off with
  | nil => rfl
  | cons v vs ih => rw [State.storeWords_cons, ih, s.store_flags]

end Sys2Proof.Machine
end

section
/-! PROOFS. The instructions of the system registers. -/

namespace Sys2Proof.Machine

/-! ## LGDT, LIDT, SGDT and SIDT (R592 to R595) -/

section
variable {s : State} {m : Mem}

/-- A table operand that may be read and answers. -/
theorem State.readTable_of_ready (h : s.wordsReady (s.memSeg m) (s.ea m) 3 = true) :
    let cell := fun k : Word => linear (s.seg (s.memSeg m)).base (s.ea m + k)
    s.readTable m = .ok
      { limit := s.busWord 0 (cell 0#16)
        base := (s.busWord 2 (cell 4#16)).setWidth 8 ++ s.busWord 1 (cell 2#16) } := by
  simp only [State.wordsReady, Bool.and_eq_true] at h
  obtain ⟨hok, hans⟩ := h
  simp only [State.wordsAnswer, List.range_succ, List.range_zero, List.nil_append, List.cons_append,
    List.all_cons, List.all_nil, Bool.and_true, Bool.and_eq_true] at hans
  obtain ⟨h0, h1, h2⟩ := hans
  simp only [Nat.mul_zero, BitVec.add_zero] at h0 ⊢
  have hlimit : s.fetchAt (s.memSeg m) (s.ea m) .word 0 = _ := State.fetchAt_of 0 h0
  have hlo : s.fetchAt (s.memSeg m) (s.ea m + 2) .word 1 = _ := State.fetchAt_of 1 h1
  have hhi : s.fetchAt (s.memSeg m) (s.ea m + 4) .word 2 = _ := State.fetchAt_of 2 h2
  simp only [State.readTable, State.checkWords_of hok, Exec.ok_bind, hlimit, hlo, hhi]
  rfl

theorem exec_lgdt_of {r : TableReg} (hc : s.msw.pe = false ∨ s.cpl = 0#2)
    (h : s.readTable m = .ok r) : exec (.lgdt m) s = .next { s with gdtr := r } := by
  change s.finish (s.checkCpl0 >>= _) = _
  rw [State.checkCpl0_of hc, Exec.ok_bind, h]
  rfl

theorem exec_lidt_of {r : TableReg} (hc : s.msw.pe = false ∨ s.cpl = 0#2)
    (h : s.readTable m = .ok r) : exec (.lidt m) s = .next { s with idtr := r } := by
  change s.finish (s.checkCpl0 >>= _) = _
  rw [State.checkCpl0_of hc, Exec.ok_bind, h]
  rfl

/-- An operand to be written lies below the end of its segment's offsets (R210, R213). -/
theorem SegReg.permits_write_le {r : SegReg} {off : Word} {n : Nat}
    (h : r.permits .write off n = true) : off.toNat + n ≤ 0x10000 := by
  have := r.limit.isLt
  simp only [SegReg.permits, Bool.and_eq_true, Bool.not_eq_true'] at h
  obtain ⟨-, h⟩ := h
  split at h <;> simp only [Bool.and_eq_true, decide_eq_true_eq] at h <;> omega

/-- No word of an operand that may be written wraps (R107, R213). -/
theorem State.wordsOk_no_wrap {r : SReg} {off : Word} {n : Nat}
    (h : s.wordsOk .write r off n = true) :
    ∀ i < n, off + BitVec.ofNat 16 (2 * i) ≠ 0xFFFF#16 := by
  intro i hi
  cases hp : s.msw.pe with
  | true =>
    simp only [State.wordsOk, hp, if_true] at h
    have := SegReg.permits_write_le h
    intro he
    have := congrArg BitVec.toNat he
    simp only [BitVec.toNat_add, BitVec.toNat_ofNat] at this
    omega
  | false =>
    simp only [State.wordsOk, State.accessOk, hp, Bool.false_eq_true, if_false, List.all_eq_true,
      List.mem_range] at h
    simpa using h i hi

theorem extractLsb'_high_byte (a : Addr) : a.extractLsb' 16 8 = (a >>> 16).setWidth 8 := by
  ext i hi
  simp [BitVec.getElem_extractLsb', BitVec.getLsbD]

/-- What SGDT and SIDT leave: the table's limit and base in five bytes, the sixth not said. -/
theorem State.storeTable_spec (h : s.wordsOk .write (s.memSeg m) (s.ea m) 3 = true)
    (r : TableReg) :
    let cell := fun k : Word => linear (s.seg (s.memSeg m)).base (s.ea m + k)
    ∃ t, s.storeTable m r = .ok t ∧
      (s.isRam (cell 0#16) 2 = true → t.readWord (cell 0#16) = r.limit) ∧
      (s.isRam (cell 2#16) 2 = true → t.readWord (cell 2#16) = r.base.setWidth 16) ∧
      (s.isRam (cell 4#16) 1 = true → t.readByte (cell 4#16) = (r.base >>> 16).setWidth 8) ∧
      (∀ b : Addr, (∀ k, k < 6 → s.apart b (cell (BitVec.ofNat 16 k))) →
        t.readByte b = s.readByte b) ∧
      t.regs = s.regs ∧ t.flags = s.flags ∧ s.sameElse t := by
  intro cell
  have hoff := State.wordsOk_no_wrap (n := (s.tableWords r).length) h
  have hlen : (s.tableWords r).length = 3 := rfl
  refine ⟨s.storeWords (s.memSeg m) (s.ea m) (s.tableWords r), by
    simp only [State.storeTable, State.checkWords_of h, Exec.ok_bind], fun hram => ?_,
    fun hram => ?_, fun hram => ?_, fun b hb => ?_, State.storeWords_regs _ _ s _,
    State.storeWords_flags _ _ s _, State.sameElse_storeWords _ _ s _⟩
  · exact State.readWord_storeWords _ _ s _ (by omega) hoff (i := 0) (by omega) hram
  · refine (State.readWord_storeWords _ _ s _ (by omega) hoff (i := 1) (by omega) hram).trans ?_
    exact (BitVec.setWidth_eq_extractLsb' (by decide)).symm
  · refine ((State.readByte_storeWords _ _ s _ (by omega) hoff (i := 2) (by omega)).1
      (State.isRam_one hram)).trans ?_
    exact (loByte_mkWord _ _).trans (extractLsb'_high_byte r.base)
  · exact State.readByte_storeWords_ne _ _ s _ hoff hb

end

/-! ## SLDT, STR and SMSW (R597, R599, R605) -/

/-- Bits 15 to 4 of MSW read 1 (R52). -/
theorem Msw.toWord_bits (w : Msw) :
    w.toWord &&& 0xFFF0#16 = 0xFFF0#16 ∧ w.toWord.getLsbD 0 = w.pe ∧ w.toWord.getLsbD 1 = w.mp ∧
      w.toWord.getLsbD 2 = w.em ∧ w.toWord.getLsbD 3 = w.ts := by
  obtain ⟨pe, mp, em, ts⟩ := w
  revert pe mp em ts
  decide

/-- An instruction that writes one r/m operand and does nothing else. -/
theorem movesInto_of_writeRM {s : State} {i : Instr} {rm : RM} {v : Word}
    (hi : exec i s = s.finish (s.writeRM .word rm v)) (h : s.rmOk .write .word rm = true) :
    movesInto i s .word rm v :=
  ⟨s.rmPut .word rm v, by rw [hi, State.writeRM_of v h, State.finish_ok],
    s.placed_rmPut .word rm v.isLt, s.rmPut_flags .word rm v, s.sameElse_rmPut .word rm v⟩

theorem State.checkProt_of {s : State} (hp : s.msw.pe = true) : s.checkProt = .ok () :=
  (s.checkProt_eq_ok ()).2 hp

theorem exec_sldt_of {s : State} (rm : RM) (hp : s.msw.pe = true) :
    exec (.sldt rm) s = s.finish (s.writeRM .word rm s.ldtr.sel) := by
  change s.finish (s.checkProt >>= _) = _
  rw [State.checkProt_of hp, Exec.ok_bind]

theorem exec_str_of {s : State} (rm : RM) (hp : s.msw.pe = true) :
    exec (.str rm) s = s.finish (s.writeRM .word rm s.tr.sel) := by
  change s.finish (s.checkProt >>= _) = _
  rw [State.checkProt_of hp, Exec.ok_bind]

/-! ## LMSW (R604) -/

/-- What LMSW loads. -/
theorem exec_lmsw_of {s : State} {rm : RM} (hc : s.msw.pe = false ∨ s.cpl = 0#2)
    (h : s.rmReady .read .word rm = true) :
    let v := s.rmValue .word rm
    exec (.lmsw rm) s = .next { s with
      msw := s.msw.load v
      modeSwitch := !s.msw.pe && v.getLsbD 0
      stale := if v.getLsbD 0 then s.staleRemapped else s.stale } := by
  change s.finish (s.checkCpl0 >>= _) = _
  rw [State.checkCpl0_of hc, Exec.ok_bind, State.readRM_of_ready h]
  rfl

/-- Nothing is remapped where addresses name the locations they named (R60, R104). -/
theorem State.staleRemapped_eq {s : State}
    (h : s.platform.a20Decoded = true ∨ s.msw.pe = true) : s.staleRemapped = s.stale := by
  simp [State.staleRemapped, h]

/-- A byte of code that may have been prefetched from the location its address named before. -/
theorem State.mem_staleRemapped {s : State} (hp : s.msw.pe = false) {j : Nat}
    (hj : j < (s.ip - s.curIp).toNat + s.platform.prefetchWindow) :
    let a := linear s.cs.base (s.curIp + BitVec.ofNat 16 j)
    s.physAddr a ≠ a.toNat → s.fetchAnswers a = true →
      (a.toNat, s.readByte a) ∈ s.staleRemapped := by
  intro a hne hans
  have hdec : s.platform.a20Decoded ≠ true := fun h => hne (State.physAddr_eq (.inl h) a)
  have hcell : ¬ (a.toNat = s.physAddr a ∨ s.fetchAnswers a = false) := by
    simp [hans, Ne.symm hne]
  rw [State.staleRemapped, if_neg (by simp [hdec, hp])]
  refine List.mem_flatMap.2 ⟨j, List.mem_range.2 hj, List.mem_append_left _ ?_⟩
  rw [if_neg hcell]
  exact List.mem_singleton_self _

/-- Settles O55: the operands by what their reads and writes do, LMSW by what may be prefetched. -/
theorem systemRegisterTransfers : Obligations.SystemRegisterTransfers := by
  refine ⟨fun s m => ⟨fun hc h => ?_, fun h i r hi => ?_⟩, fun s rm h => ⟨fun hp => ?_, ?_⟩,
    fun s rm hc h => ?_⟩
  · have htable := State.readTable_of_ready h
    exact ⟨exec_lgdt_of hc htable, exec_lidt_of hc htable⟩
  · obtain ⟨t, ht, hspec⟩ := State.storeTable_spec h r
    refine ⟨t, ?_, hspec⟩
    obtain ⟨rfl, rfl⟩ | ⟨rfl, rfl⟩ := hi
    · exact congrArg s.finish ht
    · exact congrArg s.finish ht
  · exact ⟨movesInto_of_writeRM (exec_sldt_of rm hp) h, movesInto_of_writeRM (exec_str_of rm hp) h⟩
  · exact ⟨s.msw.toWord, movesInto_of_writeRM rfl h, s.msw.toWord_bits⟩
  · refine ⟨_, exec_lmsw_of hc h, rfl, fun hsame => ?_, fun hp hv j hj => ?_⟩
    · obtain hsame | hv := or_assoc.2 hsame
      · simp [State.staleRemapped_eq hsame]
      · exact if_neg (by rw [hv]; decide)
    · simp only [hv, if_true]
      exact State.mem_staleRemapped hp hj

end Sys2Proof.Machine
end

section
/-! PROOFS. IN and OUT: the bus operations at a port. -/

namespace Sys2Proof.Machine

/-! ## The two bytes of a word at an odd port (R123, R707, R712) -/

theorem zext16_loByte_eq_and (v : Word) : zext16 (loByte v) = v &&& 0x00FF#16 := by
  apply BitVec.eq_of_toNat_eq
  simp only [zext16, loByte, BitVec.toNat_setWidth, BitVec.toNat_and, BitVec.toNat_ofNat]
  rw [Nat.mod_eq_of_lt (b := 2 ^ 16) (by omega)]
  exact (Nat.and_two_pow_sub_one_eq_mod v.toNat 8).symm

theorem zext16_hiByte (v : Word) : zext16 (hiByte v) = v >>> 8 := by
  simp only [zext16, hiByte]
  bv_omega

theorem nextPort_eq_mod (port : Word) : nextPort port = (port.toNat + 1) % 0x10000 := by
  simp [nextPort, BitVec.toNat_add]

theorem maskTo_lt (w : Width) (v : Word) : (maskTo w v).toNat < 2 ^ w.bits := by
  cases w with
  | byte => exact (zext16_loByte_eq_and v ▸ zext16_lt (loByte v) :)
  | word => exact v.isLt

/-- A byte operation answers a byte. -/
theorem State.zext16_ioAnswer (s : State) (n : Nat) :
    zext16 (loByte (s.ioAnswer n .byte)) = s.ioAnswer n .byte :=
  zext16_loByte (maskTo_lt .byte _)

section
variable (s : State) (port : Word) (w : Width)

/-- What a read of a port answers, and the bus operations that leave the machine (R112). -/
theorem State.ioRead_eq : s.ioRead port w = ((s.ioRead port w).1,
    { s with out := portEvents .ioRead port w (s.ioRead port w).1 ++ s.out }) := by
  by_cases hodd : w = .word ∧ port.getLsbD 0 = true
  · obtain ⟨rfl, hp⟩ := hodd
    simp only [State.ioRead_odd hp, portEvents, hp, and_self, if_true, ← zext16_hiByte,
      ← zext16_loByte_eq_and, loByte_mkWord, hiByte_mkWord, State.zext16_ioAnswer, nextPort_eq_mod]
    rfl
  · rw [State.ioRead_one hodd, portEvents, if_neg hodd]
    rfl

theorem State.ioRead_lt : (s.ioRead port w).1.toNat < 2 ^ w.bits := by
  by_cases hodd : w = .word ∧ port.getLsbD 0 = true
  · obtain ⟨rfl, -⟩ := hodd
    exact (s.ioRead port .word).1.isLt
  · rw [State.ioRead_one hodd]
    exact maskTo_lt w _

/-- The bus operations of a write to a port leave the machine, and nothing else changes. -/
theorem State.ioWrite_eq (v : Word) :
    s.ioWrite port w v = { s with out := portEvents .ioWrite port w v ++ s.out } := by
  by_cases hodd : w = .word ∧ port.getLsbD 0 = true
  · obtain ⟨rfl, hp⟩ := hodd
    simp only [State.ioWrite_odd v hp, portEvents, hp, and_self, if_true, zext16_loByte_eq_and,
      zext16_hiByte, nextPort_eq_mod]
    rfl
  · rw [State.ioWrite_one v hodd, portEvents, if_neg hodd]
    rfl

end

/-! ## A port that never answers (R708) -/

section
variable {s : State} {port : Word} {w : Width}

theorem State.awaitPort_stuck {n : Nat} (h : s.portReady n w = false) :
    s.awaitPort n w = .error (.stuck s) := if_neg (by simp [h])

theorem State.portReady_emit (s : State) (e : Event) (n : Nat) (w : Width) :
    (s.emit e).portReady n w = s.portReady n w := rfl

/-- Two byte operations wait at the first of them that is not answered. -/
theorem State.awaitPort_pair {α : Type} {m n : Nat} (e : Event) (x : Exec α)
    (h : (s.portReady m .byte && s.portReady n .byte) = false) :
    ∃ o, (do s.awaitPort m .byte; (s.emit e).awaitPort n .byte; x) =
      .error (.stuck { s with out := o }) := by
  cases hm : s.portReady m .byte with
  | false => exact ⟨s.out, by rw [State.awaitPort_stuck hm]; rfl⟩
  | true =>
    have hn : (s.emit e).portReady n .byte = false := by
      rw [State.portReady_emit]; simpa [hm] using h
    exact ⟨(s.emit e).out, by rw [State.awaitPort_of hm, Exec.ok_bind, State.awaitPort_stuck hn]; rfl⟩

theorem State.readPort_stuck (h : s.portAnswers port w = false) :
    ∃ o, s.readPort port w = .error (.stuck { s with out := o }) := by
  unfold State.portAnswers at h
  unfold State.readPort
  split at h
  · rw [if_pos ‹_›]
    exact State.awaitPort_pair _ _ h
  · rw [if_neg ‹_›, State.awaitPort_stuck h]
    exact ⟨s.out, rfl⟩

theorem State.writePort_stuck (v : Word) (h : s.portAnswers port w = false) :
    ∃ o, s.writePort port w v = .error (.stuck { s with out := o }) := by
  unfold State.portAnswers at h
  unfold State.writePort
  split at h
  · rw [if_pos ‹_›]
    exact State.awaitPort_pair _ _ h
  · rw [if_neg ‹_›, State.awaitPort_stuck h]
    exact ⟨s.out, rfl⟩

/-- An instruction whose bus operation waits for ever. -/
theorem State.finish_stuck_out {y : Exec State}
    (h : ∃ o, y = .error (.stuck { s with out := o })) :
    ∃ t, s.finish y = .next t ∧ t = { s with run := .stuck, out := t.out } := by
  obtain ⟨o, rfl⟩ := h
  exact ⟨_, rfl, rfl⟩

/-! ## IN and OUT (R360 to R363) -/

section
variable (hc : s.msw.pe = false ∨ s.cpl ≤ s.flags.iopl)
include hc

theorem State.input_refused (hw : w = .word ∧ port = 0xFFFF#16) :
    s.input w port = .error (.refuse .wordPortWrap) := by
  rw [State.input, State.checkIopl_of hc, Exec.ok_bind, if_pos hw]

theorem State.input_eq (hw : ¬(w = .word ∧ port = 0xFFFF#16)) :
    s.input w port = (do
      let r ← s.readPort port w
      .ok (r.2.setAcc w r.1)) := by
  rw [State.input, State.checkIopl_of hc, Exec.ok_bind, if_neg hw]

theorem State.input_stuck (hw : ¬(w = .word ∧ port = 0xFFFF#16))
    (h : s.portAnswers port w = false) :
    ∃ o, s.input w port = .error (.stuck { s with out := o }) := by
  obtain ⟨o, ho⟩ := State.readPort_stuck h
  exact ⟨o, by rw [State.input_eq hc hw, ho, Exec.error_bind]⟩

/-- What IN leaves: the answer in the accumulator and the bus operations. -/
theorem State.input_ready (hw : ¬(w = .word ∧ port = 0xFFFF#16))
    (h : s.portAnswers port w = true) :
    ∃ t v, s.input w port = .ok t ∧ v.toNat < 2 ^ w.bits ∧ s.onlyReg t w 0#3 v ∧
      t = { s with regs := t.regs, out := portEvents .ioRead port w v ++ s.out } := by
  have hlt := s.ioRead_lt port w
  refine ⟨(s.ioRead port w).2.setAcc w (s.ioRead port w).1, (s.ioRead port w).1, ?_, hlt, ?_, ?_⟩
  · rw [State.input_eq hc hw, State.readPort_ready h, Exec.ok_bind]
  · rw [s.ioRead_eq port w]
    exact State.onlyReg_setReg _ w 0#3 hlt
  · rw [s.ioRead_eq port w]
    cases w <;> rfl

theorem State.output_stuck (h : s.portAnswers port w = false) :
    ∃ o, s.output w port = .error (.stuck { s with out := o }) := by
  rw [State.output, State.checkIopl_of hc, Exec.ok_bind]
  exact State.writePort_stuck _ h

theorem State.output_ready (h : s.portAnswers port w = true) :
    s.output w port =
      .ok { s with out := portEvents .ioWrite port w (s.getReg w 0#3) ++ s.out } := by
  rw [State.output, State.checkIopl_of hc, Exec.ok_bind, State.writePort_ready _ h,
    State.ioWrite_eq, State.acc]

end
end

theorem exec_in {s : State} {w : Width} {i : Instr} {port : Word}
    (hi : (∃ p : Byte, i = .inImm w p ∧ port = p.setWidth 16) ∨ (i = .inDx w ∧ port = s.regs.dx)) :
    exec i s = s.finish (s.input w port) := by
  obtain ⟨p, rfl, rfl⟩ | ⟨rfl, rfl⟩ := hi <;> rfl

theorem exec_out {s : State} {w : Width} {i : Instr} {port : Word}
    (hi : (∃ p : Byte, i = .outImm w p ∧ port = p.setWidth 16) ∨
      (i = .outDx w ∧ port = s.regs.dx)) :
    exec i s = s.finish (s.output w port) := by
  obtain ⟨p, rfl, rfl⟩ | ⟨rfl, rfl⟩ := hi <;> rfl

/-- Settles O20: each form is `State.input` or `State.output` at its port, which is answered, refused or
waits. -/
theorem portTransfers : Obligations.PortTransfers := by
  refine fun s w hc => ⟨fun i port hi => ⟨fun hw => ?_, fun hw h => ?_, fun hw h => ?_⟩,
    fun i port hi => ⟨fun h => ?_, fun h => ?_⟩⟩
  · rw [exec_in hi, State.input_refused hc hw, State.finish_refuse]
  · rw [exec_in hi]
    exact State.finish_stuck_out (State.input_stuck hc hw h)
  · obtain ⟨t, v, ht, hspec⟩ := State.input_ready hc hw h
    exact ⟨t, v, by rw [exec_in hi, ht, State.finish_ok], hspec⟩
  · rw [exec_out hi]
    exact State.finish_stuck_out (State.output_stuck hc h)
  · rw [exec_out hi, State.output_ready hc h, State.finish_ok]

end Sys2Proof.Machine
end

section
/-! PROOFS. References outside their segment: how an instruction ends at one. -/

namespace Sys2Proof.Machine

/-! ## What has raised goes no further (R17) -/

section
variable {α β : Type} {v : Nat} {code : Word}

theorem bind_raises {x : Exec α} {f : α → Exec β} (hx : x = raise v code) :
    (x >>= f) = raise v code := by
  rw [hx, raise_bind]

/-- An operation that raises after one that answers. -/
theorem ok_bind_raises {x : Exec α} {a : α} {f : α → Exec β} (hx : x = .ok a)
    (hf : f a = raise v code) : (x >>= f) = raise v code := by
  rw [hx, Exec.ok_bind, hf]

/-- The first element of a string, where one is executed (R468). -/
theorem State.repeated_raises {s : State} {compares : Bool} {element : State → Exec State}
    (hrep : s.pre.rep = none ∨ s.regs.cx ≠ 0#16) (he : element s = raise v code) :
    s.repeated compares element = raise v code := by
  unfold State.repeated
  split
  · exact he
  · have hcx : s.regs.cx ≠ 0#16 := hrep.resolve_left (by simp [*])
    exact (if_neg hcx).trans (bind_raises he)

end

/-! ## An instruction that makes such a reference (R107, R212) -/

/-- i is the exception of a reference through q that is not admitted, and nothing has changed. -/
def State.Faults (s : State) (q : SReg) (i : Instr) : Prop :=
  exec i s = s.takeException (if s.msw.pe = true ∧ q = .ss then 12#8 else 13#8) 0#16 .unchanged

theorem State.faults_of {s : State} {q : SReg} {i : Instr} {y : Exec State}
    (hi : exec i s = s.finish y) (hy : y = raise (s.refVector q) 0#16) : s.Faults q i := by
  rw [State.Faults, hi, hy, State.finish_raise, State.refVector]
  by_cases h : s.msw.pe = true ∧ q = .ss <;> simp [h]

theorem State.Faults.only {s : State} {q : SReg} {i : Instr} (h : s.Faults q i) :
    ∀ j ∈ [i], s.Faults q j := List.forall_mem_singleton.2 h

section
variable {s : State} {a : Access} {w : Width} {m : Mem} {r : SReg} {off : Word}

theorem State.memRead_fails (i : Nat) (h : s.accessOk .read r off w.bytes = false) :
    s.memRead r off w i = raise (s.refVector r) 0#16 := bind_raises (State.check_fails h)

theorem State.memWrite_fails (v : Word) (h : s.accessOk .write r off w.bytes = false) :
    s.memWrite r off w v = raise (s.refVector r) 0#16 := bind_raises (State.check_fails h)

theorem State.checkRM_fails (h : s.rmOk a w (.mem m) = false) :
    s.checkRM a w (.mem m) = raise (s.refVector (s.memSeg m)) 0#16 := State.check_fails h

theorem State.operand_fails (h : s.rmOk a w (.mem m) = false) :
    s.operand a w (.mem m) = raise (s.refVector (s.memSeg m)) 0#16 :=
  bind_raises (State.checkRM_fails h)

theorem State.readRM_fails (h : s.rmOk .read w (.mem m) = false) :
    s.readRM w (.mem m) = raise (s.refVector (s.memSeg m)) 0#16 := State.operand_fails h

theorem State.writeRM_fails (v : Word) (h : s.rmOk .write w (.mem m) = false) :
    s.writeRM w (.mem m) v = raise (s.refVector (s.memSeg m)) 0#16 :=
  bind_raises (State.checkRM_fails h)

theorem State.checkWords_fails {k : Nat} (h : s.wordsOk a r off k = false) :
    s.checkWords a r off k = raise (s.refVector r) 0#16 := by
  rw [State.checkWords, h, require_false]

theorem State.readPointer_fails (h : s.wordsOk .read r off 2 = false) :
    s.readPointer r off = raise (s.refVector r) 0#16 := bind_raises (State.checkWords_fails h)

theorem State.readTable_fails (h : s.wordsOk .read (s.memSeg m) (s.ea m) 3 = false) :
    s.readTable m = raise (s.refVector (s.memSeg m)) 0#16 :=
  bind_raises (State.checkWords_fails h)

theorem State.storeTable_fails (t : TableReg)
    (h : s.wordsOk .write (s.memSeg m) (s.ea m) 3 = false) :
    s.storeTable m t = raise (s.refVector (s.memSeg m)) 0#16 :=
  bind_raises (State.checkWords_fails h)

/-- The first word of an ESC operand where its segment permits neither direction (R575, R656). -/
theorem State.checkEsc_fails (op : BitVec 6) (hp : s.msw.pe = true)
    (hr : (s.seg (s.memSeg m)).permits .read (s.ea m) 2 = false)
    (hw : (s.seg (s.memSeg m)).permits .write (s.ea m) 2 = false) :
    s.checkEsc op (.mem m) = raise (s.refVector (s.memSeg m)) 0#16 := by
  have hstart : s.escStartOk op m = false := by simp [State.escStartOk, hp, hr, hw]
  rw [State.checkEsc, hstart, require_false]

theorem exec_esc_of_check {e : Stop} {ttt lll : BitVec 3} {rm : RM} (hem : s.msw.em = false)
    (hts : s.msw.ts = false) (h : s.checkEsc (ttt ++ lll) rm = .error e) :
    exec (.esc ttt lll rm) s = s.finish (.error e) := by
  change execEsc ttt lll rm s = _
  simp only [execEsc, hem, hts, Bool.or_self, Bool.false_eq_true, if_false, h]

end

/-! ## The stack (R16, R372) -/

section
variable {s : State}

theorem State.refVector_ss (hp : s.msw.pe = true) : s.refVector .ss = 12 := by
  simp [State.refVector, hp]

theorem State.popWord_fails {sp : Word} (h : s.popAdmitted sp = false) :
    s.popWord sp = raise (s.refVector .ss) 0#16 :=
  bind_raises (by rw [h, require_false])

theorem State.stackTop_fails (h : s.popAdmitted s.regs.sp = false) :
    s.stackTop = raise (s.refVector .ss) 0#16 := State.popWord_fails h

theorem State.room_one (r : SegReg) (sp : Word) : r.room sp 1 = r.pushAdmitted sp := by
  simp [SegReg.room, SegReg.pushAdmitted]

theorem State.push_fails (v : Word) (hp : s.msw.pe = true) (h : s.pushOk 1 = false) :
    s.push v = raise (s.refVector .ss) 0#16 := by
  rw [State.pushOk, if_pos hp, State.room_one] at h
  rw [State.push, if_pos hp, if_neg (by simp [h]), State.refVector_ss hp]

/-- A frame that a return in protected mode does not find within its stack (R238). -/
theorem State.farReturn_fails (adj : Word) (iret : Bool) (hp : s.msw.pe = true)
    (h : s.ss.permits .read s.regs.sp (if iret then 6 else 4) = false) :
    s.farReturn adj iret = raise (s.refVector .ss) 0#16 := by
  rw [State.refVector_ss hp]
  exact bind_raises (by rw [h, require_false])

theorem State.farRet_fails (adj : Word) (h : s.wordsOk .read .ss s.regs.sp 2 = false) :
    s.farRet adj = raise (s.refVector .ss) 0#16 := by
  unfold State.farRet
  split
  · have hp : s.msw.pe = true := ‹_›
    rw [State.wordsOk, if_pos hp] at h
    exact State.farReturn_fails adj false hp h
  · exact bind_raises (State.checkWords_fails h)

theorem State.interruptReturn_fails (hnt : s.msw.pe = false ∨ s.flags.nt = false)
    (h : s.wordsOk .read .ss s.regs.sp 3 = false) :
    s.interruptReturn = raise (s.refVector .ss) 0#16 := by
  dsimp only [State.interruptReturn]
  split
  · have hp : s.msw.pe = true := ‹_›
    have hnt : s.flags.nt = false := hnt.resolve_left (by simp [hp])
    rw [State.wordsOk, if_pos hp] at h
    rw [if_neg (by simp [hnt])]
    exact bind_raises (State.farReturn_fails 0#16 true hp h)
  · exact bind_raises (bind_raises (State.checkWords_fails h))

/-- A far CALL to a code segment it reaches, without room for the return address (R231). -/
theorem State.transferToCode_no_room {sel off : Word} {a : Addr} (hp : s.msw.pe = true)
    (hroom : s.pushOk 2 = false) (hn : isNull sel = false) (ha : s.descAddr sel = some a)
    (hans : s.answersAt a 6 = true) (hd : codeReachable s.cpl sel (s.busDesc 2 a)) :
    s.transferToCode sel off true = raise (s.refVector .ss) 0#16 := by
  obtain ⟨hseg, hexec, hpriv, hpres⟩ := hd
  rw [State.pushOk, if_pos hp] at hroom
  have hpriv' : (if arDirConf (s.busDesc 2 a).ar then decide (arDpl (s.busDesc 2 a).ar ≤ s.cpl)
      else decide (rpl sel ≤ s.cpl) && arDpl (s.busDesc 2 a).ar == s.cpl) = true := by
    split at hpriv <;> simp [*]
  simp only [State.transferToCode, hn, State.descriptor_found ha hans, Bool.not_false, require_true,
    Exec.ok_bind, hseg, if_true, hexec, hpriv', hpres, State.enterCode, hroom, Bool.not_true,
    Bool.or_self, require_false, raise_bind, State.refVector_ss hp]

end

end Sys2Proof.Machine
end

section
/-! PROOFS. The instructions that make a reference outside its segment. -/

namespace Sys2Proof.Machine

/-! ## The r/m operands (R340, R382) -/

section
variable {s : State} {m : Mem}

theorem faults_reading {w : Width} (reg : RegNum) (h : s.rmOk .read w (.mem m) = false) :
    ∀ i ∈ [Instr.movRegRm w reg (.mem m), .addRmReg true w (.mem m) reg,
      .adcRmReg true w (.mem m) reg, .subRmReg true w (.mem m) reg, .sbbRmReg true w (.mem m) reg,
      .cmpRmReg w (.mem m) reg, .cmpRegRm w reg (.mem m), .andRmReg true w (.mem m) reg,
      .orRmReg true w (.mem m) reg, .xorRmReg true w (.mem m) reg, .testRmReg w (.mem m) reg,
      .mul w (.mem m), .imulRm w (.mem m), .div w (.mem m), .idiv w (.mem m)],
      s.Faults (s.memSeg m) i := by
  intro i hi
  fin_cases hi <;> exact State.faults_of rfl (bind_raises (State.readRM_fails h))

theorem faults_cmpRmImm {imm : GImm} (h : s.rmOk .read imm.width (.mem m) = false) :
    s.Faults (s.memSeg m) (.cmpRmImm (.mem m) imm) :=
  State.faults_of rfl (bind_raises (State.readRM_fails h))

theorem faults_testRmImm {imm : Imm} (h : s.rmOk .read imm.width (.mem m) = false) :
    s.Faults (s.memSeg m) (.testRmImm (.mem m) imm) :=
  State.faults_of rfl (bind_raises (State.readRM_fails h))

theorem faults_readingWord (reg : RegNum) (simm : SImm) (sreg : SReg)
    (h : s.rmOk .read .word (.mem m) = false) :
    ∀ i ∈ [Instr.movSregRm sreg (.mem m), .pushRm (.mem m), .imulImm reg (.mem m) simm,
      .jmpRm (.mem m), .callRm (.mem m)], s.Faults (s.memSeg m) i := by
  intro i hi
  fin_cases hi <;> exact State.faults_of rfl (bind_raises (State.readRM_fails h))

/-- The selector tests exist in protected mode alone (R590). -/
theorem faults_testing (reg : RegNum) (hp : s.msw.pe = true)
    (h : s.rmOk .read .word (.mem m) = false) :
    ∀ i ∈ [Instr.lar reg (.mem m), .lsl reg (.mem m), .verr (.mem m), .verw (.mem m)],
      s.Faults (s.memSeg m) i := by
  intro i hi
  fin_cases hi <;>
    exact State.faults_of rfl
      (ok_bind_raises (State.checkProt_of hp) (bind_raises (State.readRM_fails h)))

theorem faults_lmsw (hc : s.msw.pe = false ∨ s.cpl = 0#2)
    (h : s.rmOk .read .word (.mem m) = false) : s.Faults (s.memSeg m) (.lmsw (.mem m)) :=
  State.faults_of rfl (ok_bind_raises (State.checkCpl0_of hc) (bind_raises (State.readRM_fails h)))

/-- LLDT and LTR test the mode and CPL before they read (R214, R590). -/
theorem faults_loadingSystem (hp : s.msw.pe = true) (hc : s.cpl = 0#2)
    (h : s.rmOk .read .word (.mem m) = false) :
    ∀ i ∈ [Instr.lldt (.mem m), .ltr (.mem m)], s.Faults (s.memSeg m) i := by
  intro i hi
  fin_cases hi <;>
    exact State.faults_of rfl (ok_bind_raises (State.checkProt_of hp)
      (ok_bind_raises (State.checkCpl0_of (.inr hc)) (bind_raises (State.readRM_fails h))))

/-- The write check comes before the read (R382); MOV and XCHG make it themselves. -/
theorem faults_writing {w : Width} (reg : RegNum) (n : Byte)
    (h : s.rmOk .write w (.mem m) = false) :
    ∀ i ∈ [Instr.movRmReg w (.mem m) reg, .addRmReg false w (.mem m) reg,
      .adcRmReg false w (.mem m) reg, .subRmReg false w (.mem m) reg,
      .sbbRmReg false w (.mem m) reg, .andRmReg false w (.mem m) reg,
      .orRmReg false w (.mem m) reg, .xorRmReg false w (.mem m) reg, .xchgRmReg w (.mem m) reg,
      .incRm w (.mem m), .decRm w (.mem m), .neg w (.mem m), .not w (.mem m), .rolOne w (.mem m),
      .rolCl w (.mem m), .rolImm w (.mem m) n, .rorOne w (.mem m), .rorCl w (.mem m),
      .rorImm w (.mem m) n, .rclOne w (.mem m), .rclCl w (.mem m), .rclImm w (.mem m) n,
      .rcrOne w (.mem m), .rcrCl w (.mem m), .rcrImm w (.mem m) n, .shlOne w (.mem m),
      .shlCl w (.mem m), .shlImm w (.mem m) n, .shrOne w (.mem m), .shrCl w (.mem m),
      .shrImm w (.mem m) n, .sarOne w (.mem m), .sarCl w (.mem m), .sarImm w (.mem m) n],
      s.Faults (s.memSeg m) i := by
  have hmov : s.Faults (s.memSeg m) (.movRmReg w (.mem m) reg) :=
    State.faults_of rfl (State.writeRM_fails _ h)
  have hxchg : s.Faults (s.memSeg m) (.xchgRmReg w (.mem m) reg) :=
    State.faults_of rfl (bind_raises (State.checkRM_fails h))
  intro i hi
  fin_cases hi
  on_goal 1 => exact hmov
  on_goal 8 => exact hxchg
  all_goals exact State.faults_of rfl (bind_raises (State.operand_fails h))

theorem faults_writingImm {imm : Imm} (h : s.rmOk .write imm.width (.mem m) = false) :
    ∀ i ∈ [Instr.movRmImm (.mem m) imm, .andRmImm (.mem m) imm, .orRmImm (.mem m) imm,
      .xorRmImm (.mem m) imm], s.Faults (s.memSeg m) i := by
  intro i hi
  fin_cases hi
  on_goal 1 => exact State.faults_of rfl (State.writeRM_fails _ h)
  all_goals exact State.faults_of rfl (bind_raises (State.operand_fails h))

theorem faults_writingGImm {imm : GImm} (h : s.rmOk .write imm.width (.mem m) = false) :
    ∀ i ∈ [Instr.addRmImm (.mem m) imm, .adcRmImm (.mem m) imm, .subRmImm (.mem m) imm,
      .sbbRmImm (.mem m) imm], s.Faults (s.memSeg m) i := by
  intro i hi
  fin_cases hi <;> exact State.faults_of rfl (bind_raises (State.operand_fails h))

theorem faults_storingWord (sreg : SReg) (h : s.rmOk .write .word (.mem m) = false) :
    ∀ i ∈ [Instr.movRmSreg (.mem m) sreg, .smsw (.mem m)], s.Faults (s.memSeg m) i := by
  intro i hi
  fin_cases hi <;> exact State.faults_of rfl (State.writeRM_fails _ h)

theorem faults_storingSystem (reg : RegNum) (hp : s.msw.pe = true)
    (h : s.rmOk .write .word (.mem m) = false) :
    ∀ i ∈ [Instr.sldt (.mem m), .str (.mem m), .arpl (.mem m) reg], s.Faults (s.memSeg m) i := by
  intro i hi
  fin_cases hi
  · exact State.faults_of (exec_sldt_of _ hp) (State.writeRM_fails _ h)
  · exact State.faults_of (exec_str_of _ hp) (State.writeRM_fails _ h)
  · exact State.faults_of rfl
      (ok_bind_raises (State.checkProt_of hp) (bind_raises (State.operand_fails h)))

/-! ## Pointers, table registers and ESC (R23, R592, R575) -/

theorem faults_pointer (reg : RegNum) (h : s.wordsOk .read (s.memSeg m) (s.ea m) 2 = false) :
    ∀ i ∈ [Instr.lds reg m, .les reg m, .jmpFarMem m, .callFarMem m, .bound reg m],
      s.Faults (s.memSeg m) i := by
  intro i hi
  fin_cases hi <;> exact State.faults_of rfl (bind_raises (State.readPointer_fails h))

theorem faults_loadingTable (hc : s.msw.pe = false ∨ s.cpl = 0#2)
    (h : s.wordsOk .read (s.memSeg m) (s.ea m) 3 = false) :
    ∀ i ∈ [Instr.lgdt m, .lidt m], s.Faults (s.memSeg m) i := by
  intro i hi
  fin_cases hi <;>
    exact State.faults_of rfl
      (ok_bind_raises (State.checkCpl0_of hc) (bind_raises (State.readTable_fails h)))

theorem faults_storingTable (h : s.wordsOk .write (s.memSeg m) (s.ea m) 3 = false) :
    ∀ i ∈ [Instr.sgdt m, .sidt m], s.Faults (s.memSeg m) i := by
  intro i hi
  fin_cases hi <;> exact State.faults_of rfl (State.storeTable_fails _ h)

theorem faults_esc (ttt lll : BitVec 3) (hp : s.msw.pe = true) (hem : s.msw.em = false)
    (hts : s.msw.ts = false) (hr : (s.seg (s.memSeg m)).permits .read (s.ea m) 2 = false)
    (hw : (s.seg (s.memSeg m)).permits .write (s.ea m) 2 = false) :
    s.Faults (s.memSeg m) (.esc ttt lll (.mem m)) :=
  State.faults_of (exec_esc_of_check hem hts (State.checkEsc_fails _ hp hr hw)) rfl

end

/-! ## Direct offsets and XLAT (R345, R348, R364) -/

section
variable {s : State} {w : Width} {r : SReg}

theorem faults_movAccMem {off : Word}
    (h : s.accessOk .read (s.overridden .ds) off w.bytes = false) :
    s.Faults (s.overridden .ds) (.movAccMem w off) :=
  State.faults_of rfl (bind_raises (State.memRead_fails 0 h))

theorem faults_movMemAcc {off : Word}
    (h : s.accessOk .write (s.overridden .ds) off w.bytes = false) :
    s.Faults (s.overridden .ds) (.movMemAcc w off) :=
  State.faults_of rfl (State.memWrite_fails _ h)

/-- AL as a word (R32). -/
theorem State.acc_byte (s : State) : s.acc .byte = s.regs.ax &&& 0x00FF#16 :=
  zext16_loByte_eq_and s.regs.ax

theorem faults_xlat
    (h : s.accessOk .read (s.overridden .ds) (s.regs.bx + (s.regs.ax &&& 0x00FF#16)) 1 = false) :
    s.Faults (s.overridden .ds) .xlat := by
  rw [← State.acc_byte] at h
  exact State.faults_of rfl (bind_raises (State.memRead_fails (w := .byte) 0 h))

/-! ## String elements (R460 to R469) -/

section
variable (hrep : s.pre.rep = none ∨ s.regs.cx ≠ 0#16)
include hrep

theorem faults_stringSource
    (h : s.accessOk .read (s.overridden .ds) s.regs.si w.bytes = false) :
    ∀ i ∈ [Instr.movs w, .cmps w, .lods w], s.Faults (s.overridden .ds) i := by
  intro i hi
  fin_cases hi <;>
    exact State.faults_of rfl (State.repeated_raises hrep (bind_raises (State.memRead_fails 0 h)))

theorem faults_outs (hc : s.msw.pe = false ∨ s.cpl ≤ s.flags.iopl)
    (h : s.accessOk .read (s.overridden .ds) s.regs.si w.bytes = false) :
    s.Faults (s.overridden .ds) (.outs w) :=
  State.faults_of rfl (State.repeated_raises hrep
    (ok_bind_raises (State.checkIopl_of hc) (bind_raises (State.memRead_fails 0 h))))

theorem faults_stos (h : s.accessOk .write .es s.regs.di w.bytes = false) :
    s.Faults .es (.stos w) :=
  State.faults_of rfl (State.repeated_raises hrep (bind_raises (State.memWrite_fails _ h)))

theorem faults_ins (hc : s.msw.pe = false ∨ s.cpl ≤ s.flags.iopl)
    (h : s.accessOk .write .es s.regs.di w.bytes = false) : s.Faults .es (.ins w) :=
  State.faults_of rfl (State.repeated_raises hrep
    (ok_bind_raises (State.checkIopl_of hc) (bind_raises (State.check_fails h))))

/-- The source of MOVS is read before its destination is tested (R462). -/
theorem faults_movs (hsrc : s.readReady (s.overridden .ds) s.regs.si w = true)
    (h : s.accessOk .write .es s.regs.di w.bytes = false) : s.Faults .es (.movs w) :=
  State.faults_of rfl (State.repeated_raises hrep
    (ok_bind_raises (State.memRead_of_ready 0 hsrc) (bind_raises (State.memWrite_fails _ h))))

theorem faults_scas (h : s.accessOk .read .es s.regs.di w.bytes = false) :
    s.Faults .es (.scas w) :=
  State.faults_of rfl (State.repeated_raises hrep (bind_raises (State.memRead_fails 0 h)))

theorem faults_cmps (hsrc : s.readReady (s.overridden .ds) s.regs.si w = true)
    (h : s.accessOk .read .es s.regs.di w.bytes = false) : s.Faults .es (.cmps w) :=
  State.faults_of rfl (State.repeated_raises hrep
    (ok_bind_raises (State.memRead_of_ready 0 hsrc) (bind_raises (State.memRead_fails 1 h))))

end
end

/-! ## The stack (R16, R238, R372) -/

section
variable {s : State}

theorem faults_popping (reg : RegNum) (m : Mem) (adj : Word)
    (h : s.popAdmitted s.regs.sp = false) :
    ∀ i ∈ [Instr.popRm (.reg reg), .popRm (.mem m), .popReg reg, .popEs, .popSs, .popDs, .popf,
      .ret, .retImm adj], s.Faults .ss i := by
  intro i hi
  fin_cases hi <;> exact State.faults_of rfl (bind_raises (State.stackTop_fails h))

theorem faults_leave (h : s.popAdmitted s.regs.bp = false) : s.Faults .ss .leave :=
  State.faults_of rfl (bind_raises (State.popWord_fails h))

theorem faults_retFar (adj : Word) (h : s.wordsOk .read .ss s.regs.sp 2 = false) :
    ∀ i ∈ [Instr.retFar, .retFarImm adj], s.Faults .ss i := by
  intro i hi
  fin_cases hi <;> exact State.faults_of rfl (State.farRet_fails _ h)

theorem faults_iret (hnt : s.msw.pe = false ∨ s.flags.nt = false)
    (h : s.wordsOk .read .ss s.regs.sp 3 = false) : s.Faults .ss .iret :=
  State.faults_of rfl (State.interruptReturn_fails hnt h)

section
variable (hp : s.msw.pe = true) (h : s.pushOk 1 = false)
include hp h

theorem faults_pushing (reg : RegNum) (sreg : SReg) (simm : SImm) (size : Word) (level : Byte) :
    ∀ i ∈ [Instr.pushRm (.reg reg), .pushReg reg, .pushSreg sreg, .pushImm simm, .pushf,
      .enter size level], s.Faults .ss i := by
  have henter : s.Faults .ss (.enter size level) :=
    State.faults_of rfl (bind_raises (State.push_fails _ hp h))
  have hreg : s.Faults .ss (.pushRm (.reg reg)) :=
    State.faults_of (exec_pushRm_of_ready rfl) (State.push_fails _ hp h)
  intro i hi
  fin_cases hi
  on_goal 1 => exact hreg
  on_goal 5 => exact henter
  all_goals exact State.faults_of rfl (State.push_fails _ hp h)

theorem faults_pushRm {rm : RM} (hr : s.rmReady .read .word rm = true) :
    s.Faults .ss (.pushRm rm) :=
  State.faults_of (exec_pushRm_of_ready hr) (State.push_fails _ hp h)

/-- The target of a near CALL is tested before the push (R482). -/
theorem faults_callRel {disp : Word} (ht : s.ip + disp ≤ s.cs.limit) :
    s.Faults .ss (.callRel disp) :=
  have hok : s.targetOk (s.ip + disp) = true := by
    simpa [State.targetOk, hp] using BitVec.le_def.1 ht
  State.faults_of rfl
    (ok_bind_raises (require_of hok _ _) (bind_raises (State.push_fails _ hp h)))

end

theorem faults_callFar {sel off : Word} {a : Addr} (hp : s.msw.pe = true)
    (hroom : s.pushOk 2 = false) (hn : isNull sel = false) (ha : s.descAddr sel = some a)
    (hans : s.answersAt a 6 = true) (hd : codeReachable s.cpl sel (s.busDesc 2 a)) :
    s.Faults .ss (.callFar off sel) :=
  State.faults_of rfl
    ((if_pos hp).trans (State.transferToCode_no_room hp hroom hn ha hans hd))

end

/-! ## What a segment admits (R107, R210 to R213) -/

theorem SegReg.permits_iff (r : SegReg) (a : Access) (off : Word) (n : Nat) :
    r.permits a off n = true ↔ r.valid = true ∧
      (a = .write → arExec r.ar = false ∧ arRw r.ar = true) ∧
      (a = .read → arExec r.ar = true → arRw r.ar = true) ∧
      (arExec r.ar = false ∧ arDirConf r.ar = true →
        r.limit.toNat < off.toNat ∧ off.toNat + n ≤ 0x10000) ∧
      (¬(arExec r.ar = false ∧ arDirConf r.ar = true) → off.toNat + n ≤ r.limit.toNat + 1) := by
  unfold SegReg.permits
  cases a <;> cases arExec r.ar <;> cases arDirConf r.ar <;> simp [and_assoc]

/-- In real address mode a segment admits all but a word at offset FFFFh (R107). -/
theorem State.accessOk_real {s : State} (hp : s.msw.pe = false) (a : Access) (r : SReg)
    (off : Word) (w : Width) :
    s.accessOk a r off w.bytes = false ↔ w = .word ∧ off = 0xFFFF#16 := by
  cases w <;> simp [State.accessOk, hp, Width.bytes]

/-- Settles O60: each instruction comes to a test of the reference, which raises. -/
theorem operandsOutsideTheirSegment : Obligations.OperandsOutsideTheirSegment := by
  refine ⟨fun s w m reg imm gimm simm sreg n off sel ttt lll =>
    ⟨?read, ?written, ?pointers, ?offsetsAndStrings, ?stack⟩,
    SegReg.permits_iff, fun s a r off w =>
      ⟨fun hp => if_pos hp, fun hp => State.accessOk_real hp a r off w⟩⟩
  case read =>
    exact ⟨faults_reading reg, fun h => (faults_cmpRmImm h).only,
      fun h => (faults_testRmImm h).only, fun h =>
        ⟨faults_readingWord reg simm sreg h, fun hp => faults_testing reg hp h,
          fun hc => (faults_lmsw hc h).only, fun hp hc => faults_loadingSystem hp hc h⟩⟩
  case written =>
    exact ⟨faults_writing reg n, faults_writingGImm, faults_writingImm, fun h =>
      ⟨faults_storingWord sreg h, fun hp => faults_storingSystem reg hp h⟩⟩
  case pointers =>
    exact ⟨faults_pointer reg, fun h hc => faults_loadingTable hc h, faults_storingTable,
      fun hp hem hts hr hw => (faults_esc ttt lll hp hem hts hr hw).only⟩
  case offsetsAndStrings =>
    refine ⟨fun h => (faults_movAccMem h).only, fun h => (faults_movMemAcc h).only,
      fun h => (faults_xlat h).only, fun hrep => ⟨fun h => ?_, fun h => ?_, fun h => ?_⟩⟩
    · exact ⟨faults_stringSource hrep h, fun hc => (faults_outs hrep hc h).only⟩
    · exact ⟨(faults_stos hrep h).only, fun hc => (faults_ins hrep hc h).only,
        fun hsrc => (faults_movs hrep hsrc h).only⟩
    · exact ⟨(faults_scas hrep h).only, fun hsrc => (faults_cmps hrep hsrc h).only⟩
  case stack =>
    refine ⟨faults_popping reg m off, fun h => (faults_leave h).only, faults_retFar off,
      fun h hnt => (faults_iret hnt h).only, fun hp h => ?_,
      fun a hp hroom hn ha hans hd => (faults_callFar hp hroom hn ha hans hd).only⟩
    exact ⟨faults_pushing hp h reg sreg simm off n, fun hr => (faults_pushRm hp h hr).only,
      fun ht => (faults_callRel hp h ht).only⟩

end Sys2Proof.Machine
end

section
/-! PROOFS. Protected mode is left by RESET alone. -/

namespace Sys2Proof.Machine

/-- Whatever state the outcome leads to is in protected mode. -/
def StaysProtected (o : Host.Outcome State Fault Refusal) : Prop :=
  ∀ t, o = .next t → t.msw.pe = true

theorem StaysProtected.next {t : State} (h : t.msw.pe = true) : StaysProtected (.next t) := by
  rintro _ ⟨⟩
  exact h

theorem StaysProtected.refused (r : Refusal) : StaysProtected (.refused r) := by
  intro t ht
  cases ht

section
variable {s : State} (hp : s.msw.pe = true)
include hp

/-- What keeps the control registers keeps PE. -/
theorem OutcomeKeeps.staysProtected {o : Host.Outcome State Fault Refusal}
    (h : OutcomeKeeps s o) : StaysProtected o := fun t ht => (h t ht).prot hp

/-! ## Instructions (R604) -/

/-- LMSW sets PE and does not clear it (R604); every other instruction leaves it. -/
theorem exec_staysProtected (i : Instr) : StaysProtected (exec i s) := by
  intro t h
  obtain ⟨_, v, _, -, rfl⟩ | ⟨_, _, -, rfl⟩ | ⟨_, _, -, rfl⟩ | hk := exec_next h
  · simp [Msw.load, hp]
  · exact hp
  · exact hp
  · exact hk.prot hp

omit hp in
theorem endInstr_staysProtected (i : Instr) {o : Host.Outcome State Fault Refusal}
    (h : StaysProtected o) : StaysProtected (endInstr i o) := by
  rw [endInstr_eq]
  cases o with
  | next t => exact .next (h t rfl)
  | _ => exact h

theorem runNext_staysProtected : StaysProtected s.runNext := by
  have hbegin : s.begin.msw.pe = true := s.keeps_begin.prot hp
  unfold State.runNext
  split
  next i u hu =>
    obtain ⟨n, rfl⟩ := fetch_run hu
    exact endInstr_staysProtected i
      (exec_staysProtected ((State.keeps_ready _ i n).prot hbegin) i)
  next => exact (takeException_keeps _ _ (.refl _)).staysProtected hbegin
  next => exact .next hbegin
  next => exact unlistedOutcome_keeps.staysProtected hbegin
  next => exact .refused _

/-! ## A step (R62, R637, R670) -/

theorem runStep_staysProtected : StaysProtected s.runStep := by
  unfold State.runStep
  split
  · split
    next o ho => exact (boundary_keeps ho).staysProtected hp
    next => exact runNext_staysProtected hp
  · exact runNext_staysProtected hp

theorem act_staysProtected : StaysProtected s.act := by
  unfold State.act
  split
  · exact .next hp
  · exact shutdownStep_keeps.staysProtected hp
  · exact haltStep_keeps.staysProtected hp
  · exact runStep_staysProtected hp
  · exact .next hp

/-- A step that waits for ever ends in a part of itself, MSW as at its start (R708). -/
theorem State.storesAnswered_pe {t : State} (ht : t.msw.pe = true) :
    (s.storesAnswered t).msw.pe = true := by
  unfold State.storesAnswered
  dsimp only
  split
  · exact ht
  · exact hp

theorem answered_staysProtected {o : Host.Outcome State Fault Refusal} (h : StaysProtected o) :
    StaysProtected (s.answered o) := by
  cases o with
  | next t =>
    have ht := h t rfl
    unfold State.answered
    dsimp only
    split
    · exact .next ht
    · split
      · exact .next hp
      · exact .next (State.storesAnswered_pe hp ht)
  | _ => exact h

omit hp in
/-- Other masters' stores change no register (R131). -/
theorem settled_staysProtected {o : Host.Outcome State Fault Refusal} (h : StaysProtected o) :
    StaysProtected (s.settled o) := by
  cases o with
  | next t =>
    refine .next ?_
    rw [State.settle_eq]
    exact h t rfl
  | _ => exact h

end

/-- Settles O5: without RESET a step is what the processor does (`State.act`), ended by what never
answers and by other masters' stores, and none of the three clears PE. -/
theorem protectedModeIsNotLeft : Obligations.ProtectedModeIsNotLeft := by
  intro s t hp hreset hduring h
  have hsample : s.sample.msw.pe = true := s.keeps_sample.prot hp
  rw [step_of_no_reset hreset hduring] at h
  exact settled_staysProtected
    (answered_staysProtected hsample (act_staysProtected hsample)) t h

end Sys2Proof.Machine
end

section
/-! PROOFS. POP and POPF. -/

namespace Sys2Proof.Machine

/-! ## POP (R355, R356) -/

section
variable {s : State} (h : s.popReady s.regs.sp = true)
include h

theorem exec_popReg_of (reg : RegNum) : exec (.popReg reg) s =
    .next ((s.setSp (s.regs.sp + 2)).rmPut .word (.reg reg) (s.busWord 0 (s.above 0))) := by
  change s.finish (s.stackTop >>= _) = _
  rw [State.stackTop_of_ready h]
  rfl

/-- The operand of POP is written with SP past the word (R355). -/
theorem exec_popRm_of {rm : RM} (hw : s.rmOk .write .word rm = true) : exec (.popRm rm) s =
    .next ((s.setSp (s.regs.sp + 2)).rmPut .word rm (s.busWord 0 (s.above 0))) := by
  have hwrite : (s.setSp (s.regs.sp + 2)).rmOk .write .word rm = true := by
    cases rm with
    | reg n => rfl
    | mem m => cases m <;> exact hw
  change s.finish (s.stackTop >>= _) = _
  rw [State.stackTop_of_ready h, Exec.ok_bind, State.writeRM_of _ hwrite]
  rfl

/-! ## POPF (R371) -/

theorem exec_popf_of : exec .popf s = .next
    ((s.setSp (s.regs.sp + 2)).setFlags (s.popfFlags (s.busWord 0 (s.above 0)))) := by
  change s.finish (s.stackTop >>= _) = _
  rw [State.stackTop_of_ready h]
  rfl

end

/-- An instruction that writes one r/m operand in a state u and does nothing else. -/
theorem movesIntoFrom_of_rmPut {i : Instr} {s u : State} {rm : RM} {v : Word}
    (hi : exec i s = .next (u.rmPut .word rm v)) : movesIntoFrom i s u .word rm v :=
  ⟨_, hi, u.placed_rmPut .word rm v.isLt, u.rmPut_flags .word rm v, u.sameElse_rmPut .word rm v⟩

/-- Settles O17: POP is a write in the state with SP past the word, POPF a load of FLAGS by the
rule of the mode (`State.popfFlags`). -/
theorem popsAndPopFlags : Obligations.PopsAndPopFlags := by
  refine ⟨fun s h => ⟨fun reg => movesIntoFrom_of_rmPut (exec_popReg_of h reg),
    fun rm hw => movesIntoFrom_of_rmPut (exec_popRm_of h hw)⟩, fun s h => ?_⟩
  rw [exec_popf_of h, State.popfFlags]
  cases s.msw.pe <;> rfl

end Sys2Proof.Machine
end

section
/-! PROOFS. The privileged instructions without the privilege. -/

namespace Sys2Proof.Machine

section
variable {s : State} (hp : s.msw.pe = true)
include hp

/-! ## Table 13, first row (R214) -/

section
variable (hcpl : s.cpl ≠ 0#2)
include hcpl

theorem State.checkCpl0_fails : s.checkCpl0 = raise 13 0#16 := by
  rw [State.checkCpl0, hp, beq_false_of_ne hcpl]
  rfl

theorem exec_traps_above_cpl0 (m : Mem) (rm : RM) :
    ∀ i ∈ [Instr.lidt m, .lldt rm, .lgdt m, .ltr rm, .lmsw rm, .cts, .hlt],
      exec i s = s.takeException 13#8 0#16 .unchanged := by
  have htest {α : Type} {f : Unit → Exec α} : (s.checkCpl0 >>= f) = raise 13 0#16 :=
    bind_raises (State.checkCpl0_fails hp hcpl)
  have hprot {α : Type} {f : Unit → Exec α} :
      (do s.checkProt; s.checkCpl0 >>= f) = raise 13 0#16 :=
    ok_bind_raises (State.checkProt_of hp) htest
  intro i hi
  fin_cases hi
  on_goal 4 => exact congrArg s.finish hprot
  on_goal 2 => exact congrArg s.finish hprot
  all_goals exact congrArg s.finish htest

end

/-! ## Table 13, second row (R215) -/

section
variable (hiopl : s.flags.iopl < s.cpl)
include hiopl

theorem State.checkIopl_fails : s.checkIopl = raise 13 0#16 := by
  simp [State.checkIopl, hp, BitVec.not_le.2 hiopl]

theorem checkIopl_bind_raises {α : Type} {f : Unit → Exec α} :
    (s.checkIopl >>= f) = raise 13 0#16 := bind_raises (State.checkIopl_fails hp hiopl)

theorem exec_traps_above_iopl (w : Width) (p : Byte) :
    ∀ i ∈ [Instr.inImm w p, .inDx w, .outImm w p, .outDx w, .sti, .cli],
      exec i s = s.takeException 13#8 0#16 .unchanged := by
  intro i hi
  fin_cases hi <;> exact congrArg s.finish (checkIopl_bind_raises hp hiopl)

/-- An element of INS or OUTS comes to the test first (R467, R469), where there is one (R468). -/
theorem exec_ins_outs_traps (w : Width) (hrep : s.pre.rep = none ∨ s.regs.cx ≠ 0#16) :
    exec (.ins w) s = s.takeException 13#8 0#16 .unchanged ∧
      exec (.outs w) s = s.takeException 13#8 0#16 .unchanged :=
  have htest {f : Unit → Exec State} := checkIopl_bind_raises hp hiopl (f := f)
  ⟨congrArg s.finish (State.repeated_raises hrep htest),
    congrArg s.finish (State.repeated_raises hrep htest)⟩

theorem exec_lock_traps (hlock : s.pre.lock = false) :
    exec .lock s = s.takeException 13#8 0#16 .unchanged :=
  congrArg s.finish
    ((if_neg (by simp [hlock])).trans (checkIopl_bind_raises hp hiopl))

end
end

/-- Settles O59: each instruction comes to its row's test of Table 13 before anything else that
raises. -/
theorem privilegeTraps : Obligations.PrivilegeTraps :=
  ⟨fun _ m rm hp hcpl => exec_traps_above_cpl0 hp hcpl m rm, fun _ w p hp hiopl =>
    ⟨exec_traps_above_iopl hp hiopl w p, exec_ins_outs_traps hp hiopl w,
      exec_lock_traps hp hiopl⟩⟩

end Sys2Proof.Machine
end

section
/-! PROOFS. Far JMP and CALL to a code segment in protected mode. -/

namespace Sys2Proof.Machine

/-- What has answered goes on. -/
theorem Exec.bind_of_ok {α β : Type} {x : Exec α} {a : α} {f : α → Exec β} (h : x = .ok a) :
    (x >>= f) = f a := by
  rw [h, Exec.ok_bind]

/-! ## Addresses in protected mode (R104, R160) -/

section
variable {s t : State}

theorem State.apart_of_ne (hp : s.msw.pe = true) {a b : Addr} (h : a ≠ b) : s.apart a b := by
  simp only [State.apart, State.physAddr_eq (.inr hp)]
  exact fun he => h (BitVec.eq_of_toNat_eq he)

theorem State.isRam_congr (hp : t.platform = s.platform) (hm : t.msw.pe = s.msw.pe) (a : Addr)
    (n : Nat) : t.isRam a n = s.isRam a n := by
  simp only [State.isRam, State.ramAt, hp, State.physAddr_congr hp hm]

theorem State.accessedByte_congr {a : Addr} (h : t.readByte (a + 5) = s.readByte (a + 5))
    (d : Desc) : t.accessedByte a d = s.accessedByte a d := by
  simp only [State.accessedByte, h]

/-- Setting the accessed bit of a descriptor leaves every byte but its rights byte. -/
theorem State.readByte_setAccessed_ne (hp : s.msw.pe = true) {a b : Addr} (d : Desc)
    (h : b ≠ a + 5) : (s.setAccessed a d).readByte b = s.readByte b :=
  (s.accessedAt_setAccessed a d).2 b fun i hi => by
    obtain rfl : i = 0 := by omega
    exact State.apart_of_ne hp (by simpa using h)

/-- The locked sequence of a descriptor's read changes the clock alone (R129). -/
theorem State.holdAccessed_eq (s : State) (d : Desc) :
    s.holdAccessed d = { s with clock := (s.holdAccessed d).clock } := by
  unfold State.holdAccessed
  split <;> rfl

theorem State.readByte_holdAccessed (s : State) (d : Desc) (b : Addr) :
    (s.holdAccessed d).readByte b = s.readByte b := by
  rw [State.holdAccessed_eq]
  rfl

/-! ## Pushes (R16, R231) -/

theorem State.pushed_holdAccessed {d : Desc} {vs : List Word}
    (h : (s.holdAccessed d).pushed t vs) : s.pushed t vs := by
  rw [State.holdAccessed_eq] at h
  exact h

/-- Pushes move SP alone of the general registers. -/
theorem State.pushAllRaw_regs (vs : List Word) (s : State) :
    (s.pushAllRaw vs).regs = { s.regs with sp := (s.pushAllRaw vs).regs.sp } := by
  induction vs generalizing s with
  | nil => rfl
  | cons v vs ih => rw [State.pushAllRaw_cons, ih, State.pushRaw_regs]

/-- Where a segment has room for words no push has SP = 0001h (R372). -/
theorem SegReg.sp_of_room {r : SegReg} {sp : Word} {n : Nat} (h : r.room sp n = true) :
    ∀ i < n, sp - BitVec.ofNat 16 (2 * i) ≠ 1#16 := by
  simp only [SegReg.room, Bool.and_eq_true, decide_eq_true_eq] at h
  obtain ⟨hsp, -⟩ := h
  intro i hi he
  have := congrArg BitVec.toNat he
  simp only [BitVec.toNat_sub, BitVec.toNat_ofNat] at this
  omega

/-! ## The descriptor (R231) -/

theorem rpl_withRpl (sel : Word) (p : BitVec 2) : rpl (withRpl sel p) = p := by
  apply BitVec.eq_of_getLsbD_eq
  intro i hi
  simp only [rpl, withRpl, BitVec.getLsbD_extractLsb', BitVec.getLsbD_or, BitVec.getLsbD_and,
    BitVec.getLsbD_setWidth]
  interval_cases i <;> simp

/-- A transfer to a code segment that JMP and CALL reach directly is its entry. -/
theorem State.transferToCode_reachable {sel : Word} {a : Addr} (hn : isNull sel = false)
    (ha : s.descAddr sel = some a) (hans : s.answersAt a 6 = true)
    (hd : codeReachable s.cpl sel (s.busDesc 2 a)) (off : Word) (call : Bool) :
    s.transferToCode sel off call = s.enterCode sel off (a, s.busDesc 2 a) call := by
  obtain ⟨hseg, hexec, hpriv, hpres⟩ := hd
  have hpriv' : (if arDirConf (s.busDesc 2 a).ar then decide (arDpl (s.busDesc 2 a).ar ≤ s.cpl)
      else decide (rpl sel ≤ s.cpl) && arDpl (s.busDesc 2 a).ar == s.cpl) = true := by
    split at hpriv <;> simp [*]
  simp only [State.transferToCode, hn, State.descriptor_found ha hans, Bool.not_false, require_true,
    Exec.ok_bind, hseg, if_true, hexec, hpriv', hpres]

/-! ## The state a far JMP or CALL leads to (R231) -/

/-- The state at sel:off with a frame pushed, the accessed bit of the descriptor set after it. -/
def State.farEntered (s : State) (sel off : Word) (c : Addr × Desc) (frame : List Word) : State :=
  ((((s.holdAccessed c.2).pushAllRaw frame).loadCs (withRpl sel s.cpl) c).jump off).release s

/-- The words a far transfer pushes. -/
def State.farFrame (s : State) (call : Bool) : List Word := if call then [s.cs.sel, s.ip] else []

theorem State.enterCode_of {c : Addr × Desc} {off : Word} {call : Bool} (sel : Word)
    (hroom : call = true → s.ss.room s.regs.sp 2 = true) (hoff : off ≤ c.2.limit) :
    s.enterCode sel off c call = .ok (s.farEntered sel off c (s.farFrame call)) :=
  (State.enterCode_eq_ok _ _ _ _ _ _).2 ⟨hroom, hoff, by cases call <;> rfl⟩

theorem State.pushed_farFrame {call : Bool} (hroom : call = true → s.ss.room s.regs.sp 2 = true)
    (d : Desc) : s.pushed ((s.holdAccessed d).pushAllRaw (s.farFrame call)) (s.farFrame call) := by
  have hlen : (s.farFrame call).length < 0x8000 := by cases call <;> simp [State.farFrame]
  refine State.pushed_holdAccessed (State.pushed_pushAllRaw _ _ hlen ?_)
  rw [State.holdAccessed_regs]
  cases call with
  | false => exact fun _ h => absurd h (Nat.not_lt_zero _)
  | true => exact SegReg.sp_of_room (hroom rfl)

/-- Beside the stack and the accessed bit, CS and IP alone change. -/
theorem State.farEntered_spec (s : State) (sel off : Word) (c : Addr × Desc) (frame : List Word) :
    let t := s.farEntered sel off c frame
    t.cs.loadedFrom ((sel &&& 0xFFFC#16) ||| s.cpl.setWidth 16) c.2 ∧ t.ip = off ∧ t.cpl = s.cpl ∧
      s.regs.onlyWord t.regs .sp ((s.holdAccessed c.2).pushAllRaw frame).regs.sp ∧
      t.flags = s.flags ∧ t.ss = s.ss ∧ t.ds = s.ds ∧ t.es = s.es := by
  refine ⟨⟨rfl, rfl, rfl, rfl, rfl⟩, rfl, rpl_withRpl sel s.cpl, ?_, ?_⟩
  · have hregs : (s.farEntered sel off c frame).regs =
        { s.regs with sp := ((s.holdAccessed c.2).pushAllRaw frame).regs.sp } := by
      simp only [State.farEntered, State.release_regs, State.jump_regs, State.loadCs_regs]
      rw [State.pushAllRaw_regs, State.holdAccessed_regs]
    rw [hregs]
    exact s.regs.onlyWord_sp _
  · simp [State.farEntered]

section
variable (hp : s.msw.pe = true)
include hp

theorem State.readByte_farEntered_ne (sel off : Word) {a b : Addr} (d : Desc) (frame : List Word)
    (h : b ≠ a + 5) : (s.farEntered sel off (a, d) frame).readByte b =
      ((s.holdAccessed d).pushAllRaw frame).readByte b :=
  State.readByte_setAccessed_ne (by simpa using hp) d h

/-- The accessed bit where no word was pushed over it (R160). -/
theorem State.readByte_farEntered (sel off : Word) {a : Addr} {d : Desc} {frame : List Word}
    (hpushed : s.pushed ((s.holdAccessed d).pushAllRaw frame) frame)
    (hram : s.isRam (a + 5) 1 = true)
    (hne : ∀ j, j < 2 * frame.length → a + 5 ≠ s.below (j + 1)) :
    (s.farEntered sel off (a, d) frame).readByte (a + 5) = s.accessedByte a d := by
  obtain ⟨-, -, hframe⟩ := hpushed
  have hram' : ((s.holdAccessed d).pushAllRaw frame).isRam (a + 5) 1 = true := by
    rw [State.isRam_congr (s := s) (by simp) (by simp), hram]
  have hbyte := hframe (a + 5) fun j hj => State.apart_of_ne hp (hne j hj)
  exact ((State.accessedAt_setAccessed _ a d).1 hram').trans (State.accessedByte_congr hbyte d)

end

/-- The instructions of a far transfer, their pointer read (R484, R485, R490, R491). -/
theorem exec_farTransfer (hp : s.msw.pe = true) {i : Instr} {call : Bool} {off sel : Word}
    (h : s.farTransfer i call off sel) : exec i s = s.finish (s.transferToCode sel off call) := by
  obtain rfl | ⟨m, rfl, hready, rfl, rfl⟩ := h
  · cases call <;> exact congrArg s.finish (if_pos hp)
  · cases call <;>
      exact congrArg s.finish
        ((Exec.bind_of_ok (State.readPointer_of_ready hready)).trans (if_pos hp))

end

end Sys2Proof.Machine
end

section
/-! PROOFS. Returns in protected mode: RET far and IRET. -/

namespace Sys2Proof.Machine

/-! ## The frame a return pops (R238) -/

section
variable {s : State}

/-- A word of an operand that answers. -/
theorem State.fetchAt_of_wordsAnswer {r : SReg} {off : Word} {k : Nat}
    (h : s.wordsAnswer r off k = true) {j : Nat} (hj : j < k) (i : Nat) :
    s.fetchAt r (off + BitVec.ofNat 16 (2 * j)) .word i =
      .ok (s.busWord i (linear (s.seg r).base (off + BitVec.ofNat 16 (2 * j)))) :=
  State.fetchAt_of (w := .word) i (List.all_eq_true.1 h j (List.mem_range.2 hj))

/-- A word of the stack from its top on. -/
theorem State.fetchAt_above {k : Nat} (h : s.wordsAnswer .ss s.regs.sp k = true) {j : Nat}
    (hj : j < k) (i : Nat) : s.fetchAt .ss (s.regs.sp + BitVec.ofNat 16 (2 * j)) .word i =
      .ok (s.busWord i (s.above (2 * j))) :=
  State.fetchAt_of_wordsAnswer h hj i

theorem State.fetchAt_top {k : Nat} (h : s.wordsAnswer .ss s.regs.sp k = true) (hk : 0 < k)
    (i : Nat) : s.fetchAt .ss s.regs.sp .word i = .ok (s.busWord i (s.above 0)) := by
  simpa using State.fetchAt_above h hk i

/-- FLAGS after a return in protected mode (R216). -/
def State.returnFlags (s : State) (iret : Bool) : Flags :=
  if iret then s.flags.loadProt s.cpl (s.busWord 2 (s.above 4)) else s.flags

/-- The bytes a return pops at its own level: IP and CS, and FLAGS by IRET. -/
def returnBytes (iret : Bool) : Nat := if iret then 6 else 4

/-- The frame of a return may be popped and answers, and is a return to newCs:newIp. -/
structure State.Returns (s : State) (iret : Bool) (newCs newIp : Word) : Prop where
  admitted : s.ss.permits .read s.regs.sp (returnBytes iret) = true
  ip : s.fetchAt .ss s.regs.sp .word 0 = .ok newIp
  cs : s.fetchAt .ss (s.regs.sp + 2) .word 1 = .ok newCs
  flags : iret = true → s.fetchAt .ss (s.regs.sp + 4) .word 2 = .ok (s.busWord 2 (s.above 4))

theorem State.returns_of {iret : Bool}
    (h : s.ss.permits .read s.regs.sp (returnBytes iret) = true)
    (hans : s.wordsAnswer .ss s.regs.sp (returnBytes iret / 2) = true) :
    s.Returns iret (s.busWord 1 (s.above 2)) (s.busWord 0 (s.above 0)) where
  admitted := h
  ip := State.fetchAt_top hans (by cases iret <;> decide) 0
  cs := State.fetchAt_above hans (j := 1) (by cases iret <;> decide) 1
  flags hi := by
    subst hi
    exact State.fetchAt_above hans (j := 2) (by decide) 2

/-! ## What a return leads to (R238, R239) -/

/-- The state after a return to the same level. -/
def State.returnedSame (s : State) (iret : Bool) (adj newCs newIp : Word) (c : Addr × Desc) :
    State :=
  (((s.loadCs newCs c).setSp (s.regs.sp + BitVec.ofNat 16 (returnBytes iret) + adj)).setFlags
    (s.returnFlags iret)).jump newIp

/-- The state after a return to an outer level on the stack outSs:outSp. -/
def State.returnedOutward (s : State) (iret : Bool) (adj newCs newIp outSs outSp : Word)
    (c d : Addr × Desc) : State :=
  let t := ((((s.holdAccessed c.2).loadCs newCs c).putStack outSs d).release s).setSp (outSp + adj)
  ({ t with
    flags := s.returnFlags iret
    ds := t.ds.nullOutward (rpl newCs)
    es := t.es.nullOutward (rpl newCs) } : State).jump newIp

/-- What a return does with the descriptor c of its code segment, its frame popped. -/
def State.returnThrough (s : State) (iret : Bool) (adj newCs newIp : Word) (c : Addr × Desc) :
    Exec State :=
  if rpl newCs = s.cpl then do
    require (decide (newIp.toNat ≤ c.2.limit.toNat)) 13 0#16
    .ok (s.returnedSame iret adj newCs newIp c)
  else do
    require (s.ss.permits .read s.regs.sp (returnBytes iret + adj.toNat + 4)) 12 0#16
    let h := s.holdAccessed c.2
    let top := s.regs.sp + BitVec.ofNat 16 (returnBytes iret) + adj
    let outSp ← h.fetchAt .ss top .word 4
    let outSs ← h.fetchAt .ss (top + 2) .word 5
    let d ← h.stackDesc 6 (rpl newCs) outSs 13 0#16
    require (decide (newIp.toNat ≤ c.2.limit.toNat)) 13 0#16
    .ok (s.returnedOutward iret adj newCs newIp outSs outSp c d)

/-- A return whose frame may be popped goes by the tests on its code segment. -/
theorem State.farReturn_eq {iret : Bool} {newCs newIp : Word} (h : s.Returns iret newCs newIp)
    (adj : Word) :
    s.farReturn adj iret = s.returnDesc newCs >>= s.returnThrough iret adj newCs newIp := by
  obtain ⟨hok, hip, hcs, hfl⟩ := h
  refine (Exec.bind_of_ok (require_of hok _ _)).trans
    ((Exec.bind_of_ok hip).trans ((Exec.bind_of_ok hcs).trans ?_))
  cases iret with
  | false => rfl
  | true => exact Exec.bind_of_ok (hfl rfl)

/-! ## The descriptor of the return code segment (R238) -/

section
variable {sel : Word} {a : Addr} (hn : isNull sel = false) (ha : s.descAddr sel = some a)
  (hans : s.answersAt a 6 = true)
include hn ha hans

theorem State.returnDesc_of (hcpl : s.cpl ≤ rpl sel) (hd : returnAdmits sel (s.busDesc 3 a))
    (hpres : arPresent (s.busDesc 3 a).ar = true) :
    s.returnDesc sel = .ok (a, s.busDesc 3 a) := by
  obtain ⟨hseg, hexec, hpriv⟩ := hd
  refine (State.returnDesc_eq_ok _ _ _).2
    ⟨hn, a, ha, hans, rfl, by simp [arCode, hseg, hexec], hcpl, ?_, hpres⟩
  split at hpriv <;> simp [*]

/-- A return selector of a more privileged level, whatever its descriptor. -/
theorem State.returnDesc_inward (hcpl : rpl sel < s.cpl) :
    s.returnDesc sel = raise 13 (sel &&& 0xFFFC#16) := by
  have hlevel : decide (s.cpl ≤ rpl sel) = false := decide_eq_false (BitVec.not_le.2 hcpl)
  simp only [State.returnDesc, hn, Bool.not_false, require_true, Exec.ok_bind,
    State.descriptor_found ha hans, selCode_zero]
  rw [require_bind_and, hlevel, Bool.and_false, require_false, raise_bind]

theorem State.stackDesc_of {i : Nat} {cpl : BitVec 2}
    (hd : stackLoadable cpl sel (s.busDesc i a)) (bad : Nat) (ext : Word) :
    s.stackDesc i cpl sel bad ext = .ok (a, s.busDesc i a) := by
  obtain ⟨⟨hrpl, hseg, hexec, hrw, hdpl⟩, hpres⟩ := hd
  exact (State.stackDesc_eq_ok _ _ _ _ _ _ _).2 ⟨hn, a, ha, hans, rfl, by simp [hrpl],
    by simp [arWritable, hseg, hexec, hrw], by simp [hdpl], hpres⟩

end

/-! ## The instructions that return (R238, R495, R496, R546) -/

/-- The service of an NMI ends with IRET (R547). -/
def State.endService (s : State) (iret : Bool) : State :=
  { s with nmiInService := s.nmiInService && !iret }

theorem State.endService_false (s : State) : s.endService false = s := by
  simp [State.endService]

/-- An instruction is a return in protected mode. -/
def IsReturn (i : Instr) (s : State) (adj : Word) (iret : Bool) : Prop :=
  exec i s = s.finish (do
    let t ← s.farReturn adj iret
    .ok (t.endService iret))

section
variable (hp : s.msw.pe = true)
include hp

theorem isReturn_retFar {i : Instr} {adj : Word}
    (h : i = .retFar ∧ adj = 0#16 ∨ i = .retFarImm adj) : IsReturn i s adj false := by
  have hfar : exec i s = s.finish (s.farReturn adj false) := by
    obtain ⟨rfl, rfl⟩ | rfl := h <;> exact congrArg s.finish (if_pos hp)
  rw [IsReturn, hfar]
  cases s.farReturn adj false with
  | ok t => rw [Exec.ok_bind, State.endService_false]
  | error e => rfl

theorem isReturn_iret (hnt : s.flags.nt = false) : IsReturn .iret s 0#16 true := by
  have hret : s.interruptReturn = (do
      let t ← s.farReturn 0#16 true
      .ok (t.endService true)) := by
    simp only [State.interruptReturn, hp, hnt, State.endService, Bool.not_true, Bool.and_false,
      Bool.false_eq_true, if_true, if_false]
  exact congrArg s.finish hret

end

/-! ## A return to the same level -/

theorem State.returnedSame_spec (s : State) (iret : Bool) (adj newCs newIp : Word) (a : Addr)
    (d : Desc) :
    let t := (s.returnedSame iret adj newCs newIp (a, d)).endService iret
    t.cs.loadedFrom newCs d ∧ t.ip = newIp ∧ t.cpl = rpl newCs ∧
      t.regs = { s.regs with sp := s.regs.sp + BitVec.ofNat 16 (returnBytes iret) + adj } ∧
      t.flags = s.returnFlags iret ∧ s.accessedAt t a d ∧
      t.nmiInService = (s.nmiInService && !iret) ∧ t.ss = s.ss ∧ t.ds = s.ds ∧ t.es = s.es := by
  refine ⟨⟨rfl, rfl, rfl, rfl, rfl⟩, rfl, rfl, ?_, rfl,
    State.accessedAt_congr (s.accessedAt_setAccessed a d) fun _ => rfl, ?_⟩ <;>
    simp [State.returnedSame, State.endService]

theorem IsReturn.same {i : Instr} {adj newCs newIp : Word} {iret : Bool} {a : Addr}
    (h : IsReturn i s adj iret) (hf : s.Returns iret newCs newIp)
    (hd : s.returnDesc newCs = .ok (a, s.busDesc 3 a)) (hrpl : rpl newCs = s.cpl)
    (hlim : newIp ≤ (s.busDesc 3 a).limit) :
    exec i s = .next ((s.returnedSame iret adj newCs newIp (a, s.busDesc 3 a)).endService iret) := by
  have hthrough : s.returnThrough iret adj newCs newIp (a, s.busDesc 3 a) =
      .ok (s.returnedSame iret adj newCs newIp (a, s.busDesc 3 a)) :=
    (if_pos hrpl).trans (Exec.bind_of_ok (require_of (decide_eq_true hlim) _ _))
  rw [h, State.farReturn_eq hf, hd, Exec.ok_bind, hthrough]
  rfl

end

/-- Settles O39: a transfer is the entry of its code segment (`State.farEntered`), a return one to the
same level (`IsReturn.same`). -/
theorem farTransfersInProtectedMode : Obligations.FarTransfersInProtectedMode := by
  refine ⟨?transfers, ?returns⟩
  case transfers =>
    intro s i call off sel a hp hi hn ha hans d hd hoff hpush frame
    have hroom (hc : call = true) : s.ss.room s.regs.sp 2 = true := by
      simpa [State.pushOk, hp] using hpush hc
    have hpushed := State.pushed_farFrame hroom d
    refine ⟨s.farEntered sel off (a, d) (s.farFrame call), _, ?_, hpushed,
      fun b hb => State.readByte_farEntered_ne hp sel off d _ hb,
      fun hram hne => State.readByte_farEntered hp sel off hpushed hram hne,
      s.farEntered_spec sel off (a, d) _⟩
    rw [exec_farTransfer hp hi, State.transferToCode_reachable hn ha hans hd,
      State.enterCode_of sel hroom hoff, State.finish_ok]
  case returns =>
    intro s i adj a hp hi hframe hwords newIp newCs d hn ha hans hrpl hd hpres hlim
    have hreturn := (isReturn_retFar hp hi).same (State.returns_of (iret := false) hframe hwords)
      (State.returnDesc_of hn ha hans (BitVec.le_of_eq hrpl.symm) hd hpres) hrpl hlim
    obtain ⟨hcs, hip, hcpl, hregs, hflags, hacc, -, hsegs⟩ :=
      s.returnedSame_spec false adj newCs newIp a d
    exact ⟨_, hreturn, hcs, hip, hcpl.trans hrpl, hregs, hflags, hacc, hsegs⟩

/-! ## IRET (R546) -/

/-- IRET in real address mode. -/
theorem exec_iret_real {s : State} (hp : s.msw.pe = false)
    (h : s.wordsReady .ss s.regs.sp 3 = true) : exec .iret s =
    .next { s.atFar (s.busWord 1 (s.above 2)) (s.busWord 0 (s.above 0)) with
      regs := { s.regs with sp := s.regs.sp + 6 }
      flags := { Flags.ofWord (s.busWord 2 (s.above 4)) with
        iopl := s.flags.iopl, nt := s.flags.nt }
      nmiInService := false } := by
  simp only [State.wordsReady, Bool.and_eq_true] at h
  obtain ⟨hok, hwords⟩ := h
  have hret : s.realIret = .ok (((s.setSp (s.regs.sp + 6)).setFlags
      (s.flags.loadReal (s.busWord 2 (s.above 4)))).realFar (s.busWord 1 (s.above 2))
        (s.busWord 0 (s.above 0))) :=
    (Exec.bind_of_ok (State.checkWords_of hok)).trans
      ((Exec.bind_of_ok (State.fetchAt_top hwords (by decide) 0)).trans
        ((Exec.bind_of_ok (State.fetchAt_above hwords (j := 1) (by decide) 1)).trans
          (Exec.bind_of_ok (State.fetchAt_above hwords (j := 2) (by decide) 2))))
  change s.finish s.interruptReturn = _
  simp only [State.interruptReturn, hp, Bool.false_eq_true, if_false, hret, Exec.ok_bind,
    State.realFar, realSeg_eq_realCs]
  rfl

/-- Settles O51: in real address mode three words popped, in protected mode a return to the same level
(`IsReturn.same`), after which no NMI is in service. -/
theorem interruptReturns : Obligations.InterruptReturns := by
  refine ⟨fun s => exec_iret_real, ?_⟩
  intro s a hp hnt hframe hwords newIp newCs g d hn ha hans hrpl hd hpres hlim
  have hreturn := (isReturn_iret hp hnt).same (State.returns_of (iret := true) hframe hwords)
    (State.returnDesc_of hn ha hans (BitVec.le_of_eq hrpl.symm) hd hpres) hrpl hlim
  obtain ⟨hcs, hip, hcpl, hregs, hflags, hacc, hnmi, hsegs⟩ :=
    s.returnedSame_spec true 0#16 newCs newIp a d
  exact ⟨_, hreturn, hcs, hip, hcpl.trans hrpl, hregs.trans (by simp [returnBytes]), hflags, hacc,
    hnmi.trans (Bool.and_false _), hsegs⟩

end Sys2Proof.Machine
end

section
/-! PROOFS. Returns to a less privileged level. -/

namespace Sys2Proof.Machine

section
variable {s : State}

/-! ## The outer stack (R238) -/

theorem State.wordsAnswer_holdAccessed (s : State) (d : Desc) (r : SReg) (off : Word) (k : Nat) :
    (s.holdAccessed d).wordsAnswer r off k = s.wordsAnswer r off k := by
  rw [State.holdAccessed_eq]
  rfl

theorem State.descAddr_holdAccessed (s : State) (d : Desc) (sel : Word) :
    (s.holdAccessed d).descAddr sel = s.descAddr sel := by
  rw [State.holdAccessed_eq]
  rfl

theorem State.answersAt_holdAccessed (s : State) (d : Desc) (a : Addr) (n : Nat) :
    (s.holdAccessed d).answersAt a n = s.answersAt a n := by
  rw [State.holdAccessed_eq]
  rfl

/-- An offset above the top of the stack in two parts. -/
theorem State.linear_above (s : State) (k : Nat) (adj : Word) (n : Nat) :
    linear s.ss.base (s.regs.sp + BitVec.ofNat 16 k + adj + BitVec.ofNat 16 n) =
      s.above (k + adj.toNat + n) := by
  simp only [State.above, BitVec.ofNat_add, BitVec.ofNat_toNat, BitVec.setWidth_eq, BitVec.add_assoc]

/-- A word of the outer SS:SP, read after the code descriptor. -/
theorem State.fetchAt_outer {k : Nat} {adj : Word}
    (h : s.wordsAnswer .ss (s.regs.sp + BitVec.ofNat 16 k + adj) 2 = true) (d : Desc) {j : Nat}
    (hj : j < 2) (i : Nat) :
    (s.holdAccessed d).fetchAt .ss
        (s.regs.sp + BitVec.ofNat 16 k + adj + BitVec.ofNat 16 (2 * j)) .word i =
      .ok ((s.holdAccessed d).busWord i (s.above (k + adj.toNat + 2 * j))) := by
  rw [← State.wordsAnswer_holdAccessed s d] at h
  rw [State.fetchAt_of_wordsAnswer h hj, State.holdAccessed_seg]
  exact congrArg (fun x => Except.ok ((s.holdAccessed d).busWord i x)) (s.linear_above k adj _)

theorem State.returnThrough_outward {iret : Bool} {adj newCs newIp : Word} {a p : Addr} {d : Desc}
    (hrpl : s.cpl < rpl newCs) (hlim : newIp ≤ d.limit)
    (hok : s.ss.permits .read s.regs.sp (returnBytes iret + adj.toNat + 4) = true)
    (hwords : s.wordsAnswer .ss (s.regs.sp + BitVec.ofNat 16 (returnBytes iret) + adj) 2 = true)
    {outSs outSp : Word}
    (hsp : outSp = (s.holdAccessed d).busWord 4 (s.above (returnBytes iret + adj.toNat)))
    (hss : outSs = (s.holdAccessed d).busWord 5 (s.above (returnBytes iret + adj.toNat + 2)))
    (hn : isNull outSs = false) (hp : s.descAddr outSs = some p) (hans : s.answersAt p 6 = true)
    (he : stackLoadable (rpl newCs) outSs ((s.holdAccessed d).busDesc 6 p)) :
    s.returnThrough iret adj newCs newIp (a, d) = .ok (s.returnedOutward iret adj newCs newIp
      outSs outSp (a, d) (p, (s.holdAccessed d).busDesc 6 p)) := by
  have hne : rpl newCs ≠ s.cpl := (BitVec.ne_of_lt hrpl).symm
  have hsp' := State.fetchAt_outer hwords d (j := 0) (by decide) 4
  have hss' := State.fetchAt_outer hwords d (j := 1) (by decide) 5
  rw [← s.descAddr_holdAccessed d] at hp
  rw [← s.answersAt_holdAccessed d] at hans
  rw [Nat.mul_zero, BitVec.add_zero, Nat.add_zero, ← hsp] at hsp'
  rw [Nat.mul_one, ← hss] at hss'
  refine (if_neg hne).trans ((Exec.bind_of_ok (require_of hok _ _)).trans
    ((Exec.bind_of_ok hsp').trans ((Exec.bind_of_ok hss').trans
      ((Exec.bind_of_ok (State.stackDesc_of hn hp hans he 13 0#16)).trans
        (Exec.bind_of_ok (require_of (decide_eq_true hlim) _ _))))))

/-! ## DS and ES after a return to an outer level (R239) -/

/-- The new level may not use a segment register: it is valid, of a more privileged level and not
conforming code. -/
def SegReg.Unusable (r : SegReg) (cpl : BitVec 2) : Prop :=
  r.valid = true ∧ arDpl r.ar < cpl ∧ ¬(arExec r.ar = true ∧ arDirConf r.ar = true)

theorem SegReg.nullOutward_spec (r : SegReg) (cpl : BitVec 2) :
    (r.Unusable cpl → r.nullOutward cpl = { r with sel := 0#16, valid := false }) ∧
      (¬r.Unusable cpl → r.nullOutward cpl = r) := by
  have hiff : (r.valid && !(arExec r.ar && arDirConf r.ar) && decide (arDpl r.ar < cpl)) = true ↔
      r.Unusable cpl := by
    simp only [SegReg.Unusable, Bool.and_eq_true, Bool.not_eq_true', decide_eq_true_eq,
      ← Bool.not_eq_true]
    tauto
  exact ⟨fun h => if_pos (hiff.2 h), fun h => if_neg fun h' => h (hiff.1 h')⟩

/-! ## What a return to an outer level leaves -/

theorem SegReg.loadedFrom_of_eq {r : SegReg} {sel : Word} {d : Desc}
    (h : r = SegReg.ofDesc sel d) : r.loadedFrom sel d := by
  subst h
  exact ⟨rfl, rfl, rfl, rfl, rfl⟩

section
variable (iret : Bool) (adj newCs newIp outSs outSp : Word) (a p : Addr) (d e : Desc)

theorem State.returnedOutward_spec (s : State) :
    let t := (s.returnedOutward iret adj newCs newIp outSs outSp (a, d) (p, e)).endService iret
    t.cpl = rpl newCs ∧ t.cs.loadedFrom newCs d ∧ t.ip = newIp ∧ t.ss.loadedFrom outSs e ∧
      t.regs = { s.regs with sp := outSp + adj } ∧ t.flags = s.returnFlags iret ∧
      (∀ r, r = .ds ∨ r = .es → t.seg r = (s.seg r).nullOutward (rpl newCs)) ∧
      t.nmiInService = (s.nmiInService && !iret) := by
  let u := ((s.holdAccessed d).loadCs newCs (a, d)).putStack outSs (p, e)
  have hcpl : u.cpl = rpl newCs := State.putStack_cpl _ _ _
  have hcs : u.cs = SegReg.ofDesc newCs d := State.putStack_cs _ _ _
  have hregs : u.regs = s.regs := by simp [u]
  have hseg : ∀ r, r = .ds ∨ r = .es → u.seg r = s.seg r := by
    rintro r (rfl | rfl) <;> simp [u, State.seg]
  have hnmi : u.nmiInService = s.nmiInService := by simp [u]
  refine ⟨hcpl, SegReg.loadedFrom_of_eq hcs, rfl, SegReg.loadedFrom_of_eq rfl,
    congrArg (fun r : Regs => { r with sp := outSp + adj }) hregs, rfl, fun r hr => ?_,
    congrArg (· && !iret) hnmi⟩
  rw [← hseg r hr]
  obtain rfl | rfl := hr <;> rfl

variable (hp : s.msw.pe = true)
include hp

/-- Both accessed bits are set, and no other byte changes (R160). -/
theorem State.readByte_returnedOutward :
    let t := (s.returnedOutward iret adj newCs newIp outSs outSp (a, d) (p, e)).endService iret
    (∀ b : Addr, b ≠ a + 5 → b ≠ p + 5 → t.readByte b = s.readByte b) ∧
      (∀ x ∈ [(a, d), (p, e)], a ≠ p → s.isRam (x.1 + 5) 1 = true →
        t.readByte (x.1 + 5) = s.accessedByte x.1 x.2) := by
  let h := s.holdAccessed d
  let u := h.loadCs newCs (a, d)
  have hph : h.msw.pe = true := by simpa [h] using hp
  have hpu : u.msw.pe = true := by simpa [u] using hph
  have hcode {b : Addr} (hb : b ≠ a + 5) : u.readByte b = s.readByte b :=
    (State.readByte_setAccessed_ne hph d hb).trans (s.readByte_holdAccessed d b)
  have hstack {b : Addr} (hb : b ≠ p + 5) : (u.setAccessed p e).readByte b = u.readByte b :=
    State.readByte_setAccessed_ne hpu e hb
  refine ⟨fun b ha hb => (hstack hb).trans (hcode ha), fun x hx hap hram => ?_⟩
  have hne : a + 5 ≠ p + 5 := fun he => hap ((BitVec.add_left_inj _).1 he)
  simp only [List.mem_cons, List.not_mem_nil, or_false] at hx
  obtain rfl | rfl := hx
  · have hram' : h.isRam (a + 5) 1 = true := by
      rwa [State.isRam_congr (s := s) (by simp [h]) (by simp [h])]
    calc (u.setAccessed p e).readByte (a + 5)
      _ = (h.setAccessed a d).readByte (a + 5) := hstack hne
      _ = h.accessedByte a d := (h.accessedAt_setAccessed a d).1 hram'
      _ = s.accessedByte a d := State.accessedByte_congr (s.readByte_holdAccessed d _) d
  · have hram' : u.isRam (p + 5) 1 = true := by
      rwa [State.isRam_congr (s := s) (by simp [u, h]) (by simp [u, h])]
    calc (u.setAccessed p e).readByte (p + 5)
      _ = u.accessedByte p e := (u.accessedAt_setAccessed p e).1 hram'
      _ = s.accessedByte p e := State.accessedByte_congr (hcode hne.symm) e

end
end

/-- The forms of a return, with the bytes each pops. -/
theorem isReturn_of {s : State} (hp : s.msw.pe = true) {i : Instr} {adj : Word} {iret : Bool}
    {k : Nat}
    (h : iret = false ∧ k = 4 ∧ (i = .retFar ∧ adj = 0#16 ∨ i = .retFarImm adj) ∨
      iret = true ∧ k = 6 ∧ i = .iret ∧ adj = 0#16 ∧ s.flags.nt = false) :
    k = returnBytes iret ∧ IsReturn i s adj iret := by
  obtain ⟨rfl, rfl, hi⟩ | ⟨rfl, rfl, rfl, rfl, hnt⟩ := h
  · exact ⟨rfl, isReturn_retFar hp hi⟩
  · exact ⟨rfl, isReturn_iret hp hnt⟩

/-- Settles O50: a more privileged return selector fails the tests on its descriptor
(`State.returnDesc_inward`), a less privileged one leads to `State.returnedOutward`. -/
theorem returnsToAnOuterLevel : Obligations.ReturnsToAnOuterLevel := by
  intro s i adj iret k a hp hi hframe hwords newIp newCs g d hn ha hans
  obtain ⟨rfl, hreturn⟩ := isReturn_of hp hi
  have hpops := State.returns_of hframe hwords
  refine ⟨?inward, ?outward⟩
  case inward =>
    intro hrpl
    rw [hreturn, State.farReturn_eq hpops, State.returnDesc_inward hn ha hans hrpl]
    rfl
  case outward =>
    intro hrpl hd hpres hlim hok houter h outSp outSs p hns hps hansp e he
    have hdesc := State.returnDesc_of hn ha hans (BitVec.le_of_lt hrpl) hd hpres
    have hthrough := State.returnThrough_outward (a := a) hrpl hlim hok houter (outSs := outSs)
      (outSp := outSp) rfl rfl hns hps hansp he
    obtain ⟨hcpl, hcs, hip, hss, hregs, hflags, hsegs, hnmi⟩ :=
      s.returnedOutward_spec iret adj newCs newIp outSs outSp a p d e
    obtain ⟨hbytes, haccessed⟩ :=
      State.readByte_returnedOutward iret adj newCs newIp outSs outSp a p d e hp
    refine ⟨_, ?_, hcpl, hcs, hip, hss, hregs, hflags, fun r hr => ?_, hbytes, haccessed, hnmi⟩
    · rw [hreturn, State.farReturn_eq hpops, hdesc, Exec.ok_bind, hthrough]
      rfl
    · rw [hsegs r hr]
      exact (s.seg r).nullOutward_spec (rpl newCs)

end Sys2Proof.Machine
end

section
/-! PROOFS. Near JMP, CALL and RET. -/

namespace Sys2Proof.Machine

section
variable {s : State} {target : Word}

/-! ## The limit of CS (R233, R480) -/

theorem State.targetOk_of (h : s.msw.pe = true → target ≤ s.cs.limit) :
    s.targetOk target = true := by
  cases hp : s.msw.pe with
  | true => simpa [State.targetOk, hp] using BitVec.le_def.1 (h hp)
  | false => simp [State.targetOk, hp]

theorem State.targetOk_beyond (hp : s.msw.pe = true) (h : s.cs.limit < target) :
    s.targetOk target = false := by
  simpa [State.targetOk, hp] using BitVec.lt_def.1 h

theorem State.nearJump_beyond (hp : s.msw.pe = true) (h : s.cs.limit < target) :
    s.nearJump target = raise 13 0#16 :=
  bind_raises (by rw [State.targetOk_beyond hp h, require_false])

theorem State.jump_eq_atIp (s : State) (target : Word) : s.jump target = s.atIp target := rfl

/-! ## JMP (R487 to R489) -/

/-- The forms of a near JMP, the r/m operand read. -/
theorem exec_nearJump {i : Instr}
    (h : (∃ d : Byte, i = .jmpShort d ∧ target = s.ip + sext16 d) ∨
      (∃ d : Word, i = .jmpRel d ∧ target = s.ip + d) ∨
      (∃ rm, i = .jmpRm rm ∧ s.rmReady .read .word rm = true ∧ target = s.rmValue .word rm)) :
    exec i s = s.finish (s.nearJump target) := by
  obtain ⟨d, rfl, rfl⟩ | ⟨d, rfl, rfl⟩ | ⟨rm, rfl, hrm, rfl⟩ := h
  · rfl
  · rfl
  · exact congrArg s.finish (Exec.bind_of_ok (State.readRM_of_ready hrm))

/-! ## CALL (R482, R483) -/

/-- The forms of a near CALL, the r/m operand read. -/
theorem exec_nearCall {i : Instr}
    (h : (∃ d : Word, i = .callRel d ∧ target = s.ip + d) ∨
      (∃ rm, i = .callRm rm ∧ s.rmReady .read .word rm = true ∧ target = s.rmValue .word rm)) :
    exec i s = s.finish (s.nearCall target) := by
  obtain ⟨d, rfl, rfl⟩ | ⟨rm, rfl, hrm, rfl⟩ := h
  · rfl
  · exact congrArg s.finish (Exec.bind_of_ok (State.readRM_of_ready hrm))

theorem State.nearCall_of (hpush : s.pushOk 1 = true) (ht : s.targetOk target = true) :
    s.nearCall target = .ok ((s.pushRaw s.ip).jump target) :=
  (Exec.bind_of_ok (require_of ht _ _)).trans (Exec.bind_of_ok (State.push_of_pushOk hpush s.ip))

/-- The target is tested before the push. -/
theorem State.nearCall_beyond (hp : s.msw.pe = true) (h : s.cs.limit < target) :
    s.nearCall target = raise 13 0#16 :=
  bind_raises (by rw [State.targetOk_beyond hp h, require_false])

/-- Beside the stack a near CALL changes what a near JMP does. -/
theorem State.sameElse_nearCall (s : State) (target : Word) :
    let t := (s.pushRaw s.ip).jump target
    ({ s.atIp target with flushed := t.flushed } : State).sameElse t := by
  have h := s.sameElse_pushRaw s.ip
  unfold State.sameElse at h ⊢
  rw [h]
  rfl

/-! ## RET (R493, R494) -/

/-- The forms of a near RET. -/
theorem exec_nearReturn {i : Instr} {adj : Word} (h : i = .ret ∧ adj = 0#16 ∨ i = .retImm adj) :
    exec i s = s.finish (s.nearReturn adj) := by
  obtain ⟨rfl, rfl⟩ | rfl := h <;> rfl

/-- A near RET pops its target and jumps there. -/
theorem State.nearReturn_eq (hpop : s.popReady s.regs.sp = true) (adj : Word) :
    s.nearReturn adj = (do
      require (s.targetOk (s.busWord 0 (s.above 0))) 13 0#16
      .ok ((s.setSp (s.regs.sp + 2 + adj)).jump (s.busWord 0 (s.above 0)))) := by
  rw [State.above_zero]
  exact Exec.bind_of_ok (State.popWord_of_ready hpop)

end

/-- Settles O36: each form is one near jump, whose target is tested against the limit of CS. -/
theorem nearJumps : Obligations.NearJumps := by
  intro s i target hi
  rw [exec_nearJump hi]
  refine ⟨fun ht => ?_, fun hp hlim => ?_⟩
  · rw [State.nearJump_of (State.targetOk_of ht), State.finish_ok, State.jump_eq_atIp]
  · rw [State.nearJump_beyond hp hlim]
    rfl

/-- Settles O37: a CALL is a push and a jump, a RET a pop and a jump, and the target is tested before
anything changes. -/
theorem nearCallsAndReturns : Obligations.NearCallsAndReturns := by
  refine ⟨?calls, ?returns⟩
  case calls =>
    intro s i target hi
    rw [exec_nearCall hi]
    refine ⟨fun hpush ht => ?_, fun hp hlim => ?_⟩
    · rw [State.nearCall_of hpush (State.targetOk_of ht)]
      have hpushed := State.pushed_pushRaw (State.sp_ne_one_of_pushOk hpush) s.ip
      exact ⟨_, rfl, State.pushed_congr hpushed rfl fun _ => rfl, s.regs.onlyWord_sp _,
        s.pushRaw_flags s.ip, s.sameElse_nearCall target, rfl⟩
    · rw [State.nearCall_beyond hp hlim]
      rfl
  case returns =>
    intro s i adj hi hpop target
    rw [exec_nearReturn hi, State.nearReturn_eq hpop]
    refine ⟨fun ht => ?_, fun hp hlim => ?_⟩
    · rw [State.targetOk_of ht]
      rfl
    · rw [State.targetOk_beyond hp hlim]
      rfl

end Sys2Proof.Machine
end

section
/-! PROOFS. What a read finds: the parts of a state it depends on, and where they are the same. -/

namespace Sys2Proof.Machine

/-- Reads find the same in t as in s: memory, the system around the processor, other masters' stores and
the bus times of the step are the same (R123, R129 to R132). -/
structure State.SameBus (s t : State) : Prop where
  platform : t.platform = s.platform
  pe : t.msw.pe = s.msw.pe
  pins : t.pins = s.pins
  run : t.run = s.run
  draws : t.draws = s.draws
  mem : t.mem = s.mem
  stores : t.stores = s.stores
  clock : t.clock = s.clock
  pre : t.pre = s.pre

namespace State.SameBus

section
variable {s t u : State}

theorem trans (h : s.SameBus t) (h' : t.SameBus u) : s.SameBus u where
  platform := h'.platform.trans h.platform
  pe := h'.pe.trans h.pe
  pins := h'.pins.trans h.pins
  run := h'.run.trans h.run
  draws := h'.draws.trans h.draws
  mem := h'.mem.trans h.mem
  stores := h'.stores.trans h.stores
  clock := h'.clock.trans h.clock
  pre := h'.pre.trans h.pre

variable (h : s.SameBus t)
include h

theorem physAddr (a : Addr) : t.physAddr a = s.physAddr a := State.physAddr_congr h.platform h.pe a

theorem byteAt (k : Nat) : t.byteAt k = s.byteAt k := State.byteAt_congr h.mem h.platform h.draws k

theorem readByte (a : Addr) : t.readByte a = s.readByte a :=
  State.readByte_congr h.mem h.platform h.draws h.pe a

theorem masterOps : t.masterOps = s.masterOps := by
  simp only [State.masterOps, h.platform, h.pins, h.run]

theorem passedAt (m : Nat) : t.passedAt m = s.passedAt m := by
  induction m with
  | zero => simp only [State.passedAt, h.draws, h.masterOps]
  | succ m ih => simp only [State.passedAt, State.gap, ih, h.draws, h.masterOps, h.pre, h.clock]

theorem passed (m : Nat) : t.passed m = s.passed m := by
  simp only [State.passed, h.masterOps, h.passedAt]

theorem knownAt (k : Nat) : t.knownAt k = s.knownAt k := by
  simp only [State.knownAt, h.stores, h.physAddr, h.passed]

theorem seen (m : Nat) : t.seen m = s.seen m := by simp only [State.seen, h.clock]

theorem time (i : Nat) : t.time i = s.time i := by simp only [State.time, h.clock, h.stores]

theorem byteSeen (m k : Nat) : t.byteSeen m k = s.byteSeen m k := by
  simp only [State.byteSeen, State.ramAt, State.lastStored, h.platform, h.draws, h.masterOps,
    h.byteAt, h.physAddr, h.passed, h.seen, h.knownAt]
  rfl

theorem busByte (i : Nat) (a : Addr) : t.busByte i a = s.busByte i a := by
  simp only [State.busByte, h.byteSeen, h.time, h.physAddr]

theorem busWord (i : Nat) (a : Addr) : t.busWord i a = s.busWord i a := by
  simp only [State.busWord, h.byteSeen, h.time, h.physAddr]

theorem tssWord (b : Addr) (off : Nat) : t.tssWord b off = s.tssWord b off := h.busWord _ _

theorem busDesc (i : Nat) (a : Addr) : t.busDesc i a = s.busDesc i a := by
  simp only [State.busDesc, State.lockedWord, h.busByte, h.time, h.seen]

theorem answersAt (a : Addr) (n : Nat) : t.answersAt a n = s.answersAt a n := by
  simp only [State.answersAt, h.platform, h.physAddr]

end

end State.SameBus

/-- A locked sequence that begins in both (R129). -/
theorem State.SameBus.holdAccessed {s t : State} (h : s.SameBus t) (d : Desc) :
    (s.holdAccessed d).SameBus (t.holdAccessed d) := by
  unfold State.holdAccessed
  split
  · exact h
  · exact { h with clock := congrArg (fun x : BusClock => { x with held := some d.time }) h.clock }

end Sys2Proof.Machine
end

section
/-! PROOFS. Gates: their targets, and the stack of an inner level. -/

namespace Sys2Proof.Machine

section
variable {s t : State}

/-! ## The target of a gate (R234, R645) -/

/-- A gate's selector names, by its descriptor d at c, a present code segment of the current or a more
privileged level. -/
structure State.GateTarget (s : State) (csel : Word) (c : Addr) (d : Desc) : Prop where
  notNull : isNull csel = false
  addr : s.descAddr csel = some c
  answers : s.answersAt c 6 = true
  desc : s.busDesc 3 c = d
  segment : arSegment d.ar = true
  exec : arExec d.ar = true
  level : arDpl d.ar ≤ s.cpl
  present : arPresent d.ar = true

theorem State.GateTarget.eq {csel : Word} {c : Addr} {d : Desc} (h : s.GateTarget csel c d)
    (ext : Word) : s.gateTarget csel ext = .ok (c, d) := by
  obtain ⟨hn, hc, hans, rfl, hseg, hexec, hlevel, hpres⟩ := h
  exact (State.gateTarget_eq_ok _ _ _ _).2
    ⟨hn, c, hc, hans, rfl, by simp [arCode, hseg, hexec], hlevel, hpres⟩

/-! ## The stack of an inner level (R236) -/

theorem State.innerStack_of {level : BitVec 2} {newSs newSp : Word} {k : Addr} {n : Nat}
    (h : s.innerStackAt level newSs newSp k n) (ext : Word) :
    s.innerStack level ext = .ok (newSs, newSp, k, s.busDesc 12 k) ∧
      (SegReg.ofDesc newSs (s.busDesc 12 k)).room newSp n = true := by
  obtain ⟨hlim, hans, hsp, hss, hn, hk, hkans, hload, hroom⟩ := h
  exact ⟨(State.innerStack_eq_ok _ _ _ _).2
    ⟨hlim, hans, hss, hsp, State.stackDesc_of hn hk hkans hload 10 ext⟩, hroom⟩

theorem State.SameBus.innerStackAt (hbus : s.SameBus t) (htr : t.tr = s.tr)
    (hgdtr : t.gdtr = s.gdtr) (hldtr : t.ldtr = s.ldtr) {level : BitVec 2} {newSs newSp : Word}
    {k : Addr} {n : Nat} (h : s.innerStackAt level newSs newSp k n) :
    t.innerStackAt level newSs newSp k n := by
  have haddr : t.descAddr newSs = s.descAddr newSs := by
    simp only [State.descAddr, State.ldtAddr, State.gdtAddr, hgdtr, hldtr]
  unfold State.innerStackAt
  rwa [htr, haddr, hbus.answersAt, hbus.answersAt, hbus.tssWord, hbus.tssWord, hbus.busDesc]

/-- Words pushed where the stack segment has room for them. -/
theorem State.pushed_of_room {vs : List Word} (h : s.ss.room s.regs.sp vs.length = true) :
    s.pushed (s.pushAllRaw vs) vs := by
  have hlen : 2 * vs.length ≤ s.regs.sp.toNat := by
    simp only [SegReg.room, Bool.and_eq_true, decide_eq_true_eq] at h
    exact h.1
  have := s.regs.sp.isLt
  exact State.pushed_pushAllRaw vs s (by omega) (SegReg.sp_of_room h)

end

/-! ## An entry to an inner level (R236, R645)

A delivery sets the accessed bit of the code descriptor after the pushes, a CALL before them. -/

section
variable {s : State} {sel off : Word} {c k : Addr} {d e : Desc} {newSs newSp : Word}
  {frame : List Word}

theorem State.switchStack_regs (s : State) (x : Word × Word × Addr × Desc) :
    (s.switchStack x).regs = { s.regs with sp := x.2.1 } := by
  simp [State.switchStack, State.putStack]

/-- A state that shows the same memory and registers is entered as well. -/
theorem State.entersInner_congr {t t' : State}
    (h : s.entersInner t sel off c d newSs newSp k e frame) (hcpl : t'.cpl = t.cpl)
    (hss : t'.ss = t.ss) (hregs : t'.regs = t.regs) (hcs : t'.cs = t.cs) (hip : t'.ip = t.ip)
    (hds : t'.ds = t.ds) (hes : t'.es = t.es) (hr : ∀ b, t'.readByte b = t.readByte b) :
    s.entersInner t' sel off c d newSs newSp k e frame := by
  simpa only [State.entersInner, State.readWord, hcpl, hss, hregs, hcs, hip, hds, hes, hr] using h

theorem State.entersInner_of_holdAccessed {t : State} {d' : Desc}
    (h : (s.holdAccessed d').entersInner t sel off c d newSs newSp k e frame) :
    s.entersInner t sel off c d newSs newSp k e frame := by
  rw [State.holdAccessed_eq] at h
  exact h

theorem State.loadCs_cs (s : State) (x : Addr × Desc) :
    (s.loadCs sel x).cs = SegReg.ofDesc sel x.2 := rfl

theorem State.loadCs_withRpl_cpl (s : State) (p : BitVec 2) (x : Addr × Desc) :
    (s.loadCs (withRpl sel p) x).cpl = p := rpl_withRpl sel p

theorem State.readByte_loadCs (s : State) (x : Addr × Desc) (b : Addr) :
    (s.loadCs sel x).readByte b = (s.setAccessed x.1 x.2).readByte b := rfl

theorem State.readByte_jump (s : State) (b : Addr) : (s.jump off).readByte b = s.readByte b := rfl

/-- The n-th byte below the new top of the stack. -/
def innerCell (e : Desc) (newSp : Word) (n : Nat) : Addr := linear e.base (newSp - BitVec.ofNat 16 n)

/-- The accessed bit of the code descriptor, set where memory is that of s at its rights byte. -/
theorem State.readByte_setAccessed_same {u : State} (hmsw : u.msw = s.msw)
    (hplatform : u.platform = s.platform) (hram : s.isRam (c + 5) 1 = true)
    (hbyte : u.readByte (c + 5) = s.readByte (c + 5)) :
    (u.setAccessed c d).readByte (c + 5) = s.accessedByte c d := by
  have hram' : u.isRam (c + 5) 1 = true := by
    rwa [State.isRam_congr hplatform (congrArg Msw.pe hmsw)]
  exact ((u.accessedAt_setAccessed c d).1 hram').trans (State.accessedByte_congr hbyte d)

variable (hp : s.msw.pe = true)
include hp

/-- Words pushed on the new stack, which s has but for its memory, are below its top, and every other
byte of memory stays. -/
theorem State.pushed_inner {u : State} (hss : u.ss = SegReg.ofDesc newSs e)
    (hregs : u.regs = { s.regs with sp := newSp }) (hmsw : u.msw = s.msw)
    (hplatform : u.platform = s.platform)
    (hroom : (SegReg.ofDesc newSs e).room newSp frame.length = true) :
    (u.pushAllRaw frame).regs =
        { s.regs with sp := newSp - BitVec.ofNat 16 (2 * frame.length) } ∧
      (∀ i, i < frame.length → s.isRam (innerCell e newSp (2 * (i + 1))) 2 = true →
        (u.pushAllRaw frame).readWord (innerCell e newSp (2 * (i + 1))) = frame.getD i 0#16) ∧
      (∀ b, (∀ i, i < 2 * frame.length → b ≠ innerCell e newSp (i + 1)) →
        (u.pushAllRaw frame).readByte b = u.readByte b) := by
  have hbelow (n : Nat) : u.below n = innerCell e newSp n := by
    rw [State.below, hss, hregs]
    rfl
  have hpushed : u.pushed (u.pushAllRaw frame) frame := State.pushed_of_room (by rwa [hss, hregs])
  simp only [State.pushed, hbelow, State.isRam_congr hplatform (congrArg Msw.pe hmsw)] at hpushed
  obtain ⟨hsp, hwords, hframe⟩ := hpushed
  refine ⟨?_, hwords, fun b hb => hframe b fun i hi => ?_⟩
  · rw [State.pushAllRaw_regs, hsp, hregs]
  · exact State.apart_of_ne (by rwa [hmsw]) (hb i hi)

/-- An entry to an inner level, told by its registers, the bytes that change and the words pushed. -/
theorem State.entersInner_of {t : State} (hcpl : t.cpl = arDpl d.ar)
    (hss : t.ss = SegReg.ofDesc newSs e)
    (hregs : t.regs = { s.regs with sp := newSp - BitVec.ofNat 16 (2 * frame.length) })
    (hcs : t.cs = SegReg.ofDesc (withRpl sel (arDpl d.ar)) d) (hip : t.ip = off)
    (hds : t.ds = s.ds) (hes : t.es = s.es)
    (hbytes : ∀ b, b ≠ c + 5 → (∀ i, i < 2 * frame.length → b ≠ innerCell e newSp (i + 1)) →
      t.readByte b = (s.setAccessed k e).readByte b)
    (hcode : c + 5 ≠ k + 5 → s.isRam (c + 5) 1 = true →
      (∀ i, i < 2 * frame.length → c + 5 ≠ innerCell e newSp (i + 1)) →
      t.readByte (c + 5) = s.accessedByte c d)
    (hwords : ∀ i, i < frame.length → s.isRam (innerCell e newSp (2 * (i + 1))) 2 = true →
      c + 5 ≠ innerCell e newSp (2 * (i + 1)) → c + 5 ≠ innerCell e newSp (2 * (i + 1)) + 1 →
      t.readWord (innerCell e newSp (2 * (i + 1))) = frame.getD i 0#16) :
    s.entersInner t sel off c d newSs newSp k e frame := by
  refine ⟨hcpl, SegReg.loadedFrom_of_eq hss, hregs, SegReg.loadedFrom_of_eq hcs, hip, hds, hes,
    fun b hbc hbk hb => ?_, fun x hx hck hram hb => ?_, hwords⟩
  · exact (hbytes b hbc hb).trans (State.readByte_setAccessed_ne hp e hbk)
  · have hne : c + 5 ≠ k + 5 := fun he => hck ((BitVec.add_left_inj _).1 he)
    simp only [List.mem_cons, List.not_mem_nil, or_false] at hx
    obtain rfl | rfl := hx
    · exact hcode hne hram hb
    · exact (hbytes _ hne.symm hb).trans ((s.accessedAt_setAccessed k e).1 hram)

/-- The state of a delivery: the pushes, then the accessed bit of the code descriptor. -/
theorem State.entersInner_pushed
    (hroom : (SegReg.ofDesc newSs e).room newSp frame.length = true) :
    s.entersInner ((((s.switchStack (newSs, newSp, k, e)).pushAllRaw frame).loadCs
      (withRpl sel (arDpl d.ar)) (c, d)).jump off) sel off c d newSs newSp k e frame := by
  obtain ⟨hregs, hwords, hframe⟩ := State.pushed_inner hp (u := s.switchStack (newSs, newSp, k, e))
    rfl (s.switchStack_regs _) (by simp) (by simp) hroom
  have hss : ((s.switchStack (newSs, newSp, k, e)).pushAllRaw frame).ss = SegReg.ofDesc newSs e :=
    State.pushAllRaw_ss _ _
  have hds : ((s.switchStack (newSs, newSp, k, e)).pushAllRaw frame).ds = s.ds := by simp
  have hes : ((s.switchStack (newSs, newSp, k, e)).pushAllRaw frame).es = s.es := by simp
  have hmsw : ((s.switchStack (newSs, newSp, k, e)).pushAllRaw frame).msw = s.msw := by simp
  have hplatform : ((s.switchStack (newSs, newSp, k, e)).pushAllRaw frame).platform =
    s.platform := by simp
  generalize (s.switchStack (newSs, newSp, k, e)).pushAllRaw frame = u at *
  have hbyte (b : Addr) : ((u.loadCs (withRpl sel (arDpl d.ar)) (c, d)).jump off).readByte b =
      (u.setAccessed c d).readByte b := by
    rw [State.readByte_jump, State.readByte_loadCs]
  have hother {b : Addr} (hb : b ≠ c + 5) : (u.setAccessed c d).readByte b = u.readByte b :=
    State.readByte_setAccessed_ne (by rwa [hmsw]) d hb
  refine State.entersInner_of hp ?_ ?_ ?_ ?_ (State.jump_ip _ _) ?_ ?_ ?_ ?_ ?_
  · rw [State.jump_cpl, State.loadCs_withRpl_cpl]
  · simpa using hss
  · simpa using hregs
  · rw [State.jump_cs, State.loadCs_cs]
  · simpa using hds
  · simpa using hes
  · intro b hbc hb
    rw [hbyte, hother hbc, hframe b hb]
    rfl
  · intro hne hram hb
    rw [hbyte, State.readByte_setAccessed_same hmsw hplatform hram]
    exact (hframe _ hb).trans (State.readByte_setAccessed_ne hp e hne)
  · intro i hi hram hlo hhi
    rw [State.readWord, hbyte, hbyte, hother hlo.symm, hother hhi.symm]
    exact hwords i hi hram

/-- The state of a CALL: the accessed bit of the code descriptor, then the pushes. -/
theorem State.entersInner_pushing (r : State)
    (hroom : (SegReg.ofDesc newSs e).room newSp frame.length = true) :
    s.entersInner (((((s.switchStack (newSs, newSp, k, e)).loadCs (withRpl sel (arDpl d.ar))
      (c, d)).release r).pushAllRaw frame).jump off) sel off c d newSs newSp k e frame := by
  let x := s.switchStack (newSs, newSp, k, e)
  have hxregs : x.regs = { s.regs with sp := newSp } := s.switchStack_regs _
  have hxss : x.ss = SegReg.ofDesc newSs e := rfl
  have hmsw : x.msw = s.msw := by simp [x]
  have hplatform : x.platform = s.platform := by simp [x]
  let u := (x.loadCs (withRpl sel (arDpl d.ar)) (c, d)).release r
  have hother {b : Addr} (hb : b ≠ c + 5) : u.readByte b = x.readByte b :=
    State.readByte_setAccessed_ne (by rwa [hmsw]) d hb
  obtain ⟨hregs, hwords, hframe⟩ := State.pushed_inner hp (u := u) (by simpa [u] using hxss)
    (by simpa [u] using hxregs) (by simpa [u] using hmsw) (by simpa [u] using hplatform) hroom
  refine State.entersInner_of hp ?_ ?_ hregs ?_ rfl ?_ ?_ ?_ ?_ ?_
  · exact (State.pushAllRaw_cpl u frame).trans (rpl_withRpl _ _)
  · exact (State.pushAllRaw_ss u frame).trans (by simpa [u] using hxss)
  · exact State.pushAllRaw_cs u frame
  · simp
  · simp
  · exact fun b hbc hb => (hframe b hb).trans (hother hbc)
  · exact fun hne hram hb => (hframe _ hb).trans (State.readByte_setAccessed_same hmsw hplatform
      hram (State.readByte_setAccessed_ne hp e hne))
  · exact fun i hi hram _ _ => hwords i hi hram

end

end Sys2Proof.Machine
end

section
/-! PROOFS. Entries through an interrupt or trap gate: exceptions, INT and interrupts. -/

namespace Sys2Proof.Machine

/-! ## The state a delivery begins in -/

/-- s with the latches of w: what raising an exception or accepting an interrupt changes before the
delivery. -/
def State.latchedAs (s w : State) : State :=
  { s with
    tfAtStart := w.tfAtStart, intInhibit := w.intInhibit, boundaryStep := w.boundaryStep
    modeSwitch := w.modeSwitch, nmiPending := w.nmiPending, nmiInService := w.nmiInService
    pxOverrun := w.pxOverrun, out := w.out }

/-- Where a delivery of an interrupt or exception begins: at s but for the latches. -/
def State.delivering (s w : State) : State := (s.latchedAs w).entering

theorem State.accept_eq_latchedAs (s : State) (e : BoundaryEvent) :
    s.accept e = s.latchedAs (s.accept e) := by
  cases e <;> rfl

theorem State.sameBus_delivering (s w : State) : s.entering.SameBus (s.delivering w) :=
  ⟨rfl, rfl, rfl, rfl, rfl, rfl, rfl, rfl, rfl⟩

section
variable {s w : State} {n : Byte} {kind : IntKind} {ret : RetAddr} {code : Option Word}

/-- A delivery in protected mode whose first attempt completes. -/
theorem State.deliver_of {t : State} (hp : s.msw.pe = true)
    (h : (s.delivering w).protEntry n kind ret code = .ok t) (fail : RetAddr) :
    (s.latchedAs w).deliver n kind ret fail code = .next (t.release (s.latchedAs w)) := by
  have hint : (s.latchedAs w).interrupt n kind ret fail code = .ok t := by
    rw [State.interrupt, if_pos (show (s.latchedAs w).msw.pe = true from hp)]
    change State.protInterrupt 5 (s.delivering w) n kind ret fail code = _
    rw [State.protInterrupt, h]
  rw [State.deliver, hint]
  rfl

/-! ## The events (R624, R630, R634, R645) -/

/-- An exception saves the address of the instruction. -/
theorem State.takeException_eq (s : State) (v : Byte) (code : Word) :
    s.takeException v code .unchanged =
      (s.latchedAs { s with tfAtStart := false, intInhibit := false }).deliver v .exception s.here
        s.here (if hasCode v then some code else none) := rfl

/-- INT n, INT 3 and INTO save the address of the next instruction. -/
theorem exec_softInt {i : Instr}
    (h : i = .int n ∨ (i = .int3 ∧ n = 3#8) ∨ (i = .into ∧ n = 4#8 ∧ s.flags.of = true)) :
    exec i s = (s.latchedAs s).deliver n .int s.nextAddr s.here none := by
  obtain rfl | ⟨rfl, rfl⟩ | ⟨rfl, rfl, hof⟩ := h
  · rfl
  · rfl
  · exact if_pos hof

/-- So does an interrupt between two instructions. -/
theorem State.deliverEvent_eq (s : State) (e : BoundaryEvent) :
    s.deliverEvent e = (s.latchedAs (s.accept e)).deliver (s.eventVector e) e.kind s.nextAddr
      s.nextAddr none := by
  rw [← State.accept_eq_latchedAs]
  rfl

theorem BoundaryEvent.kind_eq_nmi (e : BoundaryEvent) : (e.kind == .nmi) = (e == .nmi) := by
  cases e <;> rfl

theorem BoundaryEvent.kind_ne_int (e : BoundaryEvent) : e.kind ≠ .int := by
  cases e <;> decide

/-- The error code of the vectors that have one. -/
theorem codeOf_toList (v : Byte) (code : Word) :
    (if hasCode v then some code else none).toList =
      if v = 8#8 ∨ v = 10#8 ∨ v = 11#8 ∨ v = 12#8 ∨ v = 13#8 then [code] else [] := by
  have hiff : hasCode v = true ↔ v = 8#8 ∨ v = 10#8 ∨ v = 11#8 ∨ v = 12#8 ∨ v = 13#8 := by
    simp [hasCode, or_assoc]
  by_cases h : hasCode v = true
  · rw [if_pos h, if_pos (hiff.1 h)]
    rfl
  · rw [if_neg h, if_neg fun h' => h (hiff.2 h')]
    rfl

/-- The frame of an exception. -/
theorem State.entryFrame_here (s : State) (v : Byte) (code : Word) :
    s.entryFrame s.here (if hasCode v then some code else none) =
      [s.flags.toWord, s.cs.sel, s.curIp] ++
        (if v = 8#8 ∨ v = 10#8 ∨ v = 11#8 ∨ v = 12#8 ∨ v = 13#8 then [code] else []) := by
  rw [← codeOf_toList]
  rfl

/-- The frame of INT and of an interrupt. -/
theorem State.entryFrame_nextAddr (s : State) :
    s.entryFrame s.nextAddr none = [s.flags.toWord, s.cs.sel, s.ip] := rfl

/-! ## The gate of a vector (R645) -/

/-- Entry n of the interrupt table is a present interrupt or trap gate g. -/
structure State.VectorGate (s : State) (n : Byte) (g : Desc) : Prop where
  fits : 8 * n.toNat + 7 ≤ s.idtr.limit.toNat
  answers : s.answersAt (s.idtr.base + BitVec.ofNat 24 (8 * n.toNat)) 6 = true
  desc : s.busDesc 2 (s.idtr.base + BitVec.ofNat 24 (8 * n.toNat)) = g
  type : arSystemType g.ar = some 6 ∨ arSystemType g.ar = some 7
  present : arPresent g.ar = true

/-- Eight times a vector is its place in the table of protected mode. -/
theorem gateAddr_eq (base : Addr) (n : Byte) :
    base + (n.setWidth 24 <<< 3) = base + BitVec.ofNat 24 (8 * n.toNat) := by
  congr 1
  apply BitVec.eq_of_toNat_eq
  simp [BitVec.toNat_shiftLeft, Nat.shiftLeft_eq]
  omega

theorem State.VectorGate.protEntry {g : Desc} {t : State} (h : s.VectorGate n g)
    (hint : kind = .int → s.cpl ≤ arDpl g.ar) (ht : s.gateEntry g kind ret code = .ok t) :
    s.protEntry n kind ret code = .ok t := by
  obtain ⟨hfits, hans, rfl, htype, hpres⟩ := h
  rw [State.protEntry_eq_ok, gateAddr_eq]
  refine ⟨hfits, hans, _, rfl, ?_, hint, hpres, ?_⟩
  · obtain h | h := htype <;> simp [h]
  · rw [if_neg, ht]
    obtain h | h := htype <;> simp [h]

theorem State.VectorGate.delivering {g : Desc} (h : s.entering.VectorGate n g) (w : State) :
    (s.delivering w).VectorGate n g where
  fits := h.fits
  answers := h.answers
  desc := ((s.sameBus_delivering w).busDesc _ _).trans h.desc
  type := h.type
  present := h.present

theorem State.GateTarget.delivering {csel : Word} {c : Addr} {d : Desc}
    (h : s.entering.GateTarget csel c d) (w : State) : (s.delivering w).GateTarget csel c d where
  notNull := h.notNull
  addr := h.addr
  answers := h.answers
  desc := ((s.sameBus_delivering w).busDesc _ _).trans h.desc
  segment := h.segment
  exec := h.exec
  level := h.level
  present := h.present

/-- FLAGS after an entry: TF and NT clear, and IF for an interrupt gate and for an NMI. -/
def enteredFlags (f : Flags) (g : Desc) (nmi : Bool) : Flags :=
  { f with
    tf := false, nt := false,
    intf := if arSystemType g.ar = some 6 ∨ nmi = true then false else f.intf }

theorem gateFlags_eq (f : Flags) (g : Desc) (kind : IntKind) :
    gateFlags f (arSystemType g.ar == some 6) kind = enteredFlags f g (kind == .nmi) := by
  simp [gateFlags, enteredFlags]

/-! ## An entry of the same level -/

section
variable {g d : Desc} {c : Addr}

/-- t is s entered at the same level through the gate g to the code segment of the descriptor d, read at
c, a frame pushed before its accessed bit is set. -/
def State.EnteredSame (s t : State) (g : Desc) (c : Addr) (d : Desc) (frame : List Word)
    (nmi : Bool) : Prop :=
  (∃ u, s.pushed u frame ∧ (∀ b : Addr, b ≠ c + 5 → t.readByte b = u.readByte b)) ∧
    (s.isRam (c + 5) 1 = true → (∀ j, j < 2 * frame.length → c + 5 ≠ s.below (j + 1)) →
      t.readByte (c + 5) = s.accessedByte c d) ∧
    t.flags = enteredFlags s.flags g nmi ∧ t.ip = g.gateOffset ∧ t.cpl = s.cpl ∧
    t.cs.loadedFrom ((g.gateSelector &&& 0xFFFC#16) ||| s.cpl.setWidth 16) d ∧
    s.regs.onlyWord t.regs .sp (s.regs.sp - BitVec.ofNat 16 (2 * frame.length)) ∧
    t.ss = s.ss ∧ t.ds = s.ds ∧ t.es = s.es

/-- A gate to the same level leads where a far transfer to its target does, with FLAGS as an entry
leaves them. -/
theorem State.gateEntry_same (ht : s.GateTarget g.gateSelector c d) (hlevel : arDpl d.ar = s.cpl)
    (hlim : g.gateOffset ≤ d.limit)
    (hroom : s.ss.room s.regs.sp (s.entryFrame ret code).length = true) :
    s.gateEntry g kind ret code =
      .ok (((s.farEntered g.gateSelector g.gateOffset (c, d) (s.entryFrame ret code)).setFlags
        (enteredFlags s.flags g (kind == .nmi))).afterEntry kind s.draws) := by
  refine (State.gateEntry_eq_ok _ _ _ _ _ _).2 ⟨(c, d), ht.eq _, hlim, .inr ⟨?_, ?_, hroom, ?_⟩⟩
  · simp [State.goesInward, hlevel]
  · simp [hlevel]
  · rw [← gateFlags_eq]
    rfl

/-- FLAGS, the latches and the clock apart, that is the far transfer's state. -/
theorem State.enteredSame_farEntered (hp : s.msw.pe = true) {frame : List Word}
    (hroom : s.ss.room s.regs.sp frame.length = true) (nmi : Bool) (x : State) :
    s.EnteredSame ((((s.farEntered g.gateSelector g.gateOffset (c, d) frame).setFlags
      (enteredFlags s.flags g nmi)).afterEntry kind s.draws).release x) g c d frame nmi := by
  have hpushed : s.pushed ((s.holdAccessed d).pushAllRaw frame) frame :=
    State.pushed_holdAccessed
      (State.pushed_of_room (by rwa [State.holdAccessed_ss, State.holdAccessed_regs]))
  obtain ⟨hcs, hip, hcpl, hregs, -, hsegs⟩ :=
    s.farEntered_spec g.gateSelector g.gateOffset (c, d) frame
  have hother {b : Addr} (hb : b ≠ c + 5) :=
    State.readByte_farEntered_ne hp g.gateSelector g.gateOffset d frame hb
  have hcode := State.readByte_farEntered hp g.gateSelector g.gateOffset (a := c) hpushed
  rw [hpushed.1] at hregs
  generalize s.farEntered g.gateSelector g.gateOffset (c, d) frame = u at *
  exact ⟨⟨_, hpushed, fun b => hother⟩, hcode, rfl, hip, hcpl, hcs, hregs, hsegs⟩

theorem State.delivers_sameLevel (hp : s.msw.pe = true) (hg : s.entering.VectorGate n g)
    (ht : s.entering.GateTarget g.gateSelector c d) (hint : kind = .int → s.cpl ≤ arDpl g.ar)
    (hlevel : arDpl d.ar = s.cpl) (hlim : g.gateOffset ≤ d.limit) {frame : List Word}
    (hframe : s.entryFrame ret code = frame) (hpush : s.pushOk frame.length = true) (w : State)
    (fail : RetAddr) :
    ∃ t, (s.latchedAs w).deliver n kind ret fail code = .next t ∧
      s.EnteredSame t g c d frame (kind == .nmi) := by
  subst hframe
  rw [State.pushOk, if_pos hp] at hpush
  have hentry := (hg.delivering w).protEntry (ret := ret) (code := code) hint
    (State.gateEntry_same (ht.delivering w) hlevel hlim hpush)
  exact ⟨_, State.deliver_of hp hentry fail,
    State.enteredSame_farEntered (s := s.delivering w) hp hpush _ _⟩

end
end

/-- Settles O45: each event is a delivery through the vector's gate, and the gate leads where a far
transfer of the same level does (`State.gateEntry_same`). -/
theorem entryThroughAGate : Obligations.EntryThroughAGate := by
  intro s n c hp hfits gate g d hgate hc htype hgpres hn hca hseg hexec hpres hlevel hlim entered
  have hg : s.entering.VectorGate n g := ⟨hfits, hgate, rfl, htype, hgpres⟩
  have ht : s.entering.GateTarget g.gateSelector c d :=
    ⟨hn, hca, hc, rfl, hseg, hexec, BitVec.le_of_eq hlevel, hpres⟩
  refine ⟨fun code frame hframe hpush => ?_, fun i hi hdpl hpush => ?_, fun e he hpush => ?_⟩
  · rw [State.takeException_eq]
    exact State.delivers_sameLevel (kind := .exception) hp hg ht nofun hlevel hlim
      ((s.entryFrame_here n code).trans hframe.symm) hpush _ _
  · rw [exec_softInt hi]
    exact State.delivers_sameLevel (kind := .int) hp hg ht (fun _ => hdpl) hlevel hlim
      s.entryFrame_nextAddr hpush _ _
  · subst he
    rw [State.deliverEvent_eq, ← e.kind_eq_nmi]
    exact State.delivers_sameLevel hp hg ht (fun h => absurd h e.kind_ne_int) hlevel hlim
      s.entryFrame_nextAddr hpush _ _

end Sys2Proof.Machine
end

section
/-! PROOFS. Entries through an interrupt or trap gate to a more privileged level. -/

namespace Sys2Proof.Machine

section
variable {s : State} {n : Byte} {kind : IntKind} {ret : RetAddr} {code : Option Word}
  {g d : Desc} {c k : Addr} {newSs newSp : Word}

/-- The stack of an inner level is that of s wherever the delivery begins. -/
theorem State.innerStackAt_delivering {m : Nat}
    (h : (s.entering.holdAccessed d).innerStackAt (arDpl d.ar) newSs newSp k m) (w : State) :
    ((s.delivering w).holdAccessed d).innerStackAt (arDpl d.ar) newSs newSp k m :=
  ((s.sameBus_delivering w).holdAccessed d).innerStackAt (by simp [State.delivering, State.latchedAs])
    (by simp [State.delivering, State.latchedAs]) (by simp [State.delivering, State.latchedAs]) h

/-- The state an entry to an inner level leads to, h being s with the bus locked from the read of the code
descriptor on. -/
def State.innerEntered (s h : State) (g : Desc) (c : Addr × Desc) (stack : Word × Word × Addr × Desc)
    (frame : List Word) (kind : IntKind) : State :=
  ((((((h.switchStack stack).pushAllRaw frame).loadCs (withRpl g.gateSelector (arDpl c.2.ar))
    c).jump g.gateOffset).setFlags (enteredFlags s.flags g (kind == .nmi))).afterEntry kind
      s.draws).release s

/-- A gate to a more privileged level, whose stack has room for the frame. -/
theorem State.gateEntry_inner (ht : s.GateTarget g.gateSelector c d) (hconf : arDirConf d.ar = false)
    (hlevel : arDpl d.ar < s.cpl) (hlim : g.gateOffset ≤ d.limit) {frame : List Word}
    (hframe : [s.ss.sel, s.regs.sp] ++ s.entryFrame ret code = frame)
    (hstack : (s.holdAccessed d).innerStackAt (arDpl d.ar) newSs newSp k frame.length) :
    s.gateEntry g kind ret code = .ok (s.innerEntered (s.holdAccessed d) g (c, d)
      (newSs, newSp, k, (s.holdAccessed d).busDesc 12 k) frame kind) := by
  subst hframe
  obtain ⟨hinner, hroom⟩ := State.innerStack_of hstack kind.ext
  rw [List.length_append] at hroom
  refine (State.gateEntry_eq_ok _ _ _ _ _ _).2
    ⟨(c, d), ht.eq _, hlim, .inl ⟨?_, _, hinner, hroom, ?_⟩⟩
  · simp [State.goesInward, hconf, hlevel]
  · rw [State.innerEntered, ← gateFlags_eq]
    rfl

/-- FLAGS and the latches apart, that is the state of `State.entersInner_pushed`. -/
theorem State.innerEntered_spec {h : State} {e : Desc} {frame : List Word} (hp : h.msw.pe = true)
    (hroom : (SegReg.ofDesc newSs e).room newSp frame.length = true) (x : State) :
    let t := (s.innerEntered h g (c, d) (newSs, newSp, k, e) frame kind).release x
    h.entersInner t g.gateSelector g.gateOffset c d newSs newSp k e frame ∧
      t.flags = enteredFlags s.flags g (kind == .nmi) := by
  have hinner := State.entersInner_pushed (k := k) (sel := g.gateSelector) (off := g.gateOffset)
    (c := c) (d := d) hp hroom
  unfold State.innerEntered
  generalize State.jump _ _ = u at *
  exact ⟨State.entersInner_congr hinner rfl rfl rfl rfl rfl rfl rfl fun _ => rfl, rfl⟩

theorem State.entersInner_of_delivering {t w : State} {sel off : Word} {e : Desc}
    {frame : List Word}
    (h : (s.delivering w).entersInner t sel off c d newSs newSp k e frame) :
    s.entersInner t sel off c d newSs newSp k e frame := h

theorem State.delivers_innerLevel (hp : s.msw.pe = true) (hg : s.entering.VectorGate n g)
    (ht : s.entering.GateTarget g.gateSelector c d) (hint : kind = .int → s.cpl ≤ arDpl g.ar)
    (hconf : arDirConf d.ar = false) (hlevel : arDpl d.ar < s.cpl) (hlim : g.gateOffset ≤ d.limit)
    {frame : List Word} (hframe : [s.ss.sel, s.regs.sp] ++ s.entryFrame ret code = frame)
    (hstack : (s.entering.holdAccessed d).innerStackAt (arDpl d.ar) newSs newSp k frame.length)
    (w : State) (fail : RetAddr) :
    ∃ t, (s.latchedAs w).deliver n kind ret fail code = .next t ∧
      s.entersInner t g.gateSelector g.gateOffset c d newSs newSp k
        ((s.entering.holdAccessed d).busDesc 12 k) frame ∧
      t.flags = enteredFlags s.flags g (kind == .nmi) := by
  have hstack' := State.innerStackAt_delivering hstack w
  have hentry := (hg.delivering w).protEntry (ret := ret) (code := code) hint
    (State.gateEntry_inner (ht.delivering w) hconf hlevel hlim hframe hstack')
  obtain ⟨-, hroom⟩ := State.innerStack_of hstack' 0#16
  obtain ⟨hinner, hflags⟩ := State.innerEntered_spec (s := s.delivering w) (g := g) (d := d) (c := c)
    (k := k) (kind := kind) (h := (s.delivering w).holdAccessed d)
    ((State.holdAccessed_msw _ d).symm ▸ hp) hroom (s.latchedAs w)
  have hdelivered := State.deliver_of hp hentry fail
  rw [((s.sameBus_delivering w).holdAccessed d).busDesc 12 k] at hinner hdelivered hflags
  generalize State.release _ _ = t at *
  exact ⟨t, hdelivered,
    State.entersInner_of_delivering (State.entersInner_of_holdAccessed hinner), hflags⟩

end

/-- Settles O46: each event is a delivery through the vector's gate, and the gate leads to the stack of
the inner level (`State.gateEntry_inner`). -/
theorem entryToAnInnerLevel : Obligations.EntryToAnInnerLevel := by
  intro s n c k newSs newSp hp hfits gate g d hgate hc htype hgpres hn hca hseg hexec hconf hpres
    hlevel hlim h entered
  have hg : s.entering.VectorGate n g := ⟨hfits, hgate, rfl, htype, hgpres⟩
  have ht : s.entering.GateTarget g.gateSelector c d :=
    ⟨hn, hca, hc, rfl, hseg, hexec, BitVec.le_of_lt hlevel, hpres⟩
  refine ⟨fun code frame hframe hstack => ?_, fun i hi hdpl hstack => ?_, fun e he hstack => ?_⟩
  · rw [State.takeException_eq]
    exact State.delivers_innerLevel (kind := .exception) hp hg ht nofun hconf hlevel hlim
      ((congrArg _ (s.entryFrame_here n code)).trans hframe.symm) hstack _ _
  · rw [exec_softInt hi]
    exact State.delivers_innerLevel (kind := .int) hp hg ht (fun _ => hdpl) hconf hlevel hlim
      (congrArg _ s.entryFrame_nextAddr) hstack _ _
  · subst he
    rw [State.deliverEvent_eq, ← e.kind_eq_nmi]
    exact State.delivers_innerLevel hp hg ht (fun h => absurd h e.kind_ne_int) hconf hlevel hlim
      (congrArg _ s.entryFrame_nextAddr) hstack _ _

end Sys2Proof.Machine
end

section
/-! PROOFS. JMP and CALL through a call gate. -/

namespace Sys2Proof.Machine

theorem arSegment_of_systemType {b : Byte} {n : Nat} (h : arSystemType b = some n) :
    arSegment b = false := by
  unfold arSystemType at h
  split at h
  · exact absurd h nofun
  · exact Bool.eq_false_of_not_eq_true ‹_›

section
variable {s : State} {sel : Word} {call : Bool} {g : Desc}

/-! ## The gate (R234, R246) -/

theorem State.checkGate_unprivileged (h : arDpl g.ar < s.cpl ∨ arDpl g.ar < rpl sel) :
    s.checkGate sel g = raise 13 (sel &&& 0xFFFC#16) := by
  have hle : ¬maxPl s.cpl (rpl sel) ≤ arDpl g.ar := by
    rw [maxPl_le, not_and_or, BitVec.not_le, BitVec.not_le]
    exact h
  rw [State.checkGate, decide_eq_false hle, require_false, raise_bind, selCode_zero]

section
variable (hcpl : s.cpl ≤ arDpl g.ar) (hrpl : rpl sel ≤ arDpl g.ar)
include hcpl hrpl

theorem State.checkGate_absent (h : arPresent g.ar = false) :
    s.checkGate sel g = raise 11 (sel &&& 0xFFFC#16) := by
  rw [State.checkGate, decide_eq_true ((maxPl_le _ _ _).2 ⟨hcpl, hrpl⟩), require_true, Exec.ok_bind,
    h, require_false, selCode_zero]

theorem State.checkGate_of (h : arPresent g.ar = true) : s.checkGate sel g = .ok () :=
  (State.checkGate_eq_ok _ _ _ _).2 ⟨(maxPl_le _ _ _).2 ⟨hcpl, hrpl⟩, h⟩

end

/-! ## The target of a gate (R234, R645) -/

section
variable {csel : Word}

theorem State.gateTarget_null (hn : isNull csel = true) (ext : Word) :
    s.gateTarget csel ext = raise 13 ext :=
  bind_raises (by rw [hn, Bool.not_true, require_false])

theorem State.gateTarget_outside (hn : isNull csel = false) (h : s.descAddr csel = none) :
    s.gateTarget csel 0#16 = raise 13 (csel &&& 0xFFFC#16) := by
  simp only [State.gateTarget, hn, Bool.not_false, require_true, Exec.ok_bind,
    State.descriptor_outside h, raise_bind, selCode_zero]

variable {c : Addr} (hn : isNull csel = false) (hc : s.descAddr csel = some c)
  (hans : s.answersAt c 6 = true)
include hn hc hans

/-- The tests on the descriptor of the target. -/
theorem State.gateTarget_found :
    s.gateTarget csel 0#16 = (do
      require (arCode (s.busDesc 3 c).ar && decide (arDpl (s.busDesc 3 c).ar ≤ s.cpl)) 13
        (csel &&& 0xFFFC#16)
      require (arPresent (s.busDesc 3 c).ar) 11 (csel &&& 0xFFFC#16)
      .ok (c, s.busDesc 3 c)) := by
  simp only [State.gateTarget, hn, Bool.not_false, require_true, Exec.ok_bind,
    State.descriptor_found hc hans, selCode_zero, ← require_bind_and]

theorem State.gateTarget_unfit (h : ¬(arSegment (s.busDesc 3 c).ar = true ∧
    arExec (s.busDesc 3 c).ar = true ∧ arDpl (s.busDesc 3 c).ar ≤ s.cpl)) :
    s.gateTarget csel 0#16 = raise 13 (csel &&& 0xFFFC#16) := by
  have hfit : (arCode (s.busDesc 3 c).ar && decide (arDpl (s.busDesc 3 c).ar ≤ s.cpl)) = false := by
    simpa [arCode, and_assoc] using h
  rw [State.gateTarget_found hn hc hans, hfit, require_false, raise_bind]

theorem State.gateTarget_absent (h : arSegment (s.busDesc 3 c).ar = true ∧
    arExec (s.busDesc 3 c).ar = true ∧ arDpl (s.busDesc 3 c).ar ≤ s.cpl)
    (hpres : arPresent (s.busDesc 3 c).ar = false) :
    s.gateTarget csel 0#16 = raise 11 (csel &&& 0xFFFC#16) := by
  have hfit : (arCode (s.busDesc 3 c).ar && decide (arDpl (s.busDesc 3 c).ar ≤ s.cpl)) = true := by
    simpa [arCode, and_assoc] using h
  rw [State.gateTarget_found hn hc hans, hfit, require_true, Exec.ok_bind, hpres, require_false,
    raise_bind]

end

/-! ## The transfer (R234, R236) -/

/-- What JMP and CALL do with the target c of a call gate. -/
def State.throughGate (s : State) (g : Desc) (call : Bool) (c : Addr × Desc) : Exec State :=
  if s.goesInward c.2 then
    if call then s.innerCall g c else raise 13 (selCode g.gateSelector 0#16)
  else do
    require (arDirConf c.2.ar || decide (rpl g.gateSelector ≤ s.cpl)) 13 (selCode g.gateSelector 0#16)
    s.enterCode g.gateSelector g.gateOffset c call

theorem State.useCallGate_eq (s : State) (sel : Word) (g : Desc) (call : Bool) :
    s.useCallGate sel g call = (do
      s.checkGate sel g
      s.gateTarget g.gateSelector 0#16 >>= s.throughGate g call) := rfl

theorem State.transferToCode_callGate {p : Addr} (hn : isNull sel = false)
    (hp : s.descAddr sel = some p) (hans : s.answersAt p 6 = true)
    (htype : arSystemType (s.busDesc 2 p).ar = some 4) (off : Word) (call : Bool) :
    s.transferToCode sel off call = s.useCallGate sel (s.busDesc 2 p) call := by
  simp only [State.transferToCode, hn, State.descriptor_found hp hans, Bool.not_false, require_true,
    Exec.ok_bind, arSegment_of_systemType htype, Bool.false_eq_true, if_false, htype]

section
variable {c : Addr} {d : Desc}

theorem State.throughGate_rpl (hconf : arDirConf d.ar = false) (hlevel : arDpl d.ar = s.cpl)
    (hrpl : s.cpl < rpl g.gateSelector) (call : Bool) :
    s.throughGate g call (c, d) = raise 13 (g.gateSelector &&& 0xFFFC#16) := by
  have hin : s.goesInward d = false := by simp [State.goesInward, hlevel]
  rw [State.throughGate, hin, if_neg (by simp), hconf, decide_eq_false (BitVec.not_le.2 hrpl)]
  exact bind_raises (by rw [Bool.or_false, require_false, selCode_zero])

theorem State.throughGate_same (hd : codeReachable s.cpl g.gateSelector d)
    (hlim : g.gateOffset ≤ d.limit) (hroom : call = true → s.ss.room s.regs.sp 2 = true) :
    s.throughGate g call (c, d) =
      .ok (s.farEntered g.gateSelector g.gateOffset (c, d) (s.farFrame call)) := by
  obtain ⟨-, -, hpriv, -⟩ := hd
  have hin : s.goesInward d = false := by
    split at hpriv <;> simp [State.goesInward, *]
  have hok : (arDirConf d.ar || decide (rpl g.gateSelector ≤ s.cpl)) = true := by
    split at hpriv <;> simp [*]
  rw [State.throughGate, hin, if_neg (by simp)]
  exact (Exec.bind_of_ok (require_of hok _ _)).trans (State.enterCode_of _ hroom hlim)

/-- A target that JMP and CALL reach directly is one of a gate as well. -/
theorem State.gateTarget_of_reachable {csel : Word} (hn : isNull csel = false)
    (hc : s.descAddr csel = some c) (hans : s.answersAt c 6 = true)
    (hd : codeReachable s.cpl csel (s.busDesc 3 c)) :
    s.GateTarget csel c (s.busDesc 3 c) := by
  obtain ⟨hseg, hexec, hpriv, hpres⟩ := hd
  refine ⟨hn, hc, hans, rfl, hseg, hexec, ?_, hpres⟩
  split at hpriv
  · exact hpriv
  · exact BitVec.le_of_eq hpriv.2

section
variable (hconf : arDirConf d.ar = false) (hlevel : arDpl d.ar < s.cpl)
include hconf hlevel

theorem State.throughGate_jmp :
    s.throughGate g false (c, d) = raise 13 (g.gateSelector &&& 0xFFFC#16) := by
  have hin : s.goesInward d = true := by simp [State.goesInward, hconf, hlevel]
  rw [State.throughGate, hin, if_pos rfl, if_neg (by simp), selCode_zero]

theorem State.throughGate_call : s.throughGate g true (c, d) = s.innerCall g (c, d) := by
  have hin : s.goesInward d = true := by simp [State.goesInward, hconf, hlevel]
  rw [State.throughGate, hin, if_pos rfl, if_pos rfl]

end
end

/-! ## A CALL to an inner level (R236) -/

/-- The parameter words of a CALL, in their order on the old stack. -/
theorem State.params_of (s : State) (n i : Nat) (off : Word)
    (h : ∀ j, j < n → s.readReady .ss (off + BitVec.ofNat 16 (2 * j)) .word = true) :
    s.params i n off = .ok ((List.range n).map fun j =>
      s.busWord (i + j) (linear s.ss.base (off + BitVec.ofNat 16 (2 * j)))) := by
  induction n generalizing i off with
  | zero => rfl
  | succ n ih =>
    have hfirst : s.memRead .ss off .word i = .ok (s.busWord i (linear s.ss.base off)) :=
      State.memRead_of_ready i (by simpa using h 0 (Nat.succ_pos n))
    have hrest := ih (i + 1) (off + 2) fun j hj => by
      rw [add_ofNat_succ_succ]
      exact h (j + 1) (Nat.succ_lt_succ hj)
    refine (Exec.bind_of_ok hfirst).trans ((Exec.bind_of_ok hrest).trans ?_)
    simp only [List.range_succ_eq_map, List.map_cons, List.map_map, Function.comp_def,
      add_ofNat_succ_succ, Nat.mul_zero, BitVec.add_zero, Nat.add_zero, Nat.succ_eq_add_one,
      Nat.mul_add, Nat.mul_one, Nat.add_assoc, Nat.add_comm 1]

theorem State.readReady_holdAccessed (s : State) (d : Desc) (r : SReg) (off : Word) (w : Width) :
    (s.holdAccessed d).readReady r off w = s.readReady r off w := by
  rw [State.holdAccessed_eq]
  rfl

theorem State.innerCall_spec {c k : Addr} {d : Desc} {newSs newSp : Word} {params : List Word}
    (hp : s.msw.pe = true) (hlim : g.gateOffset ≤ d.limit)
    (hstack : (s.holdAccessed d).innerStackAt (arDpl d.ar) newSs newSp k (4 + g.gateCount))
    (hready : ∀ j, j < g.gateCount →
      s.readReady .ss (s.regs.sp + BitVec.ofNat 16 (2 * j)) .word = true)
    (hparams : params = (List.range g.gateCount).map fun j =>
      ((s.holdAccessed d).holdAccessed ((s.holdAccessed d).busDesc 12 k)).busWord (13 + j)
        (s.above (2 * j))) :
    ∃ t, s.innerCall g (c, d) = .ok t ∧ t.flags = s.flags ∧
      s.entersInner t g.gateSelector g.gateOffset c d newSs newSp k ((s.holdAccessed d).busDesc 12 k)
        ([s.ss.sel, s.regs.sp] ++ params.reverse ++ [s.cs.sel, s.ip]) := by
  let h := s.holdAccessed d
  let e := h.busDesc 12 k
  let frame := [s.ss.sel, s.regs.sp] ++ params.reverse ++ [s.cs.sel, s.ip]
  have hlen : 4 + g.gateCount = frame.length := by
    simp [frame, hparams]
    omega
  obtain ⟨hinner, hroom⟩ := State.innerStack_of hstack 0#16
  have hps : (h.holdAccessed e).params 13 g.gateCount s.regs.sp = .ok params := by
    rw [State.params_of, hparams]
    · simp only [h, State.holdAccessed_ss]
      rfl
    · simpa only [h, State.readReady_holdAccessed] using hready
  have hentered := State.entersInner_pushing (sel := g.gateSelector) (off := g.gateOffset) (c := c)
    (d := d) (k := k) (s := h.holdAccessed e) (by simpa [h] using hp) s (hlen ▸ hroom)
  exact ⟨_, (State.innerCall_eq_ok _ _ _ _).2 ⟨_, params, hinner, hroom, hlim, hps, rfl⟩,
    by simp, State.entersInner_of_holdAccessed (State.entersInner_of_holdAccessed hentered)⟩

end

/-- Settles O49: the tests on the gate, those on its target, and what each target leads to. -/
theorem callGates : Obligations.CallGates := by
  intro s i call off sel p hpe hi hn hp hans g csel fails htype
  have hexec : exec i s = s.finish (s.useCallGate sel g call) := by
    rw [exec_farTransfer hpe hi, State.transferToCode_callGate hn hp hans htype]
  have hraise {v : Nat} {code : Word} (h : s.useCallGate sel g call = raise v code) :
      exec i s = s.takeException (BitVec.ofNat 8 v) code .unchanged := by
    rw [hexec, h]
    rfl
  refine ⟨fun h => hraise (bind_raises (State.checkGate_unprivileged h)), fun hcpl hrpl => ?_⟩
  refine ⟨fun h => hraise (bind_raises (State.checkGate_absent hcpl hrpl h)), fun hgpres => ?_⟩
  have huse : s.useCallGate sel g call = s.gateTarget csel 0#16 >>= s.throughGate g call :=
    (s.useCallGate_eq sel g call).trans (Exec.bind_of_ok (State.checkGate_of hcpl hrpl hgpres))
  refine ⟨fun h => hraise (huse.trans (bind_raises (State.gateTarget_null h 0#16))),
    fun h h' => hraise (huse.trans (bind_raises (State.gateTarget_outside h h'))),
    fun c hcn hc hcans => ?_⟩
  intro d admitted
  have hunfit := State.gateTarget_unfit hcn hc hcans
  have habsent := State.gateTarget_absent hcn hc hcans
  have hthrough (h : s.GateTarget csel c d) :
      s.useCallGate sel g call = s.throughGate g call (c, d) :=
    huse.trans (Exec.bind_of_ok (h.eq 0#16))
  have htarget (h : admitted) (hpres : arPresent d.ar = true) : s.GateTarget csel c d := by
    obtain ⟨hseg, hexec, hlevel⟩ := h
    exact ⟨hcn, hc, hcans, rfl, hseg, hexec, hlevel, hpres⟩
  refine ⟨fun h => hraise (huse.trans (bind_raises (hunfit h))),
    fun h h' => hraise (huse.trans (bind_raises (habsent h h'))), ?rpl, ?same, ?inner⟩
  case rpl =>
    intro h hpres hconf hlevel hrpl
    exact hraise ((hthrough (htarget h hpres)).trans (State.throughGate_rpl hconf hlevel hrpl call))
  case same =>
    intro hd hlim hpush frame
    have hroom (hcall : call = true) : s.ss.room s.regs.sp 2 = true := by
      simpa [State.pushOk, hpe] using hpush hcall
    have hpushed := State.pushed_farFrame hroom d
    refine ⟨s.farEntered csel g.gateOffset (c, d) (s.farFrame call), _, ?_, hpushed,
      fun b hb => State.readByte_farEntered_ne hpe csel _ d _ hb,
      fun hram hne => State.readByte_farEntered hpe csel _ hpushed hram hne,
      s.farEntered_spec csel g.gateOffset (c, d) _⟩
    rw [hexec, hthrough (State.gateTarget_of_reachable hcn hc hcans hd),
      State.throughGate_same hd hlim hroom, State.finish_ok]
  case inner =>
    intro h hpres hconf hlevel
    refine ⟨fun hcall => ?_, fun newSs newSp k params hcall => ?_⟩
    · subst hcall
      exact hraise ((hthrough (htarget h hpres)).trans (State.throughGate_jmp hconf hlevel))
    · subst hcall
      intro l e hstack hlim hready hparams
      obtain ⟨t, ht, hflags, hentered⟩ :=
        State.innerCall_spec (c := c) hpe hlim hstack hready hparams
      refine ⟨t, ?_, hflags, hentered⟩
      rw [hexec, hthrough (htarget h hpres), State.throughGate_call hconf hlevel, ht,
        State.finish_ok]

end Sys2Proof.Machine
end

section
/-! PROOFS. What a task switch stores: the outgoing task, the busy bits and the back link. -/

namespace Sys2Proof.Machine

/-! ## Words stored one after the other at physical addresses (R253) -/

section
variable {s : State} (hp : s.msw.pe = true)
include hp

theorem State.readByte_writeWord_away {a b : Addr} (v : Word) (h0 : b ≠ a) (h1 : b ≠ a + 1) :
    (s.writeWord a v).readByte b = s.readByte b :=
  State.readByte_writeWord_ne v (State.apart_of_ne hp h0) (State.apart_of_ne hp h1)

theorem State.readByte_writeByte_away {a b : Addr} (v : Byte) (h : b ≠ a) :
    (s.writeByte a v).readByte b = s.readByte b :=
  State.readByte_writeByte_ne v (State.apart_of_ne hp h)

end

theorem addr_add_two (a : Addr) (k : Nat) :
    a + 2 + BitVec.ofNat 24 k = a + BitVec.ofNat 24 (k + 2) := by
  rw [BitVec.ofNat_add]
  bv_omega

theorem State.readByte_writeWords_away (vs : List Word) {s : State} (hp : s.msw.pe = true)
    {a b : Addr} (h : ∀ i, i < 2 * vs.length → b ≠ a + BitVec.ofNat 24 i) :
    (s.writeWords vs a).readByte b = s.readByte b := by
  induction vs generalizing s a with
  | nil => rfl
  | cons v vs ih =>
    have h0 : b ≠ a := by simpa using h 0 (by simp)
    have h1 : b ≠ a + 1 := by simpa using h 1 (by simp; omega)
    refine (ih (s := s.writeWord a v) (by simpa using hp) fun i hi => ?_).trans
      (State.readByte_writeWord_away hp v h0 h1)
    rw [addr_add_two]
    exact h (i + 2) (by simp only [List.length_cons]; omega)

/-- Each word is found in RAM where it was stored. -/
theorem State.readWord_writeWords (vs : List Word) {s : State} (hp : s.msw.pe = true) {a : Addr}
    (hlen : vs.length < 0x8000) {i : Nat} (hi : i < vs.length)
    (hram : s.isRam (a + BitVec.ofNat 24 (2 * i)) 2 = true) :
    (s.writeWords vs a).readWord (a + BitVec.ofNat 24 (2 * i)) = vs.getD i 0#16 := by
  induction vs generalizing s a i with
  | nil => exact absurd hi (Nat.not_lt_zero i)
  | cons v vs ih =>
    have hlen' : vs.length + 1 < 0x8000 := hlen
    have hpe : (s.writeWord a v).msw.pe = true := by simpa using hp
    cases i with
    | zero =>
      have hkeep {j : Nat} (hj : j < 2) : ((s.writeWord a v).writeWords vs (a + 2)).readByte
          (a + BitVec.ofNat 24 j) = (s.writeWord a v).readByte (a + BitVec.ofNat 24 j) := by
        refine State.readByte_writeWords_away vs hpe fun i hi he => ?_
        rw [addr_add_two] at he
        have := congrArg BitVec.toNat ((BitVec.add_right_inj a).1 he)
        simp only [BitVec.toNat_ofNat] at this
        omega
      have h0 := hkeep (j := 0) (by decide)
      have h1 := hkeep (j := 1) (by decide)
      simp only [Nat.mul_zero, BitVec.add_zero] at h0 hram ⊢
      refine Eq.trans ?_ (State.readWord_writeWord_same v (State.isRam_two hram).1
        (State.isRam_two hram).2)
      exact congrArg₂ mkWord h0 h1
    | succ i =>
      have := ih hpe (a := a + 2) (i := i) (by omega) (by simpa using hi)
      rw [addr_add_two, State.isRam_congr (s := s) (by simp) (by simp)] at this
      exact this hram

/-! ## The outgoing task (R249 step 1) -/

section
variable {s : State} {kind : SwitchKind} {a : Addr} {d : Desc}

/-- A byte of the outgoing task's words in its task state segment. -/
def State.SavedByte (s : State) (x : Addr) : Prop :=
  ∃ i, i < 28 ∧ x = s.tr.base + 14 + BitVec.ofNat 24 i

/-- FLAGS of the outgoing task. -/
def State.savedFlags (s : State) (kind : SwitchKind) : Flags :=
  if kind = .iret then { s.flags with nt := false } else s.flags

theorem State.readByte_saveTask (hp : s.msw.pe = true) (retIp : Word) {x : Addr}
    (h : ¬s.SavedByte x) : (s.saveTask kind retIp).readByte x = s.readByte x :=
  State.readByte_writeWords_away _ hp fun i hi he => h ⟨i, hi, he⟩

theorem State.readWord_saveTask (hp : s.msw.pe = true) (retIp : Word) {i : Nat} (hi : i < 14)
    (hram : s.isRam (s.tr.base + 14 + BitVec.ofNat 24 (2 * i)) 2 = true) :
    (s.saveTask kind retIp).readWord (s.tr.base + 14 + BitVec.ofNat 24 (2 * i)) =
      (s.taskImage retIp (s.savedFlags kind)).getD i 0#16 :=
  State.readWord_writeWords _ hp (by simp [State.taskImage]) hi hram

/-! ## The busy bits (R249 steps 2 and 3) -/

/-- The switch leaves the old task's busy bit clear. -/
def SwitchKind.Frees (kind : SwitchKind) : Prop := kind = .jmp ∨ kind = .iret

/-- The new task returns to the old one. -/
def SwitchKind.Nests (kind : SwitchKind) : Prop := kind = .call ∨ kind = .int

theorem SwitchKind.not_nests_of_frees (h : kind.Frees) : ¬kind.Nests := by
  rintro (rfl | rfl) <;> exact absurd h (by simp [SwitchKind.Frees])

theorem State.readByte_clearBusy_away (hp : s.msw.pe = true) {x : Addr}
    (h : ¬(kind.Frees ∧ x = s.busyAddr)) : (s.clearBusy kind).readByte x = s.readByte x := by
  unfold State.clearBusy
  split
  · exact State.readByte_writeByte_away hp _ fun he => h ⟨‹_›, he⟩
  · rfl

theorem State.readByte_clearBusy (hk : kind.Frees) (hram : s.isRam s.busyAddr 1 = true) :
    (s.clearBusy kind).readByte s.busyAddr = s.busByte 0 s.busyAddr &&& 0xFD#8 := by
  rw [State.clearBusy, if_pos (show kind = .jmp ∨ kind = .iret from hk), State.readByte_lockedSince]
  exact State.readByte_writeByte_same _ (State.isRam_one hram)

theorem State.readByte_markBusy_away (hp : s.msw.pe = true) {x : Addr}
    (h : ¬(kind ≠ .iret ∧ x = a + 5)) : (s.markBusy kind a d).readByte x = s.readByte x := by
  unfold State.markBusy
  split
  · rfl
  · exact State.readByte_writeByte_away hp _ fun he => h ⟨‹_›, he⟩

theorem State.readByte_markBusy (hk : kind ≠ .iret) (hram : s.isRam (a + 5) 1 = true) :
    (s.markBusy kind a d).readByte (a + 5) = d.ar ||| 2#8 := by
  rw [State.markBusy, if_neg hk, State.readByte_lockedSince]
  exact State.readByte_writeByte_same _ (State.isRam_one hram)

/-! ## The back link (R249 step 6) -/

variable {b : Addr} {oldTr : Word}

theorem State.readByte_linkBack_away (hp : s.msw.pe = true) {x : Addr}
    (h : ¬(kind.Nests ∧ (x = b ∨ x = b + 1))) :
    (s.linkBack kind b oldTr).readByte x = s.readByte x := by
  unfold State.linkBack
  split
  · exact State.readByte_writeWord_away (s := { s with flags := { s.flags with nt := true } }) hp _
      (fun he => h ⟨‹_›, .inl he⟩) (fun he => h ⟨‹_›, .inr he⟩)
  · rfl

theorem State.readWord_linkBack (hk : kind.Nests) (hram : s.isRam b 2 = true) :
    (s.linkBack kind b oldTr).readWord b = oldTr := by
  rw [State.linkBack, if_pos (show kind = .call ∨ kind = .int from hk)]
  exact State.readWord_writeWord_same _ (State.isRam_two hram).1 (State.isRam_two hram).2

end

/-! ## All of them (R249, R257) -/

section
variable (s : State) (kind : SwitchKind) (retIp : Word) (a : Addr) (d : Desc)

/-- The outgoing task saved in a switch to the task whose descriptor is d. -/
def State.outgoing (s : State) (kind : SwitchKind) (retIp : Word) (d : Desc) : State :=
  (if kind = .iret then s else s.hold d).saveTask kind retIp

/-- Both busy bits stored as well, d being read at a. -/
def State.switching (s : State) (kind : SwitchKind) (retIp : Word) (a : Addr) (d : Desc) : State :=
  (((s.outgoing kind retIp d).clearBusy kind).markBusy kind a d).release s

/-- The back link stored too. -/
def State.switchStored (s : State) (kind : SwitchKind) (retIp : Word) (a : Addr) (d : Desc) : State :=
  (s.switching kind retIp a d).linkBack kind d.base s.tr.sel

/-- A byte of the busy bits or of the back link. -/
def State.SwitchByte (s : State) (kind : SwitchKind) (a : Addr) (d : Desc) (x : Addr) : Prop :=
  (kind.Frees ∧ x = s.busyAddr) ∨ (kind ≠ .iret ∧ x = a + 5) ∨
    (kind.Nests ∧ (x = d.base ∨ x = d.base + 1))

@[simp] theorem State.outgoing_msw : (s.outgoing kind retIp d).msw = s.msw := by
  unfold State.outgoing
  split <;> simp

@[simp] theorem State.outgoing_platform : (s.outgoing kind retIp d).platform = s.platform := by
  unfold State.outgoing
  split <;> simp

theorem State.outgoing_busyAddr : (s.outgoing kind retIp d).busyAddr = s.busyAddr := by
  unfold State.outgoing
  split <;> simp [State.busyAddr]

@[simp] theorem State.switching_msw : (s.switching kind retIp a d).msw = s.msw := by
  simp [State.switching]

@[simp] theorem State.switching_platform : (s.switching kind retIp a d).platform = s.platform := by
  simp [State.switching]

variable {s kind retIp a d}

/-- The back link of CALL and INT. -/
theorem State.readWord_switchStored_link (hk : kind.Nests) (hram : s.isRam d.base 2 = true) :
    (s.switchStored kind retIp a d).readWord d.base = s.tr.sel :=
  State.readWord_linkBack hk (by rwa [State.isRam_congr (s := s) (by simp) (by simp)])

variable (hp : s.msw.pe = true)
include hp

theorem State.readByte_outgoing {x : Addr} (h : ¬s.SavedByte x) :
    (s.outgoing kind retIp d).readByte x = s.readByte x := by
  unfold State.outgoing
  split
  · exact State.readByte_saveTask hp retIp h
  · exact State.readByte_saveTask (s := s.hold d) hp retIp h

theorem State.readWord_outgoing {i : Nat} (hi : i < 14)
    (hram : s.isRam (s.tr.base + 14 + BitVec.ofNat 24 (2 * i)) 2 = true) :
    (s.outgoing kind retIp d).readWord (s.tr.base + 14 + BitVec.ofNat 24 (2 * i)) =
      (s.taskImage retIp (s.savedFlags kind)).getD i 0#16 := by
  unfold State.outgoing
  split
  · exact State.readWord_saveTask hp retIp hi hram
  · exact State.readWord_saveTask (s := s.hold d) hp retIp hi hram

/-- After the outgoing task is saved, the bytes of the busy bits and of the back link change. -/
theorem State.readByte_switchStored {x : Addr} (h : ¬s.SwitchByte kind a d x) :
    (s.switchStored kind retIp a d).readByte x = (s.outgoing kind retIp d).readByte x := by
  simp only [State.SwitchByte, not_or] at h
  obtain ⟨hfree, hmark, hlink⟩ := h
  have hpu : (s.outgoing kind retIp d).msw.pe = true := by simpa using hp
  rw [← s.outgoing_busyAddr kind retIp d] at hfree
  calc (s.switchStored kind retIp a d).readByte x
    _ = (s.switching kind retIp a d).readByte x :=
      State.readByte_linkBack_away (by simpa using hp) hlink
    _ = ((s.outgoing kind retIp d).clearBusy kind).readByte x :=
      State.readByte_markBusy_away (by simpa using hpu) hmark
    _ = (s.outgoing kind retIp d).readByte x := State.readByte_clearBusy_away hpu hfree

theorem State.readByte_switchStored_away {x : Addr} (hs : ¬s.SavedByte x)
    (h : ¬s.SwitchByte kind a d x) :
    (s.switchStored kind retIp a d).readByte x = s.readByte x := by
  rw [State.readByte_switchStored hp h, State.readByte_outgoing hp hs]

/-- The words of the outgoing task. -/
theorem State.readWord_switchStored {i : Nat} (hi : i < 14)
    (hram : s.isRam (s.tr.base + 14 + BitVec.ofNat 24 (2 * i)) 2 = true)
    (h0 : ¬s.SwitchByte kind a d (s.tr.base + 14 + BitVec.ofNat 24 (2 * i)))
    (h1 : ¬s.SwitchByte kind a d (s.tr.base + 14 + BitVec.ofNat 24 (2 * i) + 1)) :
    (s.switchStored kind retIp a d).readWord (s.tr.base + 14 + BitVec.ofNat 24 (2 * i)) =
      (s.taskImage retIp (s.savedFlags kind)).getD i 0#16 := by
  rw [State.readWord, State.readByte_switchStored hp h0, State.readByte_switchStored hp h1]
  exact State.readWord_outgoing hp hi hram

/-- The old task's busy bit after JMP and IRET. -/
theorem State.readByte_switchStored_old (hk : kind.Frees) (hram : s.isRam s.busyAddr 1 = true)
    (hne : kind = .jmp → s.busyAddr ≠ a + 5) :
    (s.switchStored kind retIp a d).readByte s.busyAddr =
      (s.outgoing kind retIp d).busByte 0 s.busyAddr &&& 0xFD#8 := by
  have hpu : (s.outgoing kind retIp d).msw.pe = true := by simpa using hp
  have hmark : ¬(kind ≠ .iret ∧ s.busyAddr = a + 5) := fun h =>
    hne (hk.resolve_right h.1) h.2
  have hlink : ¬(kind.Nests ∧ (s.busyAddr = d.base ∨ s.busyAddr = d.base + 1)) := fun h =>
    SwitchKind.not_nests_of_frees hk h.1
  have hclear := State.readByte_clearBusy (s := s.outgoing kind retIp d) hk
    (by rwa [s.outgoing_busyAddr, State.isRam_congr (s := s) (by simp) (by simp)])
  rw [s.outgoing_busyAddr] at hclear
  calc (s.switchStored kind retIp a d).readByte s.busyAddr
    _ = (s.switching kind retIp a d).readByte s.busyAddr :=
      State.readByte_linkBack_away (by simpa using hp) hlink
    _ = ((s.outgoing kind retIp d).clearBusy kind).readByte s.busyAddr :=
      State.readByte_markBusy_away (by simpa using hpu) hmark
    _ = _ := hclear

/-- The new task's busy bit but after IRET. -/
theorem State.readByte_switchStored_new (hk : kind ≠ .iret) (hram : s.isRam (a + 5) 1 = true)
    (hne : kind.Nests → a + 5 ≠ d.base ∧ a + 5 ≠ d.base + 1) :
    (s.switchStored kind retIp a d).readByte (a + 5) = d.ar ||| 2#8 := by
  have hpu : (s.outgoing kind retIp d).msw.pe = true := by simpa using hp
  have hlink : ¬(kind.Nests ∧ (a + 5 = d.base ∨ a + 5 = d.base + 1)) := fun h =>
    h.2.elim (hne h.1).1 (hne h.1).2
  calc (s.switchStored kind retIp a d).readByte (a + 5)
    _ = (s.switching kind retIp a d).readByte (a + 5) :=
      State.readByte_linkBack_away (by simpa using hp) hlink
    _ = d.ar ||| 2#8 :=
      State.readByte_markBusy hk (by rwa [State.isRam_congr (s := s) (by simp) (by simp)])

end

end Sys2Proof.Machine
end

section
/-! PROOFS. The new task of a task switch: what is loaded, and its validation. -/

namespace Sys2Proof.Machine

/-! ## What the new task starts with (R249 steps 4 to 8) -/

section
variable (s : State) (kind : SwitchKind) (tsel : Word) (d : Desc)

theorem State.enterTask_spec :
    let t := s.enterTask kind tsel d
    let b := d.base
    t.tr = { sel := tsel, base := b, limit := d.limit, loaded := true } ∧
      t.regs = s.tssRegs b ∧ t.ip = s.tssWord b 14 ∧
      (kind.Nests → t.flags = { Flags.ofWord (s.tssWord b 16) with nt := true }) ∧
      (¬kind.Nests → t.flags = Flags.ofWord (s.tssWord b 16)) ∧
      t.es.sel = s.tssWord b 34 ∧ t.cs.sel = s.tssWord b 36 ∧ t.ss.sel = s.tssWord b 38 ∧
      t.ds.sel = s.tssWord b 40 ∧ t.ldtr.sel = s.tssWord b 42 ∧ t.ldtr.usable = false ∧
      t.msw = { s.msw with ts := true } ∧ t.gdtr = s.gdtr ∧ t.idtr = s.idtr := by
  cases kind <;> simp [State.enterTask, State.linkBack, SwitchKind.Nests]

/-- Memory and the bus are as the back link leaves them. -/
theorem State.sameBus_enterTask :
    (s.linkBack kind d.base s.tr.sel).SameBus (s.enterTask kind tsel d) ∧
      (s.enterTask kind tsel d).out = (s.linkBack kind d.base s.tr.sel).out := by
  cases kind <;> exact ⟨⟨rfl, rfl, rfl, rfl, rfl, rfl, rfl, rfl, rfl⟩, rfl⟩

end

/-! ## Segment registers loaded one after the other (R249 step 9) -/

section
variable {s t u : State}

/-- The accessed bit set in both (R160). -/
theorem State.SameBus.setAccessed (h : s.SameBus t) (ho : t.out = s.out) (a : Addr) (d : Desc) :
    (s.setAccessed a d).SameBus (t.setAccessed a d) := by
  unfold State.setAccessed
  split
  · exact h
  · exact {
      platform := h.platform
      pe := h.pe
      pins := h.pins
      run := h.run
      draws := h.draws
      mem := by
        simp only [State.lockedSince, State.setStores, State.writeByte_mem, State.memAfter,
          State.ramAt, h.platform, h.mem, h.physAddr]
        rfl
      stores := by
        simp only [State.lockedSince, State.setStores_stores, State.writeByte_stores, h.stores,
          h.time, h.seen, ho]
      clock := h.clock
      pre := h.pre }

/-- t is s with segment registers loaded with the selectors they have, their accessed bits set. -/
structure State.Validates (s t : State) : Prop where
  frame : t = { s with
    es := t.es, cs := t.cs, ss := t.ss, ds := t.ds, cpl := t.cpl, mem := t.mem, stale := t.stale
    stores := t.stores }
  sels : ∀ r, (t.seg r).sel = (s.seg r).sel
  bytes : ∀ x : Addr, (∀ r p, s.descAddr (s.seg r).sel = some p → x ≠ p + 5) →
    t.readByte x = s.readByte x

theorem State.Validates.descAddr (h : s.Validates t) (sel : Word) :
    t.descAddr sel = s.descAddr sel := by
  rw [h.frame]
  rfl

theorem State.Validates.pe (h : s.Validates t) : t.msw.pe = s.msw.pe := by
  rw [h.frame]

theorem State.Validates.trans (h : s.Validates t) (h' : t.Validates u) : s.Validates u where
  frame := by
    have hframe := h.frame
    have hframe' := h'.frame
    generalize u.es = es, u.cs = cs, u.ss = ss, u.ds = ds, u.cpl = cpl, u.mem = mem,
      u.stale = stale, u.stores = stores at hframe'
    rw [hframe', hframe]
  sels r := (h'.sels r).trans (h.sels r)
  bytes x hx := (h'.bytes x fun r p hp => hx r p (by rwa [h.descAddr, h.sels] at hp)).trans
    (h.bytes x hx)

/-- The load of one segment register. -/
theorem State.validates_of (hp : s.msw.pe = true) {r : SReg} {a : Addr} {d : Desc}
    (ha : s.descAddr (s.seg r).sel = some a)
    (ht : t = { (s.setAccessed a d).setSeg r (SegReg.ofDesc (s.seg r).sel d) with cpl := t.cpl }) :
    s.Validates t where
  frame := by
    rw [State.setAccessed_eq] at ht
    rw [ht]
    cases r <;> rfl
  sels q := by
    have hseg : t.seg q = ((s.setAccessed a d).setSeg r (SegReg.ofDesc (s.seg r).sel d)).seg q := by
      rw [ht]
      cases q <;> rfl
    rw [hseg, State.seg_setSeg]
    split
    · subst q
      rfl
    · rw [State.setAccessed_seg]
  bytes x hx := by
    have hbytes : t.readByte x = (s.setAccessed a d).readByte x := by
      rw [ht]
      cases r <;> rfl
    rw [hbytes, State.readByte_setAccessed_ne hp d (hx r a ha)]

/-- A null selector in DS or ES. -/
theorem State.validates_null (s : State) (r : SReg) :
    s.Validates (s.setSeg r ((s.seg r).loadNull (s.seg r).sel)) where
  frame := by cases r <;> rfl
  sels q := by
    rw [State.seg_setSeg]
    split
    · subst q
      rfl
    · rfl
  bytes x _ := by cases r <;> rfl

/-! ## The steps of the validation -/

variable {ext : Word}

theorem State.taskLdt_spec (h : s.taskLdt ext = .ok t) :
    t = { s with ldtr := t.ldtr } ∧ t.ldtr.sel = s.ldtr.sel ∧
      (isNull s.ldtr.sel = true → t.ldtr = s.ldtr) ∧
      (isNull s.ldtr.sel = false → ∃ l, s.gdtAddr s.ldtr.sel = some l ∧
        let e := s.busDesc 26 l
        arSystemType e.ar = some 2 ∧ arPresent e.ar = true ∧ t.ldtr.base = e.base ∧
          t.ldtr.limit = e.limit ∧ t.ldtr.usable = true) := by
  unfold State.taskLdt at h
  cases hn : isNull s.ldtr.sel with
  | true =>
    obtain rfl : s = t := by simpa [hn] using h
    exact ⟨rfl, rfl, fun _ => rfl, nofun⟩
  | false =>
    simp only [hn, Bool.false_eq_true, if_false, Exec.bind_eq_ok, require_eq_ok,
      State.descriptor_eq_ok, exists_const, Bool.not_eq_true', Except.ok.injEq] at h
    obtain ⟨htable, d, ⟨a, ha, -, rfl⟩, htype, hpres, rfl⟩ := h
    rw [State.descAddr, htable, if_neg (by simp)] at ha
    exact ⟨rfl, rfl, nofun, fun _ => ⟨a, ha, by simpa using htype, hpres, rfl, rfl, rfl⟩⟩

section
variable (hp : s.msw.pe = true)
include hp

theorem State.taskCs_spec (h : s.taskCs ext = .ok t) :
    s.Validates t ∧ ∃ p, s.descAddr s.cs.sel = some p ∧
      let c := s.busDesc 27 p
      returnAdmits s.cs.sel c ∧ arPresent c.ar = true ∧ t = s.loadCs s.cs.sel (p, c) := by
  obtain ⟨-, p, ha, -, hcode, hpriv, hpres, rfl⟩ := (State.taskCs_eq_ok _ _ _).1 h
  refine ⟨State.validates_of hp (r := .cs) ha rfl, p, ha, ?_, hpres, rfl⟩
  obtain ⟨hseg, hexec⟩ : arSegment (s.busDesc 27 p).ar = true ∧ arExec (s.busDesc 27 p).ar = true :=
    by simpa [arCode] using hcode
  refine ⟨hseg, hexec, ?_⟩
  split at hpriv <;> simp_all

theorem State.taskSs_spec (h : s.taskSs ext = .ok t) :
    s.Validates t ∧ ∃ q, s.descAddr s.ss.sel = some q ∧
      let e := s.busDesc 28 q
      stackLoadable s.cpl s.ss.sel e ∧ t = s.putStack s.ss.sel (q, e) := by
  obtain ⟨d, hd, rfl⟩ := (State.taskSs_eq_ok _ _ _).1 h
  obtain ⟨-, q, ha, -, rfl, hrpl, hw, hdpl, hpres⟩ := (State.stackDesc_eq_ok _ _ _ _ _ _ _).1 hd
  refine ⟨State.validates_of hp (r := .ss) ha rfl, q, ha, ⟨?_, hpres⟩, rfl⟩
  simpa [stackAdmits, arWritable, and_assoc] using And.intro hrpl (And.intro hw hdpl)

theorem State.taskData_spec {i : Nat} {r : SReg} (h : s.taskData i r ext = .ok t) :
    s.Validates t ∧ (t.seg r).valid = !isNull (s.seg r).sel ∧ t.cpl = s.cpl ∧
      ∀ q, q ≠ r → t.seg q = s.seg q := by
  obtain ⟨d, hd, rfl⟩ := (State.taskData_eq_ok _ _ _ _ _).1 h
  obtain ⟨hn, rfl⟩ | ⟨hn, a, e, ha, -, -, rfl, -⟩ := (State.dataDesc_eq_ok _ _ _ _ _ _ _).1 hd
  · refine ⟨s.validates_null r, ?_, ?_, fun q hq => ?_⟩
    · rw [hn, State.putData, State.seg_setSeg_same]
      rfl
    · simp [State.putData]
    · rw [State.putData, State.seg_setSeg, if_neg hq]
  · refine ⟨State.validates_of hp ha rfl, ?_, ?_, fun q hq => ?_⟩
    · rw [hn, State.putData, State.seg_setSeg_same]
      rfl
    · simp [State.putData]
    · rw [State.putData, State.seg_setSeg, if_neg hq, State.setAccessed_seg]

/-- DS and then ES leave CS, SS and CPL. -/
theorem State.taskDataSegs_spec {o : State} (ho : s.taskData 29 .ds ext = .ok o)
    (ht : o.taskData 30 .es ext = .ok t) :
    s.Validates t ∧ t.ds.valid = !isNull s.ds.sel ∧ t.es.valid = !isNull s.es.sel ∧
      t.cpl = s.cpl ∧ t.cs = s.cs ∧ t.ss = s.ss := by
  obtain ⟨hso, hds, hocpl, hosegs⟩ := State.taskData_spec hp ho
  obtain ⟨hot, hes, htcpl, htsegs⟩ := State.taskData_spec (hso.pe.trans hp) ht
  have hsel : o.es.sel = s.es.sel := hso.sels .es
  exact ⟨hso.trans hot, (congrArg SegReg.valid (htsegs .ds nofun)).trans hds,
    hes.trans (congrArg (fun x => !isNull x) hsel), htcpl.trans hocpl,
    (htsegs .cs nofun).trans (hosegs .cs nofun), (htsegs .ss nofun).trans (hosegs .ss nofun)⟩

/-- A validation that answers: LDTR, then CS, SS, DS and ES in turn (R249 steps 9 and 10). -/
theorem State.validateTask_spec (h : s.validateTask ext = .ok t) :
    ∃ l, s.taskLdt ext = .ok l ∧ l.Validates t ∧ t.cpl = rpl t.cs.sel ∧
      (∃ p q, l.descAddr l.cs.sel = some p ∧ l.descAddr l.ss.sel = some q ∧
        let c := l.busDesc 27 p
        let e := (l.setAccessed p c).busDesc 28 q
        returnAdmits l.cs.sel c ∧ arPresent c.ar = true ∧ t.cs.loadedFrom l.cs.sel c ∧
          stackLoadable t.cpl l.ss.sel e ∧ t.ss.loadedFrom l.ss.sel e) ∧
      t.ds.valid = !isNull l.ds.sel ∧ t.es.valid = !isNull l.es.sel ∧
      t.ip.toNat ≤ t.cs.limit.toNat := by
  obtain ⟨l, m, n, o, hl, hm, hn, ho, ht, hip⟩ := (State.validateTask_eq_ok _ _ _).1 h
  have hpl : l.msw.pe = true := by
    rw [(State.taskLdt_spec hl).1]
    exact hp
  obtain ⟨hlm, p, hpa, hc, hcpres, hmeq⟩ := State.taskCs_spec hpl hm
  have hpm := hlm.pe.trans hpl
  obtain ⟨hmn, q, hqa, he, hneq⟩ := State.taskSs_spec hpm hn
  obtain ⟨hnt, hds, hes, hcpl, hcs, hss⟩ := State.taskDataSegs_spec (hmn.pe.trans hpm) ho ht
  have hbus : (l.setAccessed p (l.busDesc 27 p)).SameBus m := by
    rw [hmeq]
    exact ⟨rfl, rfl, rfl, rfl, rfl, rfl, rfl, rfl, rfl⟩
  have hln := hlm.trans hmn
  have hdsel : n.ds.sel = l.ds.sel := hln.sels .ds
  have hesel : n.es.sel = l.es.sel := hln.sels .es
  have hmss : m.ss = l.ss := by rw [hmeq, State.loadCs_ss]
  have hmcs : m.cs = SegReg.ofDesc l.cs.sel (l.busDesc 27 p) := by rw [hmeq, State.loadCs_cs]
  have hmcpl : m.cpl = rpl m.cs.sel := by
    rw [hmeq]
    rfl
  rw [hbus.busDesc, hmss] at he hneq
  rw [hmss, hlm.descAddr] at hqa
  rw [hneq, State.putStack_cs] at hcs
  rw [hneq, State.putStack_cpl] at hcpl
  rw [hdsel] at hds
  rw [hesel] at hes
  rw [← hcpl] at he
  exact ⟨l, hl, hln.trans hnt, by rw [hcpl, hcs, hmcpl], ⟨p, q, hpa, hqa, hc, hcpres,
    SegReg.loadedFrom_of_eq (hcs.trans hmcs), he, SegReg.loadedFrom_of_eq (by rw [hss, hneq]; rfl)⟩,
    hds, hes, hip⟩

end
end

end Sys2Proof.Machine
end

section
/-! PROOFS. Task switches, and the instructions that make one. -/

namespace Sys2Proof.Machine

/-! ## The new task once validated (R249) -/

/-- What the validation has found, memory being that of w before it: LDTR, CS and SS with their
descriptors, DS and ES usable where their selectors are not null, IP within CS. -/
def State.TaskLoaded (w t : State) : Prop :=
  (isNull t.ldtr.sel = true → t.ldtr.usable = false) ∧
  (isNull t.ldtr.sel = false → ∃ l, w.gdtAddr t.ldtr.sel = some l ∧
    let e := w.busDesc 26 l
    arSystemType e.ar = some 2 ∧ arPresent e.ar = true ∧ t.ldtr.base = e.base ∧
    t.ldtr.limit = e.limit ∧ t.ldtr.usable = true) ∧
  t.cpl = rpl t.cs.sel ∧
  (∃ p q x, t.descAddr t.cs.sel = some p ∧ t.descAddr t.ss.sel = some q ∧
    let c := w.busDesc 27 p
    let e := (w.setAccessed p c).busDesc 28 q
    returnAdmits t.cs.sel c ∧ arPresent c.ar = true ∧ t.cs.loadedFrom t.cs.sel c ∧
    x = w.setAccessed p c ∧ w.accessedAt x p c ∧ stackLoadable t.cpl t.ss.sel e ∧
    t.ss.loadedFrom t.ss.sel e) ∧
  t.ds.valid = !isNull t.ds.sel ∧ t.es.valid = !isNull t.es.sel ∧
  t.ip.toNat ≤ t.cs.limit.toNat

section
variable {s t w : State} {ext : Word} (hp : s.msw.pe = true) (h : s.validateTask ext = .ok t)
include hp h

/-- Validation changes the segment registers, LDTR, CPL and memory, and no selector. -/
theorem State.validateTask_frame :
    t = { s with
        ldtr := t.ldtr, es := t.es, cs := t.cs, ss := t.ss, ds := t.ds, cpl := t.cpl, mem := t.mem
        stale := t.stale, stores := t.stores } ∧
      (∀ r, (t.seg r).sel = (s.seg r).sel) ∧ t.ldtr.sel = s.ldtr.sel := by
  obtain ⟨l, hl, hlt, -⟩ := State.validateTask_spec hp h
  obtain ⟨hleq, hlsel, -⟩ := State.taskLdt_spec hl
  have hteq := hlt.frame
  have hldtr : t.ldtr = l.ldtr := by rw [hteq]
  have hsels (r : SReg) : (l.seg r).sel = (s.seg r).sel := by
    rw [hleq]
    cases r <;> rfl
  refine ⟨?_, fun r => (hlt.sels r).trans (hsels r), by rw [hldtr, hlsel]⟩
  rw [hldtr]
  generalize t.es = es, t.cs = cs, t.ss = ss, t.ds = ds, t.cpl = cpl, t.mem = mem,
    t.stale = stale, t.stores = stores at hteq
  rw [hteq]
  generalize l.ldtr = ldtr at hleq
  rw [hleq]

variable (hbus : w.SameBus s)
include hbus

/-- The accessed bits of the new task's segments change. -/
theorem State.readByte_validateTask {x : Addr}
    (hx : ∀ (r : SReg) (p : Addr), t.descAddr (t.seg r).sel = some p → x ≠ p + 5) :
    t.readByte x = w.readByte x := by
  obtain ⟨l, hl, hlt, -⟩ := State.validateTask_spec hp h
  have hls : l.readByte x = s.readByte x := by
    rw [(State.taskLdt_spec hl).1]
    rfl
  rw [hlt.bytes x fun r p hrp => hx r p (by rwa [hlt.descAddr, hlt.sels]), hls, hbus.readByte]

theorem State.taskLoaded_of (hout : s.out = w.out) (hgdtr : s.gdtr = w.gdtr)
    (husable : s.ldtr.usable = false) : w.TaskLoaded t := by
  obtain ⟨l, hl, hlt, hcpl, ⟨p, q, hpa, hqa, hc, hcpres, hcs, he, hss⟩, hds, hes, hip⟩ :=
    State.validateTask_spec hp h
  obtain ⟨hleq, hlsel, hnull, hldt⟩ := State.taskLdt_spec hl
  have hldtr : t.ldtr = l.ldtr := by rw [hlt.frame]
  have hgdt (sel : Word) : s.gdtAddr sel = w.gdtAddr sel := by
    rw [State.gdtAddr, hgdtr, State.gdtAddr]
  have hbusl : w.SameBus l ∧ l.out = w.out := by
    rw [hleq]
    exact ⟨hbus.trans ⟨rfl, rfl, rfl, rfl, rfl, rfl, rfl, rfl, rfl⟩, hout⟩
  obtain ⟨hwl, hlout⟩ := hbusl
  have hbits := hwl.setAccessed hlout p (w.busDesc 27 p)
  simp only [hwl.busDesc, hbits.busDesc] at hc hcpres hcs he hss
  refine ⟨fun hn => ?_, fun hn => ?_, hcpl,
    ⟨p, q, w.setAccessed p (w.busDesc 27 p), ?_, ?_, ?_, hcpres, ?_, rfl,
      w.accessedAt_setAccessed _ _, ?_, ?_⟩, ?_, ?_, hip⟩
  · rw [hldtr, hlsel] at hn
    rw [hldtr, hnull hn, husable]
  · rw [hldtr, hlsel] at hn ⊢
    obtain ⟨a, ha, hdesc⟩ := hldt hn
    rw [hgdt] at ha
    rw [hbus.busDesc] at hdesc
    exact ⟨a, ha, hdesc⟩
  · rwa [hlt.descAddr, show t.cs.sel = l.cs.sel from hlt.sels .cs]
  · rwa [hlt.descAddr, show t.ss.sel = l.ss.sel from hlt.sels .ss]
  · rwa [show t.cs.sel = l.cs.sel from hlt.sels .cs]
  · rwa [show t.cs.sel = l.cs.sel from hlt.sels .cs]
  · rwa [show t.ss.sel = l.ss.sel from hlt.sels .ss]
  · rwa [show t.ss.sel = l.ss.sel from hlt.sels .ss]
  · rwa [show t.ds.sel = l.ds.sel from hlt.sels .ds]
  · rwa [show t.es.sel = l.es.sel from hlt.sels .es]

end

/-! ## A task switch that completes (R248, R249) -/

theorem State.flushQueue_flushQueue (s : State) : s.flushQueue.flushQueue = s.flushQueue := rfl

/-- A completed switch is the validation of the new task, with the descriptor at a. -/
theorem State.taskSwitch_completed {s t : State} {tsel : Word} {kind : SwitchKind} {gate : Bool}
    {ext retIp : Word} (h : s.taskSwitch tsel kind gate ext retIp = .ok t) :
    ∃ a t', s.descAddr tsel = some a ∧ s.tr.loaded = true ∧ t = t'.flushQueue ∧
      ((s.switching kind retIp a (s.busDesc 3 a)).enterTask kind tsel
        (s.busDesc 3 a)).validateTask ext = .ok t' := by
  obtain ⟨x, hx, htr, -, -, -, t', hval, ht⟩ := (State.taskSwitch_eq_ok _ _ _ _ _ _ _).1 h
  obtain ⟨-, -, a, ha, -, rfl, -⟩ := (State.taskDesc_eq_ok _ _ _ _ _ _).1 hx
  exact ⟨a, t', ha, htr, ht, hval⟩

theorem State.linkBack_gdtr (s : State) (kind : SwitchKind) (base : Addr) (oldTr : Word) :
    (s.linkBack kind base oldTr).gdtr = s.gdtr := by
  cases kind <;> rfl

/-- The new task, v being the state that enters it and w that state with the back link stored. -/
theorem State.newTask_spec {v w t : State} {kind : SwitchKind} {tsel ext : Word} {d : Desc}
    (hp : v.msw.pe = true) (hw : w = v.linkBack kind d.base v.tr.sel)
    (h : (v.enterTask kind tsel d).validateTask ext = .ok t) :
    let b := d.base
    ((∀ x : Addr, (∀ (r : SReg) (p : Addr), t.descAddr (t.seg r).sel = some p → x ≠ p + 5) →
        t.readByte x = w.readByte x) ∧
      t.tr = { sel := tsel, base := b, limit := d.limit, loaded := true } ∧
      t.regs = v.tssRegs b ∧ t.ip = v.tssWord b 14 ∧
      (kind.Nests → t.flags = { Flags.ofWord (v.tssWord b 16) with nt := true }) ∧
      (¬kind.Nests → t.flags = Flags.ofWord (v.tssWord b 16)) ∧
      t.es.sel = v.tssWord b 34 ∧ t.cs.sel = v.tssWord b 36 ∧ t.ss.sel = v.tssWord b 38 ∧
      t.ds.sel = v.tssWord b 40 ∧ t.ldtr.sel = v.tssWord b 42) ∧
    w.TaskLoaded t ∧
    t.msw = { v.msw with ts := true } ∧ t.gdtr = v.gdtr ∧ t.idtr = v.idtr := by
  obtain ⟨htr, hregs, hip, hnest, hfree, hes, hcs, hss, hds, hldt, husable, hmsw, hgdtr, hidtr⟩ :=
    v.enterTask_spec kind tsel d
  obtain ⟨hbus, hout⟩ := v.sameBus_enterTask kind tsel d
  have hpx : (v.enterTask kind tsel d).msw.pe = true := by
    rw [hmsw]
    exact hp
  rw [← hw] at hbus hout
  have hwgdtr : (v.enterTask kind tsel d).gdtr = w.gdtr := by
    rw [hgdtr, hw, State.linkBack_gdtr]
  obtain ⟨hframe, hsels, hldtsel⟩ := State.validateTask_frame hpx h
  have hflags := congrArg State.flags hframe
  exact ⟨⟨fun x => State.readByte_validateTask hpx h hbus, (congrArg State.tr hframe).trans htr,
    (congrArg State.regs hframe).trans hregs, (congrArg State.ip hframe).trans hip,
    fun hk => hflags.trans (hnest hk), fun hk => hflags.trans (hfree hk),
    (hsels .es).trans hes, (hsels .cs).trans hcs, (hsels .ss).trans hss, (hsels .ds).trans hds,
    hldtsel.trans hldt⟩,
    State.taskLoaded_of hpx h hbus hout hwgdtr husable, (congrArg State.msw hframe).trans hmsw,
    (congrArg State.gdtr hframe).trans hgdtr, (congrArg State.idtr hframe).trans hidtr⟩

theorem State.switching_spec (s : State) (kind : SwitchKind) (retIp : Word) (a : Addr) (d : Desc) :
    let v := s.switching kind retIp a d
    v.tr = s.tr ∧ v.gdtr = s.gdtr ∧ v.idtr = s.idtr ∧ v.msw = s.msw := by
  unfold State.switching State.outgoing
  split <;> simp

/-! ## The instructions that make one (R231, R246, R254, R645) -/

section
variable {s t : State} {sel off : Word} {a : Addr} {call : Bool}

section
variable (hn : isNull sel = false) (ha : s.descAddr sel = some a) (hans : s.answersAt a 6 = true)
  (hcpl : s.cpl ≤ arDpl (s.busDesc 2 a).ar) (hrpl : rpl sel ≤ arDpl (s.busDesc 2 a).ar)
include hn ha hans hcpl hrpl

/-- JMP and CALL to a task state segment. -/
theorem State.transferToCode_task (htype : arSystemType (s.busDesc 2 a).ar = some 1) :
    s.transferToCode sel off call = s.taskSwitch sel (switchOf call) false 0#16 s.ip := by
  have hpriv : decide (maxPl s.cpl (rpl sel) ≤ arDpl (s.busDesc 2 a).ar) = true :=
    decide_eq_true ((maxPl_le _ _ _).2 ⟨hcpl, hrpl⟩)
  simp only [State.transferToCode, hn, State.descriptor_found ha hans, Bool.not_false, require_true,
    Exec.ok_bind, arSegment_of_systemType htype, Bool.false_eq_true, if_false, htype, hpriv]

/-- JMP and CALL through a task gate. -/
theorem State.transferToCode_taskGate (htype : arSystemType (s.busDesc 2 a).ar = some 5)
    (hpres : arPresent (s.busDesc 2 a).ar = true) :
    s.transferToCode sel off call =
      s.taskSwitch (s.busDesc 2 a).gateSelector (switchOf call) true 0#16 s.ip := by
  simp only [State.transferToCode, hn, State.descriptor_found ha hans, Bool.not_false, require_true,
    Exec.ok_bind, arSegment_of_systemType htype, Bool.false_eq_true, if_false, htype,
    State.checkGate_of hcpl hrpl hpres]

end

/-- IRET with NT = 1 returns to the task of the back link. -/
theorem exec_iret_nested (hp : s.msw.pe = true) (hnt : s.flags.nt = true)
    (hlink : s.backLink = .ok sel) (h : s.taskSwitch sel .iret false 0#16 s.ip = .ok t) :
    exec .iret s = .next { t with nmiInService := false } := by
  have hret : s.interruptReturn = .ok { t with nmiInService := false } := by
    simp only [State.interruptReturn, hp, hnt, if_true, hlink, Exec.ok_bind, h]
  exact congrArg s.finish hret

/-- An entry through a task gate without an error code, but of an NMI, is the switch. -/
theorem State.taskEntry_of {g : Desc} {kind : IntKind} {ret : RetAddr} (hk : kind ≠ .nmi)
    (h : s.taskSwitch g.gateSelector .int true kind.ext ret.ip = .ok t) :
    s.taskEntry g kind ret none = .ok (t.afterEntry kind s.draws) := by
  obtain ⟨-, t', -, -, rfl, -⟩ := State.taskSwitch_completed h
  simp only [State.taskEntry, h, Exec.ok_bind, if_neg hk, State.flushQueue_flushQueue]

/-- The gate of a vector, where it is a task gate. -/
theorem State.protEntry_taskGate {n : Byte} {kind : IntKind} {ret : RetAddr} {code : Option Word}
    {g : Desc} (hfits : 8 * n.toNat + 7 ≤ s.idtr.limit.toNat)
    (hans : s.answersAt (s.idtr.base + BitVec.ofNat 24 (8 * n.toNat)) 6 = true)
    (hg : g = s.busDesc 2 (s.idtr.base + BitVec.ofNat 24 (8 * n.toNat)))
    (htype : arSystemType g.ar = some 5) (hint : kind = .int → s.cpl ≤ arDpl g.ar)
    (hpres : arPresent g.ar = true) (h : s.taskEntry g kind ret code = .ok t) :
    s.protEntry n kind ret code = .ok t := by
  rw [State.protEntry_eq_ok, gateAddr_eq]
  exact ⟨hfits, hans, g, hg, by simp [htype], hint, hpres, by rw [if_pos htype, h]⟩

end

/-- Settles O48: what the switch stores is `State.switchStored`, what it loads `State.enterTask_spec`,
and what the validation finds `State.taskLoaded_of`; each instruction is the switch. -/
theorem taskSwitches : Obligations.TaskSwitches := by
  refine ⟨?completed, ?transfers, ?iret, ?int⟩
  case completed =>
    intro s t tsel kind gate ext retIp hp h
    obtain ⟨a, t', ha, htr, rfl, hval⟩ := State.taskSwitch_completed h
    obtain ⟨hvtr, hvgdtr, hvidtr, hvmsw⟩ := s.switching_spec kind retIp a (s.busDesc 3 a)
    have hpv : (s.switching kind retIp a (s.busDesc 3 a)).msw.pe = true := by rwa [hvmsw]
    obtain ⟨htask, hloaded, hmsw, hgdtr, hidtr⟩ := State.newTask_spec hpv
      (w := s.switchStored kind retIp a (s.busDesc 3 a)) (by rw [hvtr]; rfl) hval
    rw [hvmsw] at hmsw
    rw [hvgdtr] at hgdtr
    rw [hvidtr] at hidtr
    refine ⟨a, ha, htr, ⟨fun x => State.readByte_switchStored_away hp,
      fun i => State.readWord_switchStored hp, State.readByte_switchStored_old hp,
      State.readByte_switchStored_new hp, State.readWord_switchStored_link⟩, htask, hloaded, hmsw,
      hgdtr, hidtr, rfl⟩
  case transfers =>
    intro s t i call off sel a hp hi hn ha hans d kind hcpl hrpl
    have hkind : kind = switchOf call := rfl
    rw [exec_farTransfer hp hi, hkind]
    refine ⟨fun htype h => ?_, fun htype hpres h => ?_⟩
    · rw [State.transferToCode_task hn ha hans hcpl hrpl htype, h, State.finish_ok]
    · rw [State.transferToCode_taskGate hn ha hans hcpl hrpl htype hpres, h, State.finish_ok]
  case iret =>
    intro s t hp hnt htr hlim hans h
    exact exec_iret_nested hp hnt ((State.backLink_eq_ok _ _).2 ⟨htr, hlim, hans, rfl⟩) h
  case int =>
    intro s t n hp hfits gate g hans htype hpres hdpl h
    have hentry : (s.delivering s).protEntry n .int s.nextAddr none =
        .ok (t.afterEntry .int s.draws) :=
      State.protEntry_taskGate hfits hans rfl htype (fun _ => hdpl) hpres
        (State.taskEntry_of (by decide) h)
    exact ⟨_, (exec_softInt (.inl rfl)).trans (State.deliver_of hp hentry _), rfl⟩

end Sys2Proof.Machine
end

section
/-! PROOFS. What the decoder reads: the operand bytes of each form, and back. -/

namespace Sys2Proof

open Sys2Proof.Machine (mkWord_lo_hi loByte_mkWord hiByte_mkWord)

variable {i : Instr} {rest bs tl : List Byte} {b m : Byte} {g : BitVec 3}

/-! ## Instructions by their operand bytes (R280, R289, R294) -/

/-- Instruction i is what a row reads from the bytes of a well-formed operand and its data, g being
the reg field of the mod r/m byte (R289). -/
inductive Tail.Reads (g : BitVec 3) : List Byte → Tail → Instr → Prop
  | rm (k : RM → Instr) {rm : RM} (h : rm.wellFormed = true) :
    Reads g (encodeRM g rm) (.rm k) (k rm)
  | mem (k : Mem → Instr) {m : Mem} (h : m.wellFormed = true) :
    Reads g (encodeMem g m) (.mem k) (k m)
  | rmImm (k : RM → Imm → Instr) {rm : RM} (h : rm.wellFormed = true) (x : Imm) {w : Width}
    (hw : x.width = w) : Reads g (encodeRM g rm ++ x.bytes) (.rmImm w k) (k rm x)
  | rmGImm (k : RM → GImm → Instr) {rm : RM} (h : rm.wellFormed = true) (x : GImm) {s : Bool}
    {w : Width} (hsw : x.sw = bitAt s 1 ||| wBit w) :
    Reads g (encodeRM g rm ++ x.bytes) (.rmGImm s w k) (k rm x)
  | rmSImm (k : RM → SImm → Instr) {rm : RM} (h : rm.wellFormed = true) (x : SImm) {s : Bool}
    (hs : x.sBit = bitAt s 1) : Reads g (encodeRM g rm ++ x.bytes) (.rmSImm s k) (k rm x)
  | rmByte (k : RM → Byte → Instr) {rm : RM} (h : rm.wellFormed = true) (v : Byte) :
    Reads g (encodeRM g rm ++ [v]) (.rmByte k) (k rm v)

/-- Instruction i is what a form reads from the bytes after its opcode. -/
inductive Form.Reads : List Byte → Form → Instr → Prop
  | fixed (i : Instr) : Reads [] (.fixed i) i
  | byte (k : Byte → Instr) (v : Byte) : Reads [v] (.byte k) (k v)
  | word (k : Word → Instr) (v : Word) : Reads (encodeWord v) (.word k) (k v)
  | imm (k : Imm → Instr) (x : Imm) {w : Width} (hw : x.width = w) :
    Reads x.bytes (.imm w k) (k x)
  | simm (k : SImm → Instr) (x : SImm) {s : Bool} (hs : x.sBit = bitAt s 1) :
    Reads x.bytes (.simm s k) (k x)
  | wordByte (k : Word → Byte → Instr) (v : Word) (b : Byte) :
    Reads (encodeWord v ++ [b]) (.wordByte k) (k v b)
  | wordWord (k : Word → Word → Instr) (v u : Word) :
    Reads (encodeWord v ++ encodeWord u) (.wordWord k) (k v u)
  | modrm (k : BitVec 3 → Tail) (g : BitVec 3) {tl : List Byte} {i : Instr}
    (h : (k g).Reads g tl i) : Reads tl (.modrm k) i
  | second0A (i : Instr) : Reads [0x0A#8] (.second0A i) i

/-! ## Data bytes (R285, R294) -/

@[simp] theorem encodeWord_mkWord (lo hi : Byte) : encodeWord (mkWord lo hi) = [lo, hi] := by
  rw [encodeWord, loByte_mkWord, hiByte_mkWord]

theorem takeByte_eq_ok (k : Byte → Instr) :
    takeByte bs k = .ok i rest ↔ ∃ v, i = k v ∧ bs = v :: rest := by
  cases bs with
  | nil => simp [takeByte]
  | cons v bs => simp [takeByte, eq_comm]

theorem takeWord_eq_ok (k : Word → Instr) :
    takeWord bs k = .ok i rest ↔ ∃ v, i = k v ∧ bs = encodeWord v ++ rest := by
  constructor
  · intro h
    unfold takeWord at h
    split at h
    · cases h
      exact ⟨_, rfl, by simp⟩
    · cases h
  · rintro ⟨v, rfl, rfl⟩
    simp [takeWord, encodeWord, mkWord_lo_hi]

theorem takeImm_eq_ok (w : Width) (k : Imm → Instr) :
    takeImm w bs k = .ok i rest ↔ ∃ x : Imm, x.width = w ∧ i = k x ∧ bs = x.bytes ++ rest := by
  constructor
  · intro h
    cases w with
    | byte =>
      obtain ⟨v, hi, hb⟩ := (takeByte_eq_ok fun v => k (.byte v)).1 h
      exact ⟨.byte v, rfl, hi, hb⟩
    | word =>
      obtain ⟨v, hi, hb⟩ := (takeWord_eq_ok fun v => k (.word v)).1 h
      exact ⟨.word v, rfl, hi, hb⟩
  · rintro ⟨x, rfl, hi, hb⟩
    cases x with
    | byte v => exact (takeByte_eq_ok fun v => k (.byte v)).2 ⟨v, hi, hb⟩
    | word v => exact (takeWord_eq_ok fun v => k (.word v)).2 ⟨v, hi, hb⟩

theorem bitAt_one_inj : ∀ {s s' : Bool}, bitAt s 1 = bitAt s' 1 → s = s' := by decide

/-- The bits s and w are told apart (R285). -/
theorem sw_inj {s s' : Bool} {w w' : Width} (h : bitAt s 1 ||| wBit w = bitAt s' 1 ||| wBit w') :
    s = s' ∧ w = w' := by
  revert s s'
  cases w <;> cases w' <;> decide

theorem takeSImm_eq_ok (s : Bool) (k : SImm → Instr) :
    takeSImm s bs k = .ok i rest ↔
      ∃ x : SImm, x.sBit = bitAt s 1 ∧ i = k x ∧ bs = x.bytes ++ rest := by
  constructor
  · intro h
    cases s with
    | false =>
      obtain ⟨v, hi, hb⟩ := (takeWord_eq_ok fun v => k (.word v)).1 h
      exact ⟨.word v, rfl, hi, hb⟩
    | true =>
      obtain ⟨v, hi, hb⟩ := (takeByte_eq_ok fun v => k (.byte v)).1 h
      exact ⟨.byte v, rfl, hi, hb⟩
  · rintro ⟨x, hx, hi, hb⟩
    cases x with
    | word v =>
      obtain rfl := bitAt_one_inj (s := false) hx
      exact (takeWord_eq_ok fun v => k (.word v)).2 ⟨v, hi, hb⟩
    | byte v =>
      obtain rfl := bitAt_one_inj (s := true) hx
      exact (takeByte_eq_ok fun v => k (.byte v)).2 ⟨v, hi, hb⟩

theorem takeGImm_eq_ok (s : Bool) (w : Width) (k : GImm → Instr) :
    takeGImm s w bs k = .ok i rest ↔
      ∃ x : GImm, x.sw = bitAt s 1 ||| wBit w ∧ i = k x ∧ bs = x.bytes ++ rest := by
  constructor
  · intro h
    match s, w with
    | false, .byte =>
      obtain ⟨v, hi, hb⟩ := (takeByte_eq_ok fun v => k (.byte v)).1 h
      exact ⟨.byte v, rfl, hi, hb⟩
    | false, .word =>
      obtain ⟨v, hi, hb⟩ := (takeWord_eq_ok fun v => k (.word v)).1 h
      exact ⟨.word v, rfl, hi, hb⟩
    | true, .byte =>
      obtain ⟨v, hi, hb⟩ := (takeByte_eq_ok fun v => k (.byteS v)).1 h
      exact ⟨.byteS v, rfl, hi, hb⟩
    | true, .word =>
      obtain ⟨v, hi, hb⟩ := (takeByte_eq_ok fun v => k (.wordS v)).1 h
      exact ⟨.wordS v, rfl, hi, hb⟩
  · rintro ⟨x, hx, hi, hb⟩
    cases x with
    | byte v =>
      obtain ⟨rfl, rfl⟩ := sw_inj (s := false) (w := .byte) hx
      exact (takeByte_eq_ok fun v => k (.byte v)).2 ⟨v, hi, hb⟩
    | word v =>
      obtain ⟨rfl, rfl⟩ := sw_inj (s := false) (w := .word) hx
      exact (takeWord_eq_ok fun v => k (.word v)).2 ⟨v, hi, hb⟩
    | byteS v =>
      obtain ⟨rfl, rfl⟩ := sw_inj (s := true) (w := .byte) hx
      exact (takeByte_eq_ok fun v => k (.byteS v)).2 ⟨v, hi, hb⟩
    | wordS v =>
      obtain ⟨rfl, rfl⟩ := sw_inj (s := true) (w := .word) hx
      exact (takeByte_eq_ok fun v => k (.wordS v)).2 ⟨v, hi, hb⟩

/-! ## The mod r/m byte (R289, R290) -/

theorem modrmByte_of_fields {a : BitVec 2} (h : mod2 m = a) :
    modrmByte a (mid3 m) (lo3 m) = m := by
  subst h; revert m; decide

theorem number_baseOf (n : BitVec 3) : (baseOf n).number = n := by revert n; decide

/-- BP alone is the base form of r/m = 110 (R291). -/
theorem wellFormed_ind {n : BitVec 3} (h : n ≠ 6#3) :
    (RM.mem (.ind (baseOf n))).wellFormed = true := by revert n; decide

/-- What is read for an operand is well formed, and the bytes read are its encoding. -/
theorem encodeRM_of_parseRM {rm : RM} (h : parseRM m bs = some (rm, rest)) :
    rm.wellFormed = true ∧ m :: bs = encodeRM (mid3 m) rm ++ rest := by
  have hm (a : BitVec 2) (h : (mod2 m).toNat = a.toNat) : modrmByte a (mid3 m) (lo3 m) = m :=
    modrmByte_of_fields (BitVec.eq_of_toNat_eq h)
  unfold parseRM at h
  split at h
  next h0 =>
    have hm := hm 0#2 h0
    split at h
    next h6 =>
      split at h <;> cases h
      rw [h6] at hm
      exact ⟨rfl, by simp [encodeRM, encodeMem, hm]⟩
    next h6 =>
      cases h
      exact ⟨wellFormed_ind h6, by simp [encodeRM, encodeMem, number_baseOf, hm]⟩
  next h1 =>
    split at h <;> cases h
    exact ⟨rfl, by simp [encodeRM, encodeMem, number_baseOf, hm 1#2 h1]⟩
  next h2 =>
    split at h <;> cases h
    exact ⟨rfl, by simp [encodeRM, encodeMem, number_baseOf, hm 2#2 h2]⟩
  next h0 h1 h2 =>
    cases h
    have h3 : (mod2 m).toNat = 3 := by
      have hlt := (mod2 m).isLt
      simp only [imp_false] at h0 h1 h2
      omega
    exact ⟨rfl, by simp [encodeRM, hm 3#2 h3]⟩

/-! ## The rows -/

/-- A row reads its instructions from their bytes, which begin with the mod r/m byte. -/
theorem Tail.Reads.decodeTail {t : Tail} (h : t.Reads g tl i) (rest : List Byte) :
    ∃ m bs, tl ++ rest = m :: bs ∧ mid3 m = g ∧ decodeTail t m bs = .ok i rest := by
  have key {rm : RM} (hrm : rm.wellFormed = true) := parseRM_encodeRM g rm hrm
  cases h with
  | rm k hrm =>
    obtain ⟨m, bs, hb, hg, hp⟩ := key hrm rest
    exact ⟨m, bs, hb, hg, by simp [Sys2Proof.decodeTail, hp]⟩
  | @mem k a hm =>
    obtain ⟨m, bs, hb, hg, hp⟩ := key (rm := .mem a) hm rest
    exact ⟨m, bs, hb, hg, by simp [Sys2Proof.decodeTail, hp]⟩
  | rmImm k hrm x hw =>
    obtain ⟨m, bs, hb, hg, hp⟩ := key hrm (x.bytes ++ rest)
    exact ⟨m, bs, by simpa using hb, hg, by
      simpa [Sys2Proof.decodeTail, hp] using (takeImm_eq_ok _ _).2 ⟨x, hw, rfl, rfl⟩⟩
  | rmGImm k hrm x hsw =>
    obtain ⟨m, bs, hb, hg, hp⟩ := key hrm (x.bytes ++ rest)
    exact ⟨m, bs, by simpa using hb, hg, by
      simpa [Sys2Proof.decodeTail, hp] using (takeGImm_eq_ok _ _ _).2 ⟨x, hsw, rfl, rfl⟩⟩
  | rmSImm k hrm x hs =>
    obtain ⟨m, bs, hb, hg, hp⟩ := key hrm (x.bytes ++ rest)
    exact ⟨m, bs, by simpa using hb, hg, by
      simpa [Sys2Proof.decodeTail, hp] using (takeSImm_eq_ok _ _).2 ⟨x, hs, rfl, rfl⟩⟩
  | rmByte k hrm v =>
    obtain ⟨m, bs, hb, hg, hp⟩ := key hrm (v :: rest)
    exact ⟨m, bs, by simpa using hb, hg, by
      simpa [Sys2Proof.decodeTail, hp] using (takeByte_eq_ok _).2 ⟨v, rfl, rfl⟩⟩

/-- A row reads no other instruction, from no other bytes. -/
theorem reads_of_decodeTail {t : Tail} (h : decodeTail t m bs = .ok i rest) :
    ∃ tl, t.Reads (mid3 m) tl i ∧ m :: bs = tl ++ rest := by
  cases hp : parseRM m bs with
  | none => cases t <;> simp [decodeTail, hp] at h
  | some p =>
    obtain ⟨rm, bs'⟩ := p
    obtain ⟨hrm, hb⟩ := encodeRM_of_parseRM hp
    cases t with
    | unlisted => cases h
    | rm k =>
      simp only [decodeTail, hp] at h
      cases h
      exact ⟨_, .rm k hrm, hb⟩
    | mem k =>
      simp only [decodeTail, hp] at h
      cases rm with
      | reg n => cases h
      | mem a =>
        cases h
        exact ⟨_, .mem k hrm, hb⟩
    | rmImm w k =>
      simp only [decodeTail, hp] at h
      obtain ⟨x, hx, rfl, rfl⟩ := (takeImm_eq_ok _ _).1 h
      exact ⟨_, .rmImm k hrm x hx, by simpa using hb⟩
    | rmGImm s w k =>
      simp only [decodeTail, hp] at h
      obtain ⟨x, hx, rfl, rfl⟩ := (takeGImm_eq_ok _ _ _).1 h
      exact ⟨_, .rmGImm k hrm x hx, by simpa using hb⟩
    | rmSImm s k =>
      simp only [decodeTail, hp] at h
      obtain ⟨x, hx, rfl, rfl⟩ := (takeSImm_eq_ok _ _).1 h
      exact ⟨_, .rmSImm k hrm x hx, by simpa using hb⟩
    | rmByte k =>
      simp only [decodeTail, hp] at h
      obtain ⟨v, rfl, rfl⟩ := (takeByte_eq_ok _).1 h
      exact ⟨_, .rmByte k hrm v, by simpa using hb⟩

/-! ## The forms -/

/-- A form reads its instructions from their bytes. -/
theorem Form.Reads.decodeForm {f : Form} (h : f.Reads tl i) (rest : List Byte) :
    decodeForm f (tl ++ rest) = .ok i rest := by
  cases h with
  | fixed => rfl
  | byte k v => rfl
  | word k v => exact (takeWord_eq_ok k).2 ⟨v, rfl, rfl⟩
  | imm k x hw => exact (takeImm_eq_ok _ k).2 ⟨x, hw, rfl, rfl⟩
  | simm k x hs => exact (takeSImm_eq_ok _ k).2 ⟨x, hs, rfl, rfl⟩
  | wordByte k v b => simp [Sys2Proof.decodeForm, encodeWord, mkWord_lo_hi]
  | wordWord k v u => simp [Sys2Proof.decodeForm, encodeWord, mkWord_lo_hi]
  | modrm k g h =>
    obtain ⟨m, bs, hb, rfl, hd⟩ := h.decodeTail rest
    rw [hb]
    exact hd
  | second0A => rfl

/-- A form reads no other instruction, from no other bytes. -/
theorem reads_of_decodeForm {f : Form} (h : decodeForm f bs = .ok i rest) :
    ∃ tl, f.Reads tl i ∧ bs = tl ++ rest := by
  cases f with
  | fixed j =>
    cases h
    exact ⟨_, .fixed i, rfl⟩
  | byte k =>
    obtain ⟨v, rfl, rfl⟩ := (takeByte_eq_ok k).1 h
    exact ⟨_, .byte k v, rfl⟩
  | word k =>
    obtain ⟨v, rfl, rfl⟩ := (takeWord_eq_ok k).1 h
    exact ⟨_, .word k v, rfl⟩
  | imm w k =>
    obtain ⟨x, hx, rfl, rfl⟩ := (takeImm_eq_ok w k).1 h
    exact ⟨_, .imm k x hx, rfl⟩
  | simm s k =>
    obtain ⟨x, hx, rfl, rfl⟩ := (takeSImm_eq_ok s k).1 h
    exact ⟨_, .simm k x hx, rfl⟩
  | wordByte k =>
    simp only [decodeForm] at h
    split at h <;> cases h
    exact ⟨_, .wordByte k _ _, by simp⟩
  | wordWord k =>
    simp only [decodeForm] at h
    split at h <;> cases h
    exact ⟨_, .wordWord k _ _, by simp⟩
  | modrm k =>
    cases bs with
    | nil => cases h
    | cons m bs =>
      obtain ⟨tl, ht, hb⟩ := reads_of_decodeTail h
      exact ⟨tl, .modrm k _ ht, hb⟩
  | second0A j =>
    simp only [decodeForm] at h
    split at h
    · split at h <;> cases h
      next h0A => exact ⟨_, .second0A i, by rw [h0A]; rfl⟩
    · cases h
  | escape0F => cases h
  | unlisted => cases h

/-! ## The opcode (R310, R312) -/

/-- The bytes of an opcode, and the form they select. -/
inductive Opcode : List Byte → Form → Prop
  | one (b : Byte) : Opcode [b] (classify b)
  | two (c : Byte) : Opcode [0x0F#8, c] (classify0F c)

/-- Whether a form is that of the two-byte opcodes. -/
def Form.isEscape : Form → Bool
  | .escape0F => true
  | _ => false

theorem isEscape_classify : ∀ b, (classify b).isEscape = decide (b = 0x0F#8) := by decide

/-- The bytes that decode are an opcode and what its form reads an instruction from. -/
theorem decode_eq_ok : decode bs = .ok i rest ↔
    ∃ op f tl, Opcode op f ∧ f.Reads tl i ∧ op ++ tl ++ rest = bs := by
  constructor
  · intro h
    cases bs with
    | nil => cases h
    | cons b bs =>
      simp only [decode] at h
      split at h
      next hf =>
        have hb := isEscape_classify b
        rw [hf] at hb
        obtain rfl : b = 0x0F#8 := by simpa [Form.isEscape] using hb
        split at h
        · obtain ⟨tl, ht, rfl⟩ := reads_of_decodeForm h
          exact ⟨_, _, tl, .two _, ht, rfl⟩
        · cases h
      · obtain ⟨tl, ht, rfl⟩ := reads_of_decodeForm h
        exact ⟨_, _, tl, .one b, ht, rfl⟩
  · rintro ⟨op, f, tl, hop, ht, rfl⟩
    cases hop with
    | one b =>
      have hd := ht.decodeForm rest
      simp only [decode, List.cons_append, List.nil_append]
      split
      next hf =>
        rw [hf] at ht
        cases ht
      · exact hd
    | two c => exact ht.decodeForm rest

end Sys2Proof
end

section
/-! PROOFS. Every well-formed instruction is read from its encoding. -/

namespace Sys2Proof

variable {i : Instr} {tl : List Byte} {b c : Byte}

/-- The encoding of i is an opcode and what its form reads i from. -/
def Instr.Coded (i : Instr) : Prop :=
  ∃ op f tl, Opcode op f ∧ f.Reads tl i ∧ encode i = op ++ tl

/-- A one-byte opcode (R310). -/
theorem coded_one (he : encode i = b :: tl) (h : (classify b).Reads tl i) : i.Coded :=
  ⟨_, _, _, .one b, h, he⟩

/-- A two-byte opcode (R312). -/
theorem coded_two (he : encode i = 0x0F#8 :: c :: tl) (h : (classify0F c).Reads tl i) : i.Coded :=
  ⟨_, _, _, .two c, h, he⟩

theorem rmOperand_wellFormed (h : i.wellFormed = true) {rm : RM} (hrm : i.rmOperand = some rm) :
    rm.wellFormed = true := by
  simp only [Instr.wellFormed, hrm, Bool.and_eq_true] at h
  exact h.1

theorem regNum_cases : ∀ n : RegNum, n = 0#3 ∨ n = 1#3 ∨ n = 2#3 ∨ n = 3#3 ∨ n = 4#3 ∨ n = 5#3 ∨
    n = 6#3 ∨ n = 7#3 := by decide

/-- Every well-formed instruction, by the form of its row. -/
theorem coded_of_wellFormed (h : i.wellFormed = true) : i.Coded := by
  have hrm {rm : RM} := rmOperand_wellFormed h (rm := rm)
  cases i with
  | pusha | popEs | popSs | popDs | popa | nop | xlat | lahf | sahf | pushf | popf | aaa | daa
  | aas | das | cbw | cwd | rep | repne | ret | retFar | leave | int3 | into | iret | clc | cmc
  | stc | cld | std | cli | sti | hlt | wait | lock => exact coded_one rfl (.fixed _)
  | cts => exact coded_two rfl (.fixed _)
  | aam | aad => exact coded_one rfl (.second0A _)
  | inDx w | outDx w | movs w | cmps w | scas w | lods w | stos w | ins w | outs w =>
    cases w <;> exact coded_one rfl (.fixed _)
  | pushReg reg | popReg reg | incReg reg | decReg reg =>
    rcases regNum_cases reg with rfl | rfl | rfl | rfl | rfl | rfl | rfl | rfl <;>
      exact coded_one rfl (.fixed _)
  | xchgAxReg reg =>
    rcases regNum_cases reg with rfl | rfl | rfl | rfl | rfl | rfl | rfl | rfl
    · cases h
    all_goals exact coded_one rfl (.fixed _)
  | pushSreg r | seg r => cases r <;> exact coded_one rfl (.fixed _)
  | jmpShort d | jo d | jno d | jb d | jnb d | je d | jne d | jbe d | jnbe d | js d | jns d | jp d
  | jnp d | jl d | jnl d | jle d | jnle d | loop d | loopz d | loopnz d | jcxz d | int d =>
    exact coded_one rfl (.byte _ d)
  | inImm w port | outImm w port => cases w <;> exact coded_one rfl (.byte _ port)
  | callRel v | jmpRel v | retImm v | retFarImm v => exact coded_one rfl (.word _ v)
  | movAccMem w v | movMemAcc w v => cases w <;> exact coded_one rfl (.word _ v)
  | addAccImm x | adcAccImm x | subAccImm x | sbbAccImm x | cmpAccImm x | andAccImm x
  | testAccImm x | orAccImm x | xorAccImm x =>
    refine coded_one rfl ?_
    cases x <;> dsimp only [Imm.width] <;> exact .imm _ _ rfl
  | movRegImm reg x =>
    rcases regNum_cases reg with rfl | rfl | rfl | rfl | rfl | rfl | rfl | rfl <;>
      refine coded_one rfl ?_ <;> cases x <;> dsimp only [Imm.width] <;> exact .imm _ _ rfl
  | pushImm x =>
    refine coded_one rfl ?_
    cases x <;> dsimp only [SImm.sBit] <;> exact .simm _ _ rfl
  | enter size level => exact coded_one rfl (.wordByte _ size level)
  | callFar off sel | jmpFar off sel => exact coded_one rfl (.wordWord _ off sel)
  | movRmReg w rm reg | movRegRm w reg rm | xchgRmReg w rm reg | testRmReg w rm reg
  | cmpRmReg w rm reg | cmpRegRm w reg rm =>
    cases w <;> exact coded_one rfl (.modrm _ reg (.rm _ (hrm rfl)))
  | addRmReg d w rm reg | adcRmReg d w rm reg | subRmReg d w rm reg | sbbRmReg d w rm reg
  | andRmReg d w rm reg | orRmReg d w rm reg | xorRmReg d w rm reg =>
    cases d <;> cases w <;> exact coded_one rfl (.modrm _ reg (.rm _ (hrm rfl)))
  | arpl rm reg => exact coded_one rfl (.modrm _ reg (.rm _ (hrm rfl)))
  | esc ttt lll rm =>
    rcases regNum_cases ttt with rfl | rfl | rfl | rfl | rfl | rfl | rfl | rfl <;>
      exact coded_one rfl (.modrm _ lll (.rm _ (hrm rfl)))
  | lar reg rm | lsl reg rm => exact coded_two rfl (.modrm _ reg (.rm _ (hrm rfl)))
  | lea reg m | lds reg m | les reg m | bound reg m =>
    exact coded_one rfl (.modrm _ reg (.mem _ (hrm (rm := .mem m) rfl)))
  | movSregRm r rm =>
    cases r
    case cs => simp [Instr.wellFormed, Instr.fieldsListed] at h
    all_goals exact coded_one rfl (.modrm _ _ (.rm _ (hrm rfl)))
  | movRmSreg rm r => cases r <;> exact coded_one rfl (.modrm _ _ (.rm _ (hrm rfl)))
  | rolOne w rm | rolCl w rm | incRm w rm =>
    cases w <;> exact coded_one rfl (.modrm _ 0#3 (.rm _ (hrm rfl)))
  | rorOne w rm | rorCl w rm | decRm w rm =>
    cases w <;> exact coded_one rfl (.modrm _ 1#3 (.rm _ (hrm rfl)))
  | rclOne w rm | rclCl w rm | not w rm =>
    cases w <;> exact coded_one rfl (.modrm _ 2#3 (.rm _ (hrm rfl)))
  | rcrOne w rm | rcrCl w rm | neg w rm =>
    cases w <;> exact coded_one rfl (.modrm _ 3#3 (.rm _ (hrm rfl)))
  | shlOne w rm | shlCl w rm | mul w rm =>
    cases w <;> exact coded_one rfl (.modrm _ 4#3 (.rm _ (hrm rfl)))
  | shrOne w rm | shrCl w rm | imulRm w rm =>
    cases w <;> exact coded_one rfl (.modrm _ 5#3 (.rm _ (hrm rfl)))
  | div w rm => cases w <;> exact coded_one rfl (.modrm _ 6#3 (.rm _ (hrm rfl)))
  | sarOne w rm | sarCl w rm | idiv w rm =>
    cases w <;> exact coded_one rfl (.modrm _ 7#3 (.rm _ (hrm rfl)))
  | popRm rm | callRm rm | jmpRm rm | pushRm rm =>
    exact coded_one rfl (.modrm _ _ (.rm _ (hrm rfl)))
  | callFarMem m | jmpFarMem m =>
    exact coded_one rfl (.modrm _ _ (.mem _ (hrm (rm := .mem m) rfl)))
  | sldt rm | str rm | lldt rm | ltr rm | verr rm | verw rm | smsw rm | lmsw rm =>
    exact coded_two rfl (.modrm _ _ (.rm _ (hrm rfl)))
  | sgdt m | sidt m | lgdt m | lidt m =>
    exact coded_two rfl (.modrm _ _ (.mem _ (hrm (rm := .mem m) rfl)))
  | rolImm w rm v | rorImm w rm v | rclImm w rm v | rcrImm w rm v | shlImm w rm v | shrImm w rm v
  | sarImm w rm v => cases w <;> exact coded_one rfl (.modrm _ _ (.rmByte _ (hrm rfl) v))
  | movRmImm rm x | testRmImm rm x | andRmImm rm x | orRmImm rm x | xorRmImm rm x =>
    refine coded_one rfl ?_
    cases x <;> dsimp only [Imm.width] <;> exact .modrm _ _ (.rmImm _ (hrm rfl) _ rfl)
  | addRmImm rm x | adcRmImm rm x | subRmImm rm x | sbbRmImm rm x | cmpRmImm rm x =>
    refine coded_one rfl ?_
    cases x <;> dsimp only [GImm.sw] <;> exact .modrm _ _ (.rmGImm _ (hrm rfl) _ rfl)
  | imulImm reg rm x =>
    refine coded_one rfl ?_
    cases x <;> dsimp only [SImm.sBit] <;> exact .modrm _ reg (.rmSImm _ (hrm rfl) _ rfl)

end Sys2Proof
end

section
/-! PROOFS. What a form reads is well formed, and its encoding is the bytes it was read from. -/

namespace Sys2Proof

variable {i : Instr} {bs op tl : List Byte} {b c v : Byte} {g : BitVec 3} {w : Width}

/-- Instruction i is well formed, and these bytes are its encoding. -/
def Instr.EncodedBy (i : Instr) (bs : List Byte) : Prop :=
  i.wellFormed = true ∧ encode i = bs

/-- Instruction i has this r/m operand and these bytes, and its other fields are listed. -/
structure Instr.RowOf (i : Instr) (rm : RM) (bs : List Byte) : Prop where
  operand : i.rmOperand = some rm
  listed : i.fieldsListed = true
  bytes : encode i = bs

theorem Instr.RowOf.encodedBy {rm : RM} (h : i.RowOf rm bs) (hrm : rm.wellFormed = true) :
    i.EncodedBy bs :=
  ⟨by simp [Instr.wellFormed, h.operand, hrm, h.listed], h.bytes⟩

/-- What a row reads after this opcode is encoded by what was read. -/
def Tail.Faithful (op : List Byte) (g : BitVec 3) (t : Tail) : Prop :=
  ∀ ⦃tl i⦄, t.Reads g tl i → i.EncodedBy (op ++ tl)

/-- What a form reads after this opcode is encoded by what was read. -/
def Form.Faithful (op : List Byte) (f : Form) : Prop :=
  ∀ ⦃tl i⦄, f.Reads tl i → i.EncodedBy (op ++ tl)

/-- An opcode byte by another name. -/
theorem encodedBy_opcode (h : i.EncodedBy (v :: tl)) (hb : v = b) : i.EncodedBy (b :: tl) := hb ▸ h

/-! ## The kinds of row and form -/

theorem Tail.Faithful.unlisted : Tail.unlisted.Faithful op g := by
  intro tl i h
  cases h

theorem Tail.Faithful.rm {k : RM → Instr} (hk : ∀ rm, (k rm).RowOf rm (op ++ encodeRM g rm)) :
    (Tail.rm k).Faithful op g
  | _, _, .rm _ hrm => (hk _).encodedBy hrm

theorem Tail.Faithful.mem {k : Mem → Instr}
    (hk : ∀ m, (k m).RowOf (.mem m) (op ++ encodeMem g m)) : (Tail.mem k).Faithful op g
  | _, _, .mem _ (m := m) hm => (hk m).encodedBy hm

theorem Tail.Faithful.rmImm {k : RM → Imm → Instr}
    (hk : ∀ rm x, x.width = w → (k rm x).RowOf rm (op ++ (encodeRM g rm ++ x.bytes))) :
    (Tail.rmImm w k).Faithful op g
  | _, _, .rmImm _ hrm x hw => (hk _ x hw).encodedBy hrm

theorem Tail.Faithful.rmGImm {s : Bool} {k : RM → GImm → Instr}
    (hk : ∀ rm x, x.sw = bitAt s 1 ||| wBit w →
      (k rm x).RowOf rm (op ++ (encodeRM g rm ++ x.bytes))) : (Tail.rmGImm s w k).Faithful op g
  | _, _, .rmGImm _ hrm x hsw => (hk _ x hsw).encodedBy hrm

theorem Tail.Faithful.rmSImm {s : Bool} {k : RM → SImm → Instr}
    (hk : ∀ rm x, x.sBit = bitAt s 1 →
      (k rm x).RowOf rm (op ++ (encodeRM g rm ++ x.bytes))) : (Tail.rmSImm s k).Faithful op g
  | _, _, .rmSImm _ hrm x hs => (hk _ x hs).encodedBy hrm

theorem Tail.Faithful.rmByte {k : RM → Byte → Instr}
    (hk : ∀ rm x, (k rm x).RowOf rm (op ++ (encodeRM g rm ++ [x]))) :
    (Tail.rmByte k).Faithful op g
  | _, _, .rmByte _ hrm x => (hk _ x).encodedBy hrm

theorem Form.Faithful.fixed (hi : i.EncodedBy op) : (Form.fixed i).Faithful op
  | _, _, .fixed _ => by simpa using hi

theorem Form.Faithful.imm {k : Imm → Instr}
    (hk : ∀ x : Imm, x.width = w → (k x).EncodedBy (op ++ x.bytes)) : (Form.imm w k).Faithful op
  | _, _, .imm _ x hw => hk x hw

theorem Form.Faithful.simm {s : Bool} {k : SImm → Instr}
    (hk : ∀ x : SImm, x.sBit = bitAt s 1 → (k x).EncodedBy (op ++ x.bytes)) :
    (Form.simm s k).Faithful op
  | _, _, .simm _ x hs => hk x hs

theorem Form.Faithful.byte {k : Byte → Instr} (hk : ∀ v, (k v).EncodedBy (op ++ [v])) :
    (Form.byte k).Faithful op
  | _, _, .byte _ v => hk v

theorem Form.Faithful.word {k : Word → Instr} (hk : ∀ v, (k v).EncodedBy (op ++ encodeWord v)) :
    (Form.word k).Faithful op
  | _, _, .word _ v => hk v

theorem Form.Faithful.modrm {k : BitVec 3 → Tail} (hk : ∀ g, (k g).Faithful op g) :
    (Form.modrm k).Faithful op
  | _, _, .modrm _ g h => hk g h

theorem Form.Faithful.escape0F : Form.escape0F.Faithful op := by
  intro tl i h
  cases h

theorem Form.Faithful.unlisted : Form.unlisted.Faithful op := by
  intro tl i h
  cases h

/-- An opcode byte put together from its fields. -/
theorem Form.Faithful.opcode {f : Form} (hb : v = b) (h : f.Faithful [v]) : f.Faithful [b] := hb ▸ h

theorem Form.Faithful.ite {p : Prop} [Decidable p] {f f' : Form} (hf : p → f.Faithful op)
    (hf' : ¬p → f'.Faithful op) : (if p then f else f').Faithful op := by
  by_cases hp : p
  · rw [if_pos hp]
    exact hf hp
  · rw [if_neg hp]
    exact hf' hp

/-! ## The fields of an opcode byte (R283, R285, R288, R299) -/

theorem opcode_of_w : b &&& 0xFE#8 = v → v ||| wBit (widthOf (b.getLsbD 0)) = b := by
  rintro rfl; revert b; decide

theorem opcode_of_s : b &&& 0xFD#8 = v → v ||| bitAt (b.getLsbD 1) 1 = b := by
  rintro rfl; revert b; decide

theorem opcode_of_sw : b &&& 0xFC#8 = v →
    v ||| (bitAt (b.getLsbD 1) 1 ||| wBit (widthOf (b.getLsbD 0))) = b := by
  rintro rfl; revert b; decide

theorem opcode_of_low : b &&& 0xF8#8 = v → v ||| low (lo3 b) = b := by
  rintro rfl; revert b; decide

theorem opcode_of_w_low : b &&& 0xF0#8 = v →
    v ||| wBit (widthOf (b.getLsbD 3)) <<< 3 ||| low (lo3 b) = b := by
  rintro rfl; revert b; decide

theorem opcode_of_sreg : b &&& 0xE7#8 = v →
    v ||| sregBits (sregOf (b.extractLsb' 3 2)) = b := by
  rintro rfl; revert b; decide

theorem opcode_of_alu : b &&& 0xC4#8 = 0x00#8 →
    (mid3 b).setWidth 8 <<< 3 ||| bitAt (b.getLsbD 1) 1 ||| wBit (widthOf (b.getLsbD 0)) = b := by
  revert b; decide

theorem opcode_of_aluAcc : b &&& 0xC6#8 = 0x04#8 →
    (mid3 b).setWidth 8 <<< 3 ||| 4#8 ||| wBit (widthOf (b.getLsbD 0)) = b := by
  revert b; decide

/-! ## The groups (R311, R312) -/

theorem aluRmReg_rowOf {o : BitVec 3} {d : Bool}
    (hb : o.setWidth 8 <<< 3 ||| bitAt d 1 ||| wBit w = b) (rm : RM) :
    (aluRmReg o d w g rm).RowOf rm (b :: encodeRM g rm) := by
  subst hb
  rcases regNum_cases o with rfl | rfl | rfl | rfl | rfl | rfl | rfl | rfl
  iterate 7 exact ⟨rfl, rfl, rfl⟩
  cases d <;> exact ⟨rfl, rfl, rfl⟩

theorem aluAccImm_encodedBy {o : BitVec 3} (x : Imm)
    (hb : o.setWidth 8 <<< 3 ||| 4#8 ||| wBit x.width = b) :
    (aluAccImm o x).EncodedBy (b :: x.bytes) := by
  subst hb
  rcases regNum_cases o with rfl | rfl | rfl | rfl | rfl | rfl | rfl | rfl <;> exact ⟨rfl, rfl⟩

/-- The rows of group 1 that have no sign-extended data. -/
theorem Tail.Faithful.group1_rmImm {s : Bool} {k : RM → Imm → Instr}
    (hb : 0x80#8 ||| (bitAt s 1 ||| wBit w) = b)
    (hk : ∀ rm x, (k rm x).RowOf rm ((0x80#8 ||| wBit x.width) :: (encodeRM g rm ++ x.bytes))) :
    (if s then Tail.unlisted else .rmImm w k).Faithful [b] g := by
  subst hb
  cases s
  · refine .rmImm fun rm x hx => ?_
    simpa [bitAt, hx] using hk rm x
  · exact .unlisted

theorem group1_faithful {s : Bool} (hb : 0x80#8 ||| (bitAt s 1 ||| wBit w) = b) :
    (group1 s w g).Faithful [b] g := by
  have key {k : RM → GImm → Instr}
      (hk : ∀ rm x, (k rm x).RowOf rm ((0x80#8 ||| x.sw) :: (encodeRM g rm ++ x.bytes))) :
      (Tail.rmGImm s w k).Faithful [b] g :=
    .rmGImm fun rm x hx => by simpa [hx, hb] using hk rm x
  rcases regNum_cases g with rfl | rfl | rfl | rfl | rfl | rfl | rfl | rfl
  · exact key fun _ _ => ⟨rfl, rfl, rfl⟩
  · exact .group1_rmImm hb fun _ _ => ⟨rfl, rfl, rfl⟩
  · exact key fun _ _ => ⟨rfl, rfl, rfl⟩
  · exact key fun _ _ => ⟨rfl, rfl, rfl⟩
  · exact .group1_rmImm hb fun _ _ => ⟨rfl, rfl, rfl⟩
  · exact key fun _ _ => ⟨rfl, rfl, rfl⟩
  · exact .group1_rmImm hb fun _ _ => ⟨rfl, rfl, rfl⟩
  · exact key fun _ _ => ⟨rfl, rfl, rfl⟩

theorem shiftImm_faithful (hb : 0xC0#8 ||| wBit w = b) : (shiftImm w g).Faithful [b] g := by
  subst hb
  rcases regNum_cases g with rfl | rfl | rfl | rfl | rfl | rfl | rfl | rfl
  case inr.inr.inr.inr.inr.inr.inl => exact .unlisted
  all_goals exact .rmByte fun _ _ => ⟨rfl, rfl, rfl⟩

theorem shiftOne_faithful (hb : 0xD0#8 ||| wBit w = b) : (shiftOne w g).Faithful [b] g := by
  subst hb
  rcases regNum_cases g with rfl | rfl | rfl | rfl | rfl | rfl | rfl | rfl
  case inr.inr.inr.inr.inr.inr.inl => exact .unlisted
  all_goals exact .rm fun _ => ⟨rfl, rfl, rfl⟩

theorem shiftCl_faithful (hb : 0xD2#8 ||| wBit w = b) : (shiftCl w g).Faithful [b] g := by
  subst hb
  rcases regNum_cases g with rfl | rfl | rfl | rfl | rfl | rfl | rfl | rfl
  case inr.inr.inr.inr.inr.inr.inl => exact .unlisted
  all_goals exact .rm fun _ => ⟨rfl, rfl, rfl⟩

theorem group3_faithful (hb : 0xF6#8 ||| wBit w = b) : (group3 w g).Faithful [b] g := by
  subst hb
  rcases regNum_cases g with rfl | rfl | rfl | rfl | rfl | rfl | rfl | rfl
  · exact .rmImm fun _ _ hx => ⟨rfl, rfl, by rw [← hx]; rfl⟩
  · exact .unlisted
  all_goals exact .rm fun _ => ⟨rfl, rfl, rfl⟩

theorem group4_faithful : (group4 g).Faithful [0xFE#8] g := by
  rcases regNum_cases g with rfl | rfl | rfl | rfl | rfl | rfl | rfl | rfl
  iterate 2 exact .rm fun _ => ⟨rfl, rfl, rfl⟩
  all_goals exact .unlisted

theorem group5_faithful : (group5 g).Faithful [0xFF#8] g := by
  rcases regNum_cases g with rfl | rfl | rfl | rfl | rfl | rfl | rfl | rfl
  · exact .rm fun _ => ⟨rfl, rfl, rfl⟩
  · exact .rm fun _ => ⟨rfl, rfl, rfl⟩
  · exact .rm fun _ => ⟨rfl, rfl, rfl⟩
  · exact .mem fun _ => ⟨rfl, rfl, rfl⟩
  · exact .rm fun _ => ⟨rfl, rfl, rfl⟩
  · exact .mem fun _ => ⟨rfl, rfl, rfl⟩
  · exact .rm fun _ => ⟨rfl, rfl, rfl⟩
  · exact .unlisted

theorem group0F00_faithful : (group0F00 g).Faithful [0x0F#8, 0x00#8] g := by
  rcases regNum_cases g with rfl | rfl | rfl | rfl | rfl | rfl | rfl | rfl
  iterate 6 exact .rm fun _ => ⟨rfl, rfl, rfl⟩
  all_goals exact .unlisted

theorem group0F01_faithful : (group0F01 g).Faithful [0x0F#8, 0x01#8] g := by
  rcases regNum_cases g with rfl | rfl | rfl | rfl | rfl | rfl | rfl | rfl
  iterate 4 exact .mem fun _ => ⟨rfl, rfl, rfl⟩
  · exact .rm fun _ => ⟨rfl, rfl, rfl⟩
  · exact .unlisted
  · exact .rm fun _ => ⟨rfl, rfl, rfl⟩
  · exact .unlisted

/-- MOV from a segment register names any of the four (R288). -/
theorem movSreg_false_faithful : (movSreg false g).Faithful [0x8C#8] g := by
  rcases regNum_cases g with rfl | rfl | rfl | rfl | rfl | rfl | rfl | rfl
  iterate 4 exact .rm fun _ => ⟨rfl, rfl, rfl⟩
  all_goals exact .unlisted

/-- MOV to a segment register does not name CS (R331). -/
theorem movSreg_true_faithful : (movSreg true g).Faithful [0x8E#8] g := by
  rcases regNum_cases g with rfl | rfl | rfl | rfl | rfl | rfl | rfl | rfl
  · exact .rm fun _ => ⟨rfl, rfl, rfl⟩
  · exact .unlisted
  iterate 2 exact .rm fun _ => ⟨rfl, rfl, rfl⟩
  all_goals exact .unlisted

theorem Tail.Faithful.only0 {t : Tail} (ht : t.Faithful op 0#3) : (only0 t g).Faithful op g := by
  unfold Sys2Proof.only0
  split
  next hg => exact hg ▸ ht
  next => exact .unlisted

/-- The sixteen conditions, in the order of their numbers (R498). -/
theorem jcc_encodedBy (hb : b &&& 0xF0#8 = 0x70#8) (d : Byte) : (jcc b d).EncodedBy [b, d] := by
  obtain ⟨n, rfl⟩ : ∃ n : Fin 16, b = 0x70#8 + BitVec.ofNat 8 n := by revert b; decide
  fin_cases n <;> exact ⟨rfl, rfl⟩

/-! ## The opcode map (R310) -/

theorem classify0_faithful : (classify0 b).Faithful [b] := by
  unfold classify0
  dsimp only
  refine .ite (fun hb => .modrm fun _ => .rm fun rm => aluRmReg_rowOf (opcode_of_alu hb) rm)
    fun _ => ?_
  refine .ite (fun hb => .imm fun x hx => aluAccImm_encodedBy x (hx ▸ opcode_of_aluAcc hb))
    fun _ => ?_
  refine .ite (fun _ => .escape0F) fun _ => ?_
  refine .ite (fun hb => .opcode (opcode_of_sreg hb) (.fixed ⟨rfl, rfl⟩)) fun _ => ?_
  refine .ite (fun hb => .opcode (opcode_of_sreg hb) (.fixed ⟨rfl, rfl⟩)) fun _ => ?_
  split
  all_goals
    intro tl i h
    cases h <;> exact encodedBy_opcode ⟨rfl, rfl⟩ (BitVec.eq_of_toNat_eq (Eq.symm ‹_›))

theorem classify4_faithful : (classify4 b).Faithful [b] := by
  unfold classify4
  dsimp only
  refine .ite (fun hb => .opcode (opcode_of_low hb) (.fixed ⟨rfl, rfl⟩)) fun _ => ?_
  refine .ite (fun hb => .opcode (opcode_of_low hb) (.fixed ⟨rfl, rfl⟩)) fun _ => ?_
  refine .ite (fun hb => .opcode (opcode_of_low hb) (.fixed ⟨rfl, rfl⟩)) fun _ => ?_
  refine .ite (fun hb => .opcode (opcode_of_low hb) (.fixed ⟨rfl, rfl⟩)) fun _ => ?_
  refine .ite (fun hb => .byte (jcc_encodedBy hb)) fun _ => ?_
  refine .ite (fun hb => .simm fun x hx => ⟨rfl, congrArg (· :: x.bytes) (hx ▸ opcode_of_s hb)⟩)
    fun _ => ?_
  refine .ite (fun hb => .modrm fun g => .rmSImm fun rm x hx =>
    ⟨rfl, rfl, congrArg (· :: (encodeRM g rm ++ x.bytes)) (hx ▸ opcode_of_s hb)⟩) fun _ => ?_
  refine .ite (fun hb => .opcode (opcode_of_w hb) (.fixed ⟨rfl, rfl⟩)) fun _ => ?_
  refine .ite (fun hb => .opcode (opcode_of_w hb) (.fixed ⟨rfl, rfl⟩)) fun _ => ?_
  split
  case h_3 hb =>
    exact .opcode (v := 0x62#8) (BitVec.eq_of_toNat_eq hb.symm)
      (.modrm fun _ => .mem fun _ => ⟨rfl, rfl, rfl⟩)
  case h_4 hb =>
    exact .opcode (v := 0x63#8) (BitVec.eq_of_toNat_eq hb.symm)
      (.modrm fun _ => .rm fun _ => ⟨rfl, rfl, rfl⟩)
  all_goals
    intro tl i h
    cases h <;> exact encodedBy_opcode ⟨rfl, rfl⟩ (BitVec.eq_of_toNat_eq (Eq.symm ‹_›))

theorem xchgAxReg_wellFormed : b ≠ 0x90#8 → b &&& 0xF8#8 = 0x90#8 →
    (Instr.xchgAxReg (lo3 b)).wellFormed = true := by revert b; decide

/-- The eight pairs of opcodes A0h to AFh. -/
theorem not_rowA : b &&& 0xFE#8 ≠ 0xA0#8 → b &&& 0xFE#8 ≠ 0xA2#8 → b &&& 0xFE#8 ≠ 0xA4#8 →
    b &&& 0xFE#8 ≠ 0xA6#8 → b &&& 0xFE#8 ≠ 0xA8#8 → b &&& 0xFE#8 ≠ 0xAA#8 →
    b &&& 0xFE#8 ≠ 0xAC#8 → b &&& 0xFE#8 ≠ 0xAE#8 → b &&& 0xF0#8 ≠ 0xA0#8 := by revert b; decide

/-- The opcodes 80h to BFh that stand alone, of which LAHF is the last. -/
theorem single_of_rows8 : (mod2 b).toNat = 2 → b &&& 0xF0#8 ≠ 0xA0#8 → b &&& 0xF0#8 ≠ 0xB0#8 →
    b &&& 0xFC#8 ≠ 0x80#8 → b &&& 0xFE#8 ≠ 0x84#8 → b &&& 0xFE#8 ≠ 0x86#8 →
    b &&& 0xFE#8 ≠ 0x88#8 → b &&& 0xFE#8 ≠ 0x8A#8 → b ≠ 0x90#8 → b &&& 0xF8#8 ≠ 0x90#8 →
    0x8C ≤ b.toNat ∧ b.toNat ≤ 0x8F ∨ 0x98 ≤ b.toNat ∧ b.toNat ≤ 0x9F := by revert b; decide

theorem classify8_faithful (hm : (mod2 b).toNat = 2) : (classify8 b).Faithful [b] := by
  unfold classify8
  dsimp only
  refine .ite (fun hb => .imm fun x hx => ⟨rfl, congrArg (· :: x.bytes) (hx ▸ opcode_of_w_low hb)⟩)
    fun hB0 => ?_
  refine .ite (fun hb => .modrm fun _ => group1_faithful (opcode_of_sw hb)) fun h80 => ?_
  refine .ite (fun hb => .opcode (opcode_of_w hb) (.modrm fun _ => .rm fun _ => ⟨rfl, rfl, rfl⟩))
    fun h84 => ?_
  refine .ite (fun hb => .opcode (opcode_of_w hb) (.modrm fun _ => .rm fun _ => ⟨rfl, rfl, rfl⟩))
    fun h86 => ?_
  refine .ite (fun hb => .opcode (opcode_of_w hb) (.modrm fun _ => .rm fun _ => ⟨rfl, rfl, rfl⟩))
    fun h88 => ?_
  refine .ite (fun hb => .opcode (opcode_of_w hb) (.modrm fun _ => .rm fun _ => ⟨rfl, rfl, rfl⟩))
    fun h8A => ?_
  refine .ite (fun hb => .opcode hb.symm (.fixed ⟨rfl, rfl⟩)) fun h90 => ?_
  refine .ite (fun hb => .opcode (opcode_of_low hb) (.fixed ⟨xchgAxReg_wellFormed h90 hb, rfl⟩))
    fun h9 => ?_
  refine .ite (fun hb => .opcode (opcode_of_w hb) (.word fun _ => ⟨rfl, rfl⟩)) fun hA0 => ?_
  refine .ite (fun hb => .opcode (opcode_of_w hb) (.word fun _ => ⟨rfl, rfl⟩)) fun hA2 => ?_
  refine .ite (fun hb => .opcode (opcode_of_w hb) (.fixed ⟨rfl, rfl⟩)) fun hA4 => ?_
  refine .ite (fun hb => .opcode (opcode_of_w hb) (.fixed ⟨rfl, rfl⟩)) fun hA6 => ?_
  refine .ite (fun hb => .imm fun x hx => ⟨rfl, congrArg (· :: x.bytes) (hx ▸ opcode_of_w hb)⟩)
    fun hA8 => ?_
  refine .ite (fun hb => .opcode (opcode_of_w hb) (.fixed ⟨rfl, rfl⟩)) fun hAA => ?_
  refine .ite (fun hb => .opcode (opcode_of_w hb) (.fixed ⟨rfl, rfl⟩)) fun hAC => ?_
  refine .ite (fun hb => .opcode (opcode_of_w hb) (.fixed ⟨rfl, rfl⟩)) fun hAE => ?_
  have hA := not_rowA hA0 hA2 hA4 hA6 hA8 hAA hAC hAE
  have hb := single_of_rows8 hm hA hB0 h80 h84 h86 h88 h8A h90 h9
  split
  case h_1 hb =>
    exact .opcode (v := 0x8C#8) (BitVec.eq_of_toNat_eq hb.symm)
      (.modrm fun _ => movSreg_false_faithful)
  case h_2 hb =>
    exact .opcode (v := 0x8D#8) (BitVec.eq_of_toNat_eq hb.symm)
      (.modrm fun _ => .mem fun _ => ⟨rfl, rfl, rfl⟩)
  case h_3 hb =>
    exact .opcode (v := 0x8E#8) (BitVec.eq_of_toNat_eq hb.symm)
      (.modrm fun _ => movSreg_true_faithful)
  case h_4 hb =>
    exact .opcode (v := 0x8F#8) (BitVec.eq_of_toNat_eq hb.symm)
      (.modrm fun _ => .only0 (.rm fun _ => ⟨rfl, rfl, rfl⟩))
  case h_12 =>
    simp only [imp_false] at *
    exact .opcode (v := 0x9F#8) (BitVec.eq_of_toNat_eq (by simp only [BitVec.toNat_ofNat]; omega))
      (.fixed ⟨rfl, rfl⟩)
  all_goals
    intro tl i h
    cases h
    exact encodedBy_opcode ⟨rfl, rfl⟩ (BitVec.eq_of_toNat_eq (Eq.symm ‹_›))

theorem classifyC_faithful : (classifyC b).Faithful [b] := by
  unfold classifyC
  dsimp only
  refine .ite (fun hb => .modrm fun _ => shiftImm_faithful (opcode_of_w hb)) fun _ => ?_
  refine .ite (fun hb => .modrm fun g => .only0 (.rmImm fun rm x hx =>
    ⟨rfl, rfl, congrArg (· :: (encodeRM 0#3 rm ++ x.bytes)) (hx ▸ opcode_of_w hb)⟩)) fun _ => ?_
  refine .ite (fun hb => .modrm fun _ => shiftOne_faithful (opcode_of_w hb)) fun _ => ?_
  refine .ite (fun hb => .modrm fun _ => shiftCl_faithful (opcode_of_w hb)) fun _ => ?_
  refine .ite (fun hb => .opcode (opcode_of_low hb) (.modrm fun _ => .rm fun _ => ⟨rfl, rfl, rfl⟩))
    fun _ => ?_
  refine .ite (fun hb => .opcode (opcode_of_w hb) (.byte fun _ => ⟨rfl, rfl⟩)) fun _ => ?_
  refine .ite (fun hb => .opcode (opcode_of_w hb) (.byte fun _ => ⟨rfl, rfl⟩)) fun _ => ?_
  refine .ite (fun hb => .opcode (opcode_of_w hb) (.fixed ⟨rfl, rfl⟩)) fun _ => ?_
  refine .ite (fun hb => .opcode (opcode_of_w hb) (.fixed ⟨rfl, rfl⟩)) fun _ => ?_
  refine .ite (fun hb => .modrm fun _ => group3_faithful (opcode_of_w hb)) fun _ => ?_
  split
  case h_3 hb =>
    exact .opcode (v := 0xC4#8) (BitVec.eq_of_toNat_eq hb.symm)
      (.modrm fun _ => .mem fun _ => ⟨rfl, rfl, rfl⟩)
  case h_4 hb =>
    exact .opcode (v := 0xC5#8) (BitVec.eq_of_toNat_eq hb.symm)
      (.modrm fun _ => .mem fun _ => ⟨rfl, rfl, rfl⟩)
  case h_35 hb =>
    exact .opcode (v := 0xFE#8) (BitVec.eq_of_toNat_eq hb.symm) (.modrm fun _ => group4_faithful)
  case h_36 hb =>
    exact .opcode (v := 0xFF#8) (BitVec.eq_of_toNat_eq hb.symm) (.modrm fun _ => group5_faithful)
  all_goals
    intro tl i h
    cases h <;> exact encodedBy_opcode ⟨rfl, rfl⟩ (BitVec.eq_of_toNat_eq (Eq.symm ‹_›))

theorem classify_faithful : (classify b).Faithful [b] := by
  unfold classify
  split
  next => exact classify0_faithful
  next => exact classify4_faithful
  next hm => exact classify8_faithful hm
  next => exact classifyC_faithful

/-- The second byte after 0Fh (R312). -/
theorem classify0F_faithful : (classify0F c).Faithful [0x0F#8, c] := by
  have key {v : Byte} {f : Form} (hc : c.toNat = v.toNat) (h : f.Faithful [0x0F#8, v]) :
      f.Faithful [0x0F#8, c] := BitVec.eq_of_toNat_eq hc ▸ h
  unfold classify0F
  split
  next hc => exact key (v := 0x00#8) hc (.modrm fun _ => group0F00_faithful)
  next hc => exact key (v := 0x01#8) hc (.modrm fun _ => group0F01_faithful)
  next hc => exact key (v := 0x02#8) hc (.modrm fun _ => .rm fun _ => ⟨rfl, rfl, rfl⟩)
  next hc => exact key (v := 0x03#8) hc (.modrm fun _ => .rm fun _ => ⟨rfl, rfl, rfl⟩)
  next hc => exact key (v := 0x06#8) hc (.fixed ⟨rfl, rfl⟩)
  next => exact .unlisted

theorem Opcode.faithful {f : Form} (h : Opcode op f) : f.Faithful op := by
  cases h with
  | one b => exact classify_faithful
  | two c => exact classify0F_faithful

end Sys2Proof
end

section
/-! PROOFS. The decoder and the encoder are each other's inverse. -/

namespace Sys2Proof

/-- Settles O1: the encoding of a well-formed instruction is an opcode and what its form reads the
instruction from. -/
theorem encodedInstructionsDecode : Obligations.EncodedInstructionsDecode := by
  intro i rest h
  obtain ⟨op, f, tl, hop, hreads, henc⟩ := coded_of_wellFormed h
  exact decode_eq_ok.2 ⟨op, f, tl, hop, hreads, by rw [henc]⟩

/-- Settles O2: the bytes are an opcode and what its form reads, and every form of the opcode map
reads only what is encoded so. -/
theorem decodedBytesAreTheEncoding : Obligations.DecodedBytesAreTheEncoding := by
  intro bytes i rest h
  obtain ⟨op, f, tl, hop, hreads, hbytes⟩ := decode_eq_ok.1 h
  obtain ⟨hwf, henc⟩ := hop.faithful hreads
  exact ⟨hwf, by rw [henc, hbytes]⟩

/-- Settles O8: each word is the encoding of its instruction. -/
theorem sampleEncodingsDecode : Obligations.SampleEncodingsDecode :=
  ⟨encodedInstructionsDecode (.movRmReg .word (.reg 0#3) 3#3) [] rfl,
    encodedInstructionsDecode (.addRmImm (.reg 3#3) (.wordS 0xFF#8)) [] rfl,
    encodedInstructionsDecode (.shlOne .word (.mem (.direct 0x1234#16))) [] rfl,
    encodedInstructionsDecode (.movs .word) [] rfl,
    encodedInstructionsDecode (.callFar 0x0200#16 0x3000#16) [] rfl,
    encodedInstructionsDecode (.enter 4#16 1#8) [] rfl,
    encodedInstructionsDecode (.esc 1#3 0#3 (.mem (.direct 0x1000#16))) [] rfl,
    encodedInstructionsDecode (.lgdt (.direct 0x0800#16)) [] rfl⟩

end Sys2Proof
end

section
/-! PROOFS. The prefixes, and a repeated string instruction. -/

namespace Sys2Proof.Machine

/-! ## The prefixes (R300, R303, R572, R573) -/

section
variable {s : State}

theorem finish_repeatWith_of (h : s.pre.rep = none) (z : Bool) :
    s.finish (s.repeatWith z) = .next { s with pre := { s.pre with rep := some z } } := by
  simp [State.repeatWith, h]

theorem exec_seg_of (h : s.pre.seg = none) (r : SReg) :
    exec (.seg r) s = .next { s with pre := { s.pre with seg := some r } } :=
  congrArg s.finish (if_neg (by simp [h]))

theorem exec_lock_of (h : s.pre.lock = false) (hl : s.msw.pe = false ∨ s.cpl ≤ s.flags.iopl) :
    exec .lock s = .next { s with pre := { s.pre with lock := true } } := by
  have hc : s.checkIopl = .ok () := (s.checkIopl_eq_ok ()).2 hl
  change execLock s = _
  simp [execLock, h, hc]

end

/-! ## What an element leaves (R460 to R469) -/

/-- CX and the two instruction pointers are as they were. -/
structure State.SameLoop (s u : State) : Prop where
  cx : u.regs.cx = s.regs.cx
  ip : u.ip = s.ip
  ipCarry : u.ipCarry = s.ipCarry
  curIp : u.curIp = s.curIp

section
variable {s u : State} {w : Width}

theorem State.sameLoop_setReg (s : State) (w : Width) (v : Word) :
    s.SameLoop (s.setReg w 0#3 v) := by
  cases w <;> exact ⟨rfl, rfl, rfl, rfl⟩

theorem State.movsElement_sameLoop (h : s.movsElement w = .ok u) : s.SameLoop u := by
  simp only [State.movsElement, Exec.bind_eq_ok, State.memWrite_eq_ok] at h
  obtain ⟨v, -, t, ⟨-, rfl⟩, h⟩ := h
  cases h
  constructor <;> simp

theorem State.lodsElement_sameLoop (h : s.lodsElement w = .ok u) : s.SameLoop u := by
  simp only [State.lodsElement, Exec.bind_eq_ok] at h
  obtain ⟨v, -, h⟩ := h
  cases h
  obtain ⟨hcx, hip, hcarry, hcur⟩ := (s.stepSi w).sameLoop_setReg w v
  exact ⟨hcx, hip, hcarry, hcur⟩

theorem State.stosElement_sameLoop (h : s.stosElement w = .ok u) : s.SameLoop u := by
  simp only [State.stosElement, Exec.bind_eq_ok, State.memWrite_eq_ok] at h
  obtain ⟨t, ⟨-, rfl⟩, h⟩ := h
  cases h
  constructor <;> simp

theorem State.insElement_sameLoop (h : s.insElement w = .ok u) : s.SameLoop u := by
  simp only [State.insElement, Exec.bind_eq_ok] at h
  obtain ⟨-, -, -, -, r, hr, h⟩ := h
  obtain ⟨-, rfl⟩ := State.readPort_eq_ok hr
  cases h
  rw [State.ioRead_eq]
  constructor <;> simp

theorem State.outsElement_sameLoop (h : s.outsElement w = .ok u) : s.SameLoop u := by
  simp only [State.outsElement, Exec.bind_eq_ok] at h
  obtain ⟨-, -, v, -, t, ht, h⟩ := h
  obtain ⟨-, rfl⟩ := State.writePort_eq_ok ht
  cases h
  constructor <;> simp

theorem State.cmpsElement_sameLoop (h : s.cmpsElement w = .ok u) : s.SameLoop u := by
  simp only [State.cmpsElement, Exec.bind_eq_ok] at h
  obtain ⟨a, -, b, -, h⟩ := h
  cases h
  exact ⟨rfl, rfl, rfl, rfl⟩

theorem State.scasElement_sameLoop (h : s.scasElement w = .ok u) : s.SameLoop u := by
  simp only [State.scasElement, Exec.bind_eq_ok] at h
  obtain ⟨b, -, h⟩ := h
  cases h
  exact ⟨rfl, rfl, rfl, rfl⟩

/-! ## One element in a step (R468, R470, R471) -/

/-- The last element, or the one after which the comparison ends the repetition, leaves IP past the
instruction; any other has it run again. -/
theorem State.finish_repeated {z : Bool} {element : State → Exec State} (compares : Bool)
    (hrep : s.pre.rep = some z) (hcx : s.regs.cx ≠ 0#16) (he : element s = .ok u)
    (hsame : s.SameLoop u) {p : Prop} [Decidable p]
    (hp : p ↔ s.regs.cx = 1#16 ∨ compares = true ∧ u.flags.zf ≠ z) :
    s.finish (s.repeated compares element) = .next { u with
      regs := { u.regs with cx := s.regs.cx - 1 }
      ip := if p then s.ip else s.curIp
      ipCarry := if p then s.ipCarry else false } := by
  obtain ⟨hc, hip, hcarry, hcur⟩ := hsame
  have hlast : u.regs.cx - 1 = 0 ∨ compares = true ∧ u.flags.zf ≠ z ↔ p := by
    rw [hc, hp]
    exact or_congr_left sub_eq_zero
  rw [(State.repeated_eq_ok compares element hrep hcx _).2 ⟨u, he, rfl⟩, State.finish_ok]
  by_cases h : p
  · rw [if_pos (hlast.2 h), if_pos h, if_pos h, hc, ← hip, ← hcarry]
    rfl
  · rw [if_neg (mt hlast.1 h), if_neg h, if_neg h, hc, ← hcur]
    rfl

end

/-- Settles O34: the prefixes are recorded alone, and a repeated instruction is its element where CX
is not 0, with CX and IP as `State.finish_repeated` says. -/
theorem prefixesAndRepeatedStrings : Obligations.PrefixesAndRepeatedStrings := by
  refine ⟨fun s => ⟨fun h => ⟨finish_repeatWith_of h true, finish_repeatWith_of h false⟩,
    fun h r => exec_seg_of h r, exec_lock_of⟩, fun s w z hrep => ⟨?zero, ?moves, ?compares⟩⟩
  case zero =>
    intro hcx i hi
    fin_cases hi <;> exact congrArg s.finish (State.repeated_zero _ _ hrep hcx)
  case moves =>
    have hp (u : State) : s.regs.cx = 1#16 ↔ s.regs.cx = 1#16 ∨ false = true ∧ u.flags.zf ≠ z := by
      simp
    rintro hcx i u (⟨rfl, he⟩ | ⟨rfl, he⟩ | ⟨rfl, he⟩ | ⟨rfl, he⟩ | ⟨rfl, he⟩)
    · exact State.finish_repeated false hrep hcx he (State.movsElement_sameLoop he) (hp u)
    · exact State.finish_repeated false hrep hcx he (State.lodsElement_sameLoop he) (hp u)
    · exact State.finish_repeated false hrep hcx he (State.stosElement_sameLoop he) (hp u)
    · exact State.finish_repeated false hrep hcx he (State.insElement_sameLoop he) (hp u)
    · exact State.finish_repeated false hrep hcx he (State.outsElement_sameLoop he) (hp u)
  case compares =>
    have hp (u : State) : s.regs.cx = 1#16 ∨ u.flags.zf ≠ z ↔
        s.regs.cx = 1#16 ∨ true = true ∧ u.flags.zf ≠ z := by simp
    rintro hcx i u (⟨rfl, he⟩ | ⟨rfl, he⟩)
    · exact State.finish_repeated true hrep hcx he (State.cmpsElement_sameLoop he) (hp u)
    · exact State.finish_repeated true hrep hcx he (State.scasElement_sameLoop he) (hp u)

end Sys2Proof.Machine
end

section
/-! PROOFS. MOV, XLAT, LEA, LAHF and SAHF. -/

namespace Sys2Proof.Machine

/-! ## Instructions that write one operand -/

/-- An instruction that writes one operand with a value of its width and does nothing else. -/
theorem movesInto_of_rmPut {s : State} {i : Instr} {w : Width} {rm : RM} {v : Word}
    (hi : exec i s = .next (s.rmPut w rm v)) (hv : v.toNat < 2 ^ w.bits) : movesInto i s w rm v :=
  ⟨_, hi, s.placed_rmPut w rm hv, s.rmPut_flags w rm v, s.sameElse_rmPut w rm v⟩

theorem State.finish_writeRM_of {s : State} {w : Width} {rm : RM} (v : Word)
    (h : s.rmOk .write w rm = true) : s.finish (s.writeRM w rm v) = .next (s.rmPut w rm v) := by
  rw [State.writeRM_of v h, State.finish_ok]

theorem State.busValue_lt (s : State) (i : Nat) (a : Addr) (w : Width) :
    (s.busValue i a w).toNat < 2 ^ w.bits := by
  cases w
  · exact zext16_lt _
  · exact (s.busWord i a).isLt

/-! ## MOV (R341 to R345, R348) -/

theorem exec_movRegRm_of {s : State} {w : Width} {rm : RM} (reg : RegNum)
    (h : s.rmReady .read w rm = true) :
    exec (.movRegRm w reg rm) s = .next (s.rmPut w (.reg reg) (s.rmValue w rm)) := by
  rw [exec_movRegRm, execMovRegRm, State.readRM_of_ready h]
  rfl

theorem exec_movAccMem_of {s : State} {w : Width} {off : Word}
    (h : s.readReady (s.overridden .ds) off w = true) :
    exec (.movAccMem w off) s = .next (s.rmPut w (.reg 0#3)
      (s.busValue 0 (linear (s.seg (s.overridden .ds)).base off) w)) := by
  change s.finish (s.memRead (s.overridden .ds) off w 0 >>= _) = _
  rw [State.memRead_of_ready 0 h]
  rfl

theorem exec_movMemAcc_of {s : State} {w : Width} {off : Word}
    (h : s.accessOk .write (s.overridden .ds) off w.bytes = true) :
    exec (.movMemAcc w off) s = .next (s.store (s.overridden .ds) off w (s.getReg w 0#3)) :=
  congrArg s.finish (State.memWrite_of (s.acc w) h)

/-- Settles O12: each form writes one operand, a direct offset apart, which is a store. -/
theorem moves : Obligations.Moves := by
  refine ⟨⟨fun s w rm reg h => ?_, fun s rm imm h => ?_, fun s rm r h => ?_⟩,
    fun s w reg rm h => ?_, fun s reg imm => ?_, fun s w off h => ?_, fun s w off h => ?_⟩
  · exact movesInto_of_rmPut (State.finish_writeRM_of _ h) (s.getReg_lt w reg)
  · exact movesInto_of_rmPut (State.finish_writeRM_of _ h) imm.value_lt
  · exact movesInto_of_writeRM rfl h
  · exact movesInto_of_rmPut (exec_movRegRm_of reg h) (s.rmValue_lt w rm)
  · exact movesInto_of_rmPut rfl imm.value_lt
  · exact movesInto_of_rmPut (exec_movAccMem_of h) (s.busValue_lt 0 _ w)
  · exact ⟨_, exec_movMemAcc_of h, s.onlyMem_store _ off w (s.getReg_lt w _),
      s.store_flags _ off w _, s.sameElse_store _ off w _⟩

/-! ## XLAT and LAHF (R364, R368) -/

theorem exec_xlat_of {s : State}
    (h : s.readReady (s.overridden .ds) (s.regs.bx + (s.regs.ax &&& 0x00FF#16)) .byte = true) :
    exec .xlat s = .next (s.rmPut .byte (.reg 0#3) (s.busValue 0
      (linear (s.seg (s.overridden .ds)).base (s.regs.bx + (s.regs.ax &&& 0x00FF#16))) .byte)) := by
  change s.finish (s.memRead (s.overridden .ds) (s.regs.bx + s.acc .byte) .byte 0 >>= _) = _
  rw [State.acc_byte, State.memRead_of_ready 0 h]
  rfl

theorem exec_lahf (s : State) :
    exec .lahf s = .next (s.rmPut .byte (.reg 4#3) (s.flags.toWord &&& 0x00FF#16)) := by
  rw [← zext16_loByte_eq_and]
  rfl

/-! ## SAHF (R369) -/

/-- SAHF takes bits 7, 6, 4, 2 and 0 of FLAGS from the high byte of AX and leaves the others. -/
theorem Flags.toWord_fromAh (f : Flags) (ax : Word) :
    (f.fromAh (hiByte ax)).toWord = (f.toWord &&& 0xFF2A#16) ||| ((ax >>> 8) &&& 0x00D5#16) := by
  apply BitVec.eq_of_getLsbD_eq
  intro i hi
  simp only [Flags.toWord, Flags.fromAh, hiByte, BitVec.getLsbD_append, BitVec.getLsbD_or,
    BitVec.getLsbD_and, BitVec.getLsbD_ushiftRight]
  interval_cases i <;> simp

theorem exec_sahf (s : State) :
    exec .sahf s = .next (s.setFlags (s.flags.fromAh (hiByte s.regs.ax))) := rfl

/-- Settles O21: XLAT, LEA and LAHF each write one register, SAHF the flags alone. -/
theorem tableAddressAndFlagTransfers : Obligations.TableAddressAndFlagTransfers :=
  ⟨fun s h => movesInto_of_rmPut (exec_xlat_of h) (s.busValue_lt 0 _ .byte),
    fun s _ m => movesInto_of_rmPut rfl (s.ea m).isLt,
    fun s => movesInto_of_rmPut (exec_lahf s)
      (by rw [← zext16_loByte_eq_and]; exact zext16_lt _),
    fun s => ⟨_, exec_sahf s, s.flags.toWord_fromAh s.regs.ax, rfl⟩⟩

end Sys2Proof.Machine
end

section
/-! PROOFS. XCHG and NOP. -/

namespace Sys2Proof.Machine

/-! ## Two registers written (R32) -/

theorem overlaps_same_width {w : Width} {n m : RegNum} (h : m ≠ n) : overlaps w m w n = false := by
  cases w <;> simpa [overlaps] using h

/-- Two registers of one width written, each with the other's old value: a register written twice is
exchanged with itself. -/
theorem State.getReg_exchange (s : State) (w : Width) (n m : RegNum) :
    let t := (s.setReg w n (s.getReg w m)).setReg w m (s.getReg w n)
    t.getReg w n = s.getReg w m ∧ t.getReg w m = s.getReg w n ∧
      ∀ v k, overlaps w n v k = false → overlaps w m v k = false →
        t.getReg v k = s.getReg v k := by
  intro t
  obtain ⟨hfirst, hothers⟩ := s.onlyReg_setReg w n (s.getReg_lt w m)
  obtain ⟨hsecond, hothers'⟩ :=
    (s.setReg w n (s.getReg w m)).onlyReg_setReg w m (s.getReg_lt w n)
  refine ⟨?_, hsecond, fun v k hn hm => (hothers' v k hm).trans (hothers v k hn)⟩
  by_cases h : m = n
  · subst h
    exact hsecond
  · exact (hothers' w n (overlaps_same_width h)).trans hfirst

theorem State.setReg_eq (s : State) (w : Width) (n : RegNum) (v : Word) :
    s.setReg w n v = { s with regs := (s.setReg w n v).regs } := by cases w <;> rfl

/-- A write in a state with the registers of s changes the registers as one in s does. -/
theorem State.onlyReg_setReg_of_regs {s u : State} (h : u.regs = s.regs) (w : Width) (n : RegNum)
    {v : Word} (hv : v.toNat < 2 ^ w.bits) : s.onlyReg (u.setReg w n v) w n v := by
  have hget (w' : Width) (m : RegNum) : u.getReg w' m = s.getReg w' m := by
    cases w' <;> simp only [State.getReg, h]
  obtain ⟨hsame, hothers⟩ := u.onlyReg_setReg w n hv
  exact ⟨hsame, fun w' m ho => (hothers w' m ho).trans (hget w' m)⟩

/-! ## XCHG (R358, R359) -/

theorem exec_xchgRmReg_reg (s : State) (w : Width) (n reg : RegNum) :
    exec (.xchgRmReg w (.reg n) reg) s =
      .next ((s.setReg w n (s.getReg w reg)).setReg w reg (s.getReg w n)) := by
  have h : (s.setReg w n (s.getReg w reg)).lockedSince s (s.time 0) = s.setReg w n (s.getReg w reg) :=
    State.lockedSince_same (s.setReg_stores w n _) _
  exact congrArg (fun u : State => Host.Outcome.next (u.setReg w reg (s.getReg w n))) h

/-- The state after the exchange of a register with memory. -/
def State.exchanged (s : State) (w : Width) (m : Mem) (reg : RegNum) : State :=
  ((s.store (s.memSeg m) (s.ea m) w (s.getReg w reg)).lockedSince s (s.time 0)).setReg w reg
    (s.lockedValue w (.mem m))

section
variable {s : State} {w : Width} {m : Mem}

theorem exec_xchgRmReg_mem (reg : RegNum) (h : s.rmReady .write w (.mem m) = true) :
    exec (.xchgRmReg w (.mem m) reg) s = .next (s.exchanged w m reg) := by
  simp only [State.rmReady, Bool.and_eq_true] at h
  obtain ⟨hok, hans⟩ := h
  change s.finish (s.checkRM .write w (.mem m) >>= _) = _
  rw [State.checkRM_of hok, Exec.ok_bind, if_pos hans]
  rfl

theorem State.lockedValue_mem_lt (s : State) (w : Width) (m : Mem) :
    (s.lockedValue w (.mem m)).toNat < 2 ^ w.bits := by
  cases w
  · exact zext16_lt _
  · exact (s.lockedWord 0 _).isLt

/-- What is stored is seen in memory alone. -/
theorem State.stored_congr {t u : State} {a : Addr} {v : Word} (h : s.stored t a w v)
    (hr : ∀ b, u.readByte b = t.readByte b) : s.stored u a w v := by
  obtain ⟨hvalue, hframe⟩ := h
  refine ⟨fun hram => ?_, fun b hb => (hr b).trans (hframe b hb)⟩
  rw [← hvalue hram]
  cases w <;> simp only [State.memValue, State.readWord, hr]

theorem State.readByte_setReg (s : State) (w : Width) (n : RegNum) (v : Word) (b : Addr) :
    (s.setReg w n v).readByte b = s.readByte b := by cases w <;> rfl

theorem State.sameElse_lockedSince (s t : State) (n : Nat) : s.sameElse (s.lockedSince t n) := rfl

theorem State.sameElse_setReg (s : State) (w : Width) (n : RegNum) (v : Word) :
    s.sameElse (s.setReg w n v) := s.sameElse_rmPut w (.reg n) v

/-- What the exchange leaves: the register with what the locked read found, the memory operand with the
register's old value. -/
theorem State.exchanged_spec (s : State) (w : Width) (m : Mem) (reg : RegNum) :
    let t := s.exchanged w m reg
    s.onlyReg t w reg (s.lockedValue w (.mem m)) ∧ s.stored t (s.memAddr m) w (s.getReg w reg) ∧
      t.flags = s.flags ∧ s.sameElse t := by
  have hregs : ((s.store (s.memSeg m) (s.ea m) w (s.getReg w reg)).lockedSince s (s.time 0)).regs =
      s.regs := (State.lockedSince_regs _ s _).trans (s.store_regs _ _ w _)
  refine ⟨State.onlyReg_setReg_of_regs hregs w reg (s.lockedValue_mem_lt w m),
    State.stored_congr (s.stored_store (s.memSeg m) (s.ea m) w (s.getReg_lt w reg)) fun b => ?_,
    ?_, ?_⟩
  · rw [State.exchanged, State.readByte_setReg, State.readByte_lockedSince]
  · rw [State.exchanged, State.setReg_flags, State.lockedSince_flags, State.store_flags]
  · exact State.sameElse_trans (State.sameElse_trans (s.sameElse_store _ _ w _)
      (State.sameElse_lockedSince _ s _)) (State.sameElse_setReg _ w reg _)

end

/-- The registers after XCHG AX: of one exchanged with itself, the value it had. -/
theorem exec_xchgAxReg (s : State) (reg : RegNum) :
    exec (.xchgAxReg reg) s = .next { s with
      regs := (s.regs.set .ax (s.regs.get (reg16Of reg))).set (reg16Of reg) s.regs.ax } := rfl

/-- Settles O19: the register forms write two registers, the memory form a register and a store. -/
theorem exchanges : Obligations.Exchanges := by
  refine ⟨fun s w n reg => ?_, fun s w m reg h => ?_, fun s reg => ?_, fun s => rfl⟩
  · obtain ⟨hn, hreg, hothers⟩ := s.getReg_exchange w n reg
    refine ⟨_, exec_xchgRmReg_reg s w n reg, hn, hreg, hothers, ?_⟩
    rw [State.setReg_eq _ w reg, s.setReg_eq w n]
  · exact ⟨_, exec_xchgRmReg_mem reg h, s.exchanged_spec w m reg⟩
  · refine ⟨_, exec_xchgAxReg s reg, ?_, Regs.get_set_same _ _ _, fun r hax hr => ?_, rfl⟩
    · change ((s.regs.set .ax _).set (reg16Of reg) s.regs.ax).get .ax = _
      rw [Regs.get_set, Regs.get_set_same]
      split
      next h => rw [← h]; rfl
      next => rfl
    · simp only [Regs.get_set, if_neg hax, if_neg hr]

end Sys2Proof.Machine
end

section
/-! PROOFS. PUSHA and POPA. -/

namespace Sys2Proof.Machine

/-! ## Several pushes (R16, R372) -/

theorem sub_ofNat_add_two (sp : Word) (n : Nat) :
    sp - BitVec.ofNat 16 (n + 2) = sp - 2 - BitVec.ofNat 16 n := by
  rw [BitVec.ofNat_add]
  bv_omega

/-- Room for words is room for the first, and for the others below it. -/
theorem SegReg.room_succ {r : SegReg} {sp : Word} {n : Nat} (h : r.room sp (n + 1) = true) :
    r.pushAdmitted sp = true ∧ r.room (sp - 2) n = true := by
  simp only [SegReg.room, SegReg.pushAdmitted, Bool.and_eq_true, decide_eq_true_eq,
    List.all_eq_true, List.mem_range] at h ⊢
  obtain ⟨hsp, hwords⟩ := h
  refine ⟨⟨by omega, hwords 0 (by omega)⟩, by bv_omega, fun i hi => ?_⟩
  rw [← sub_ofNat_add_two]
  exact hwords (i + 1) (by omega)

theorem SegReg.pushable_of_room {r : SegReg} (n : Nat) {sp : Word} (h : r.room sp n = true) :
    r.pushable n sp = n := by
  induction n generalizing sp with
  | zero => rfl
  | succ n ih =>
    obtain ⟨hfirst, hrest⟩ := SegReg.room_succ h
    rw [SegReg.pushable, if_pos hfirst, ih hrest]

/-- In real address mode words are pushed where none finds SP = 0001h. -/
theorem State.pushAll_real (vs : List Word) {s : State} (hp : s.msw.pe = false)
    (hsp : ∀ i < vs.length, s.regs.sp - BitVec.ofNat 16 (2 * i) ≠ 1#16) :
    s.pushAll vs = .ok (s.pushAllRaw vs) := by
  induction vs generalizing s with
  | nil => rfl
  | cons v vs ih =>
    have hfirst : s.regs.sp ≠ 1#16 := by simpa using hsp 0 (by simp)
    refine (Exec.bind_of_ok (State.push_real v hp hfirst)).trans
      (ih (by simpa using hp) fun i hi => ?_)
    rw [State.pushRaw_regs, ← sub_ofNat_add_two]
    exact hsp (i + 1) (by simpa using hi)

theorem State.pushed_of_pushOk {s : State} {vs : List Word} (h : s.pushOk vs.length = true)
    (hlen : vs.length < 0x8000) : s.pushed (s.pushAllRaw vs) vs := by
  cases hp : s.msw.pe with
  | true => exact State.pushed_of_room (by simpa [State.pushOk, hp] using h)
  | false => exact State.pushed_pushAllRaw vs s hlen (State.sp_of_pushOk_real hp h)

theorem State.sameElse_pushAllRaw (vs : List Word) (s : State) : s.sameElse (s.pushAllRaw vs) := by
  induction vs generalizing s with
  | nil => exact s.sameElse_refl
  | cons v vs ih => exact State.sameElse_trans (s.sameElse_pushRaw v) (ih _)

/-! ## PUSHA (R354) -/

theorem exec_pusha_of {s : State} (h : s.pushOk 8 = true) :
    exec .pusha s = .next (s.pushAllRaw s.regs.pushaWords) := by
  change execPusha s = _
  cases hp : s.msw.pe with
  | true =>
    have hroom : s.ss.room s.regs.sp 8 = true := by simpa [State.pushOk, hp] using h
    simp only [execPusha, hp, if_true, SegReg.pushable_of_room 8 hroom, State.finish_ok]
  | false =>
    have hall := State.pushAll_real s.regs.pushaWords hp (State.sp_of_pushOk_real hp h)
    simp only [execPusha, hp, Bool.false_eq_true, if_false, hall, State.finish_ok]

/-! ## POPA (R357) -/

/-- POPA passes the word of a register at sp: it pops it, or goes past it where it is SP's. -/
def State.passes (s : State) (r : Reg16) (sp : Word) : Bool :=
  if r = .sp then s.skipAdmitted sp else s.popAdmitted sp

theorem State.poppable_cons (s : State) (r : Reg16) (rs : List Reg16) (sp : Word) :
    s.poppable (r :: rs) sp = if s.passes r sp then s.poppable rs (sp + 2) + 1 else 0 := rfl

/-- The words of all registers are passed where each is. -/
theorem State.poppable_of (s : State) (rs : List Reg16) {sp : Word}
    (h : ∀ i (hi : i < rs.length), s.passes rs[i] (sp + BitVec.ofNat 16 (2 * i)) = true) :
    s.poppable rs sp = rs.length := by
  induction rs generalizing sp with
  | nil => rfl
  | cons r rs ih =>
    have hfirst : s.passes r sp = true := by
      rw [← BitVec.add_zero (x := sp)]
      exact h 0 (Nat.succ_pos _)
    rw [State.poppable_cons, if_pos hfirst, ih fun i hi => ?_, List.length_cons]
    rw [add_ofNat_succ_succ]
    exact h (i + 1) (by simpa using hi)

theorem popaOrder_ne_sp : ∀ i (hi : i < popaOrder.length), i ≠ 3 → popaOrder[i] ≠ .sp := by
  decide

section
variable {s : State}
  (hpop : ∀ i, i < 8 → i ≠ 3 → s.popReady (s.regs.sp + BitVec.ofNat 16 (2 * i)) = true)
include hpop

theorem State.poppable_popaOrder (hskip : s.skipAdmitted (s.regs.sp + 6) = true) :
    s.poppable popaOrder s.regs.sp = 8 := by
  refine s.poppable_of popaOrder fun i hi => ?_
  by_cases h : i = 3
  · subst h
    exact hskip
  · have hready := hpop i hi h
    simp only [State.popReady, Bool.and_eq_true] at hready
    rw [State.passes, if_neg (popaOrder_ne_sp i hi h)]
    exact hready.1

theorem State.awaitStack_of : s.awaitStack 8 = .ok () := by
  refine if_pos (List.all_eq_true.2 fun i hi => ?_)
  by_cases h : i = 3
  · simp [h]
  · have hready := hpop i (List.mem_range.1 hi) h
    simp only [State.popReady, Bool.and_eq_true] at hready
    simp [hready.2]

theorem exec_popa_of (hskip : s.skipAdmitted (s.regs.sp + 6) = true) :
    exec .popa s = .next { s with regs := s.popaRegs } := by
  change execPopa s = _
  simp only [execPopa, State.poppable_popaOrder hpop hskip, State.awaitStack_of hpop, Exec.ok_bind,
    if_true, State.finish_ok]

end

/-- Settles O16: PUSHA is eight pushes, POPA seven pops and a word passed. -/
theorem pushAllAndPopAll : Obligations.PushAllAndPopAll := by
  refine ⟨fun s h => ?_, fun s hpop hwrap => ?_⟩
  · have hlen : s.regs.pushaWords.length = 8 := rfl
    have hpushed := State.pushed_of_pushOk (vs := s.regs.pushaWords) h (by omega)
    have ⟨hsp, _⟩ := hpushed
    have honly : s.regs.onlyWord (s.pushAllRaw s.regs.pushaWords).regs .sp (s.regs.sp - 16) := by
      rw [State.pushAllRaw_regs, hsp, hlen]
      exact s.regs.onlyWord_sp _
    exact ⟨_, exec_pusha_of h, hpushed, honly, s.pushAllRaw_flags _, s.sameElse_pushAllRaw _⟩
  · have hskip : s.skipAdmitted (s.regs.sp + 6) = true := by
      cases hp : s.msw.pe with
      | true => simpa [State.skipAdmitted, hp] using hwrap hp
      | false => simp [State.skipAdmitted, hp]
    exact exec_popa_of hpop hskip

end Sys2Proof.Machine
end

section
/-! PROOFS. Exception 8 of real address mode, and shutdown. -/

namespace Sys2Proof.Machine

/-! ## The entry of an interrupt whose table entry is outside the limit (R643, R671) -/

section
variable {s : State} {n : Byte}

/-- INT n, INT 3 and INTO save the address of the next instruction, and where the delivery fails their
own (R543, R624). -/
theorem exec_softInt_real {i : Instr} (hp : s.msw.pe = false)
    (h : i = .int n ∨ (i = .int3 ∧ n = 3#8) ∨ (i = .into ∧ n = 4#8 ∧ s.flags.of = true)) :
    exec i s = deliverOutcome s (s.entering.realInterrupt n .int s.nextAddr s.here) := by
  rw [exec_softInt h]
  change deliverOutcome s (s.interrupt n .int s.nextAddr s.here none) = _
  rw [State.interrupt, hp]
  rfl

theorem State.vectorFits_iff (s : State) (n : Byte) :
    s.vectorFits n = true ↔ 4 * n.toNat + 3 ≤ s.idtr.limit.toNat := by
  simp [State.vectorFits]

theorem State.realInterrupt_fits {kind : IntKind} {ret fail : RetAddr}
    (h : 4 * n.toNat + 3 ≤ s.idtr.limit.toNat) :
    s.realInterrupt n kind ret fail = s.realEntry n kind ret :=
  if_pos ((s.vectorFits_iff n).2 h)

/-- Exception 8 comes in the place of an interrupt outside the table, saving the address of the
instruction (R643). -/
theorem State.realInterrupt_outside {kind : IntKind} {ret fail : RetAddr} (h8 : n ≠ 8#8)
    (h13 : n ≠ 13#8) (h : s.idtr.limit.toNat < 4 * n.toNat + 3) (h35 : 35 ≤ s.idtr.limit.toNat) :
    s.realInterrupt n kind ret fail = s.realEntry 8#8 .exception fail := by
  have hn : ¬s.vectorFits n = true := by rw [State.vectorFits_iff]; omega
  have hfits : s.vectorFits 8#8 = true := (s.vectorFits_iff 8#8).2 h35
  rw [State.realInterrupt, if_neg hn, if_neg (by simp [h8, h13, hfits])]

/-- Where entry 8 is outside too the processor shuts down (R671). -/
theorem State.realInterrupt_shutdown {kind : IntKind} {ret fail : RetAddr}
    (h : s.idtr.limit.toNat < 4 * n.toNat + 3) (h35 : s.idtr.limit.toNat < 35) :
    s.realInterrupt n kind ret fail = .error (.shutdown s) := by
  have hn : ¬s.vectorFits n = true := by rw [State.vectorFits_iff]; omega
  have h8 : s.vectorFits 8#8 = false := by
    rw [Bool.eq_false_iff, ne_eq, State.vectorFits_iff]
    exact Nat.not_le.2 h35
  rw [State.realInterrupt, if_neg hn, if_pos (by simp [h8])]

theorem exec_int_outside (hp : s.msw.pe = false) (hout : s.idtr.limit.toNat < 4 * n.toNat + 3)
    (h8 : n ≠ 8#8) (h13 : n ≠ 13#8) (h35 : 35 ≤ s.idtr.limit.toNat) (hok : s.pushOk 3 = true)
    (hans : s.answersAt (s.idtr.base + 32) 4 = true) :
    exec (.int n) s = .next ((s.entering.realEntered 8#8 .exception s.here).release s) := by
  have hentry : s.entering.realEntry 8#8 .exception s.here = _ :=
    State.realEntry_of .exception s.here hp hok hans
  rw [exec_softInt_real hp (.inl rfl),
    State.realInterrupt_outside (s := s.entering) h8 h13 hout h35, hentry]
  rfl

theorem exec_int_shutdown (hp : s.msw.pe = false) (hout : s.idtr.limit.toNat < 4 * n.toNat + 3)
    (h35 : s.idtr.limit.toNat < 35) : exec (.int n) s = .next s.enterShutdown := by
  rw [exec_softInt_real hp (.inl rfl), State.realInterrupt_shutdown (s := s.entering) hout h35]
  rfl

/-- Entry 8 of the table is 32 bytes into it. -/
theorem State.realEntered_eight (s : State) (kind : IntKind) (ret : RetAddr) :
    let t := s.realEntered 8#8 kind ret
    t.ip = s.lockedWord 0 (s.idtr.base + 32) ∧
      t.cs = realCs (s.lockedWord 0 (s.idtr.base + 34)) := by
  obtain ⟨-, hip, hcs, -⟩ := s.realEntered_spec 8#8 kind ret
  have haddr : s.idtr.base + 32 + 2 = s.idtr.base + 34 := BitVec.add_assoc _ 32#24 2#24
  rw [show BitVec.ofNat 24 (4 * (8#8 : Byte).toNat) = 32 from rfl] at hip hcs
  exact ⟨hip, haddr ▸ hcs⟩

end

/-! ## A push that finds SP = 0001h (R372) -/

theorem State.push_one {s : State} (v : Word) (hp : s.msw.pe = false) (h : s.regs.sp = 1#16) :
    s.push v = .error (.shutdown s) := by
  simp [State.push, hp, h]

/-- x pushes n words from s on: where SP is odd, and so 0001h before one of them, it shuts the processor
down there, and no event has left the machine. -/
def State.EndsInPush {α : Type} (s : State) (n : Nat) (x : Exec α) : Prop :=
  s.regs.sp.toNat % 2 = 1 → s.regs.sp.toNat < 2 * n →
    ∃ u, x = .error (.shutdown u) ∧ u.regs.sp = 1#16 ∧ u.out = s.out

/-- x pushes n words from s on and does nothing before the first: where that finds SP = 0001h nothing has
changed. -/
def State.BeginsWithPush {α : Type} (s : State) (n : Nat) (x : Exec α) : Prop :=
  (s.regs.sp = 1#16 → x = .error (.shutdown s)) ∧ s.EndsInPush n x

section
variable {α β : Type} {s : State} {n : Nat} {v : Word}

theorem State.endsInPush_zero (x : Exec α) : s.EndsInPush 0 x :=
  fun _ h => absurd h (Nat.not_lt_zero _)

/-- A push, and those after it from the state it leads to. -/
theorem State.endsInPush_push {f : State → Exec α} (hp : s.msw.pe = false)
    (h : (s.pushRaw v).EndsInPush n (f (s.pushRaw v))) : s.EndsInPush (n + 1) (s.push v >>= f) := by
  intro hodd hlt
  by_cases h1 : s.regs.sp = 1#16
  · exact ⟨s, by rw [State.push_one v hp h1, Exec.error_bind], h1, rfl⟩
  · have hne : s.regs.sp.toNat ≠ 1 := fun he => h1 (BitVec.eq_of_toNat_eq he)
    have hsp : (s.pushRaw v).regs.sp.toNat = s.regs.sp.toNat - 2 := by
      rw [State.pushRaw_regs]
      bv_omega
    obtain ⟨u, hu, husp, hout⟩ := h (by omega) (by omega)
    exact ⟨u, (Exec.bind_of_ok (State.push_real v hp h1)).trans hu, husp,
      hout.trans (s.pushRaw_out v)⟩

theorem State.beginsWithPush_push {f : State → Exec α} (hp : s.msw.pe = false)
    (h : (s.pushRaw v).EndsInPush n (f (s.pushRaw v))) :
    s.BeginsWithPush (n + 1) (s.push v >>= f) :=
  ⟨fun h1 => by rw [State.push_one v hp h1, Exec.error_bind], State.endsInPush_push hp h⟩

theorem State.beginsWithPush_one (v : Word) (hp : s.msw.pe = false) :
    s.BeginsWithPush 1 (s.push v) := by
  rw [← bind_pure (s.push v)]
  exact State.beginsWithPush_push hp (State.endsInPush_zero _)

theorem State.EndsInPush.bind {x : Exec α} (h : s.EndsInPush n x) (f : α → Exec β) :
    s.EndsInPush n (x >>= f) := fun hodd hlt =>
  let ⟨u, hu, hrest⟩ := h hodd hlt
  ⟨u, by rw [hu, Exec.error_bind], hrest⟩

theorem State.BeginsWithPush.bind {x : Exec α} (h : s.BeginsWithPush n x) (f : α → Exec β) :
    s.BeginsWithPush n (x >>= f) :=
  let ⟨hfirst, hlater⟩ := h
  ⟨fun h1 => by rw [hfirst h1, Exec.error_bind], hlater.bind f⟩

/-- What ENTER keeps of its pushes on an exception does not touch a shutdown (R650 (e)). -/
theorem State.EndsInPush.keepPushes {x : Exec α} (h : s.EndsInPush n x) (r t : State) :
    s.EndsInPush n (r.keepPushes t x) := fun hodd hlt =>
  let ⟨u, hu, hrest⟩ := h hodd hlt
  ⟨u, by rw [hu]; rfl, hrest⟩

theorem State.endsInPush_pushAll (vs : List Word) {s : State} (hp : s.msw.pe = false) :
    s.EndsInPush vs.length (s.pushAll vs) := by
  induction vs generalizing s with
  | nil => exact State.endsInPush_zero _
  | cons v vs ih => exact State.endsInPush_push hp (ih (by simpa using hp))

theorem State.beginsWithPush_pushAll (vs : List Word) (hp : s.msw.pe = false) :
    s.BeginsWithPush (vs.length + 1) (s.pushAll (v :: vs)) :=
  State.beginsWithPush_push hp (State.endsInPush_pushAll vs (by simpa using hp))

/-! ## The operations that push (R482, R484, R540, R640) -/

theorem State.beginsWithPush_nearCall (target : Word) (hp : s.msw.pe = false) :
    s.BeginsWithPush 1 (s.nearCall target) := by
  have ht : s.targetOk target = true := by simp [State.targetOk, hp]
  rw [State.nearCall, require_of ht, Exec.ok_bind]
  exact State.beginsWithPush_push hp (State.endsInPush_zero _)

theorem State.beginsWithPush_farCall (sel off : Word) (hp : s.msw.pe = false) :
    s.BeginsWithPush 2 (s.farCall sel off) := by
  rw [State.farCall, if_neg (by simp [hp])]
  exact (State.beginsWithPush_pushAll [s.ip] hp).bind _

/-- IF and TF are cleared between the first push of an entry and the others. -/
theorem State.beginsWithPush_realEntry {n : Byte} {kind : IntKind} {ret : RetAddr}
    (hp : s.msw.pe = false)
    (hans : s.answersAt (s.idtr.base + BitVec.ofNat 24 (4 * n.toNat)) 4 = true) :
    s.BeginsWithPush 3 (s.realEntry n kind ret) := by
  rw [State.realEntry, vectorAddr_eq, State.await_of hans, Exec.ok_bind]
  have hcs : ((s.pushRaw s.flags.toWord).setFlags { s.flags with intf := false, tf := false }).msw.pe =
      false := by simpa using hp
  exact State.beginsWithPush_push hp (State.endsInPush_push (s := (s.pushRaw _).setFlags _) hcs
    (State.endsInPush_push (by simpa using hp) (State.endsInPush_zero _)))

end

/-! ## The instructions that push (R372, R670, R671) -/

/-- i makes n pushes, and shuts the processor down at the one that finds SP = 0001h: with nothing
changed where that is the first. -/
def ShutsDown (i : Instr) (s : State) (n : Nat) : Prop :=
  (s.regs.sp = 1#16 → exec i s = .next s.enterShutdown) ∧
    (s.regs.sp.toNat % 2 = 1 → s.regs.sp.toNat < 2 * n →
      ∃ t, exec i s = .next t ∧ t.run = .shutdown ∧ t.regs.sp = 1#16 ∧
        t.out = .shutdownCycle :: s.out)

section
variable {s : State} {i : Instr} {n : Nat} {x : Exec State}

theorem shutsDown_of_finish (h : s.BeginsWithPush n x) (hi : exec i s = s.finish x) :
    ShutsDown i s n := by
  obtain ⟨hfirst, hlater⟩ := h
  refine ⟨fun h1 => by rw [hi, hfirst h1, State.finish_shutdown], fun hodd hlt => ?_⟩
  obtain ⟨u, rfl, hsp, hout⟩ := hlater hodd hlt
  exact ⟨u.enterShutdown, hi, rfl, hsp, hout ▸ rfl⟩

theorem shutsDown_of_delivery (h : s.entering.BeginsWithPush n x)
    (hi : exec i s = deliverOutcome s x) : ShutsDown i s n := by
  obtain ⟨hfirst, hlater⟩ := h
  refine ⟨fun h1 => by rw [hi, hfirst h1]; rfl, fun hodd hlt => ?_⟩
  obtain ⟨u, rfl, hsp, hout⟩ := hlater hodd hlt
  exact ⟨u.enterShutdown.release s, hi, rfl, hsp, hout ▸ rfl⟩

theorem exec_enter_zero {size : Word} {level : Byte} (h : level.toNat % 32 = 0) :
    exec (.enter size level) s = s.finish (s.push s.regs.bp >>= fun t =>
      .ok ((t.setBp t.regs.sp).setSp (t.regs.sp - size))) := by
  change execEnter size level s = _
  simp only [execEnter, h, if_true]
  rfl

theorem exec_enter_one {size : Word} {level : Byte} (h : level.toNat % 32 = 1) :
    exec (.enter size level) s = s.finish (s.push s.regs.bp >>= fun t =>
      s.keepPushes t (t.push t.regs.sp) >>= fun u =>
        .ok ((u.setBp t.regs.sp).setSp (u.regs.sp - size))) := by
  change execEnter size level s = _
  simp only [execEnter, h, Nat.one_ne_zero, if_false, Nat.sub_self, State.copyFrames, Exec.ok_bind]

/-- ENTER pushes BP, and at level 1 the new frame pointer (R540). -/
theorem shutsDown_enter {size : Word} {level : Byte} (hp : s.msw.pe = false)
    (hlevel : level.toNat % 32 < 2) : ShutsDown (.enter size level) s (level.toNat % 32 + 1) := by
  obtain h | h : level.toNat % 32 = 0 ∨ level.toNat % 32 = 1 := by omega
  · rw [h]
    exact shutsDown_of_finish (State.beginsWithPush_push hp (State.endsInPush_zero _))
      (exec_enter_zero h)
  · obtain ⟨-, hframe⟩ := State.beginsWithPush_one (s := s.pushRaw s.regs.bp)
      (s.pushRaw s.regs.bp).regs.sp (by simpa using hp)
    rw [h]
    exact shutsDown_of_finish (State.beginsWithPush_push hp
      ((hframe.keepPushes s (s.pushRaw s.regs.bp)).bind _)) (exec_enter_one h)

theorem shutsDown_pusha (hp : s.msw.pe = false) : ShutsDown .pusha s 8 := by
  refine shutsDown_of_finish (x := s.pushAll s.regs.pushaWords) (State.beginsWithPush_pushAll _ hp) ?_
  change execPusha s = _
  rw [execPusha, if_neg (by simp [hp])]

/-- The instructions that push one word: PUSH, PUSHF and near CALL. -/
theorem shutsDown_one (hp : s.msw.pe = false)
    (h : (∃ reg, i = .pushReg reg) ∨ (∃ r, i = .pushSreg r) ∨ (∃ imm, i = .pushImm imm) ∨
      i = .pushf ∨ (∃ d, i = .callRel d) ∨
      ∃ rm, s.rmReady .read .word rm = true ∧ (i = .pushRm rm ∨ i = .callRm rm)) :
    ShutsDown i s 1 := by
  obtain ⟨reg, rfl⟩ | ⟨r, rfl⟩ | ⟨imm, rfl⟩ | rfl | ⟨d, rfl⟩ | ⟨rm, hrm, rfl | rfl⟩ := h
  · exact shutsDown_of_finish (State.beginsWithPush_one _ hp) (exec_pushReg reg s)
  · exact shutsDown_of_finish (State.beginsWithPush_one _ hp) (exec_pushSreg r s)
  · exact shutsDown_of_finish (State.beginsWithPush_one _ hp) (exec_pushImm imm s)
  · exact shutsDown_of_finish (State.beginsWithPush_one _ hp) (exec_pushf s)
  · exact shutsDown_of_finish (State.beginsWithPush_nearCall _ hp)
      (exec_nearCall (.inl ⟨d, rfl, rfl⟩))
  · exact shutsDown_of_finish (State.beginsWithPush_one _ hp) (exec_pushRm_of_ready hrm)
  · exact shutsDown_of_finish (State.beginsWithPush_nearCall _ hp)
      (exec_nearCall (.inr ⟨rm, rfl, hrm, rfl⟩))

theorem shutsDown_callFar (hp : s.msw.pe = false)
    (h : (∃ off sel, i = .callFar off sel) ∨
      ∃ m, s.wordsReady (s.memSeg m) (s.ea m) 2 = true ∧ i = .callFarMem m) :
    ShutsDown i s 2 := by
  obtain ⟨off, sel, rfl⟩ | ⟨m, hm, rfl⟩ := h
  · exact shutsDown_of_finish (State.beginsWithPush_farCall sel off hp) rfl
  · exact shutsDown_of_finish (State.beginsWithPush_farCall _ _ hp)
      (congrArg s.finish (Exec.bind_of_ok (State.readPointer_of_ready hm)))

/-- INT n, INT 3 and INTO push FLAGS, CS and IP (R640). -/
theorem shutsDown_softInt {v : Byte} (hp : s.msw.pe = false)
    (h : i = .int v ∨ (i = .int3 ∧ v = 3#8) ∨ (i = .into ∧ v = 4#8 ∧ s.flags.of = true))
    (hfits : 4 * v.toNat + 3 ≤ s.idtr.limit.toNat)
    (hans : s.answersAt (s.idtr.base + BitVec.ofNat 24 (4 * v.toNat)) 4 = true) :
    ShutsDown i s 3 := by
  refine shutsDown_of_delivery ?_ (exec_softInt_real hp h)
  rw [State.realInterrupt_fits (s := s.entering) hfits]
  exact State.beginsWithPush_realEntry hp hans

end

/-- Settles O44: an INT outside the table is the entry of exception 8, or shutdown; each instruction that
pushes ends in the push that finds SP = 0001h (`State.BeginsWithPush`). -/
theorem realModeTableLimitAndShutdown : Obligations.RealModeTableLimitAndShutdown := by
  refine ⟨fun s n hp hout => ⟨fun h8 h13 h35 hok hans => ?_, exec_int_shutdown hp hout⟩,
    fun s i n hp h => ?_⟩
  · have hexec := exec_int_outside hp hout h8 h13 h35 hok hans
    have hpushed := State.pushed_realEntered (s := s.entering) 8#8 .exception s.here hp hok
    obtain ⟨hip, hcs⟩ := s.entering.realEntered_eight .exception s.here
    generalize s.entering.realEntered 8#8 .exception s.here = t at *
    exact ⟨t.release s, hexec, State.pushed_congr hpushed rfl fun _ => rfl, hip, hcs⟩
  · obtain ⟨rfl, h⟩ | ⟨rfl, h⟩ | ⟨rfl, v, hi, hfits, hans⟩ | ⟨rfl, rfl⟩ |
      ⟨size, level, rfl, hlevel, rfl⟩ := h
    · exact shutsDown_one hp h
    · exact shutsDown_callFar hp h
    · exact shutsDown_softInt hp hi hfits hans
    · exact shutsDown_pusha hp
    · exact shutsDown_enter hp hlevel

end Sys2Proof.Machine
end

section
/-! PROOFS. What the flag computations give, in numbers. -/

namespace Sys2Proof.Machine

/-! ## Integers of a width (R13) -/

theorem signedValue_bounds {w : Width} {v : Word} (h : v.toNat < 2 ^ w.bits) :
    -(2 ^ (w.bits - 1) : Int) ≤ signedValue w v ∧ signedValue w v < 2 ^ (w.bits - 1) := by
  unfold signedValue
  split <;> cases w <;> simp only [Width.bits] at * <;> omega

/-- An operand and the integer it denotes differ by a multiple of 2^N. -/
theorem signedValue_emod (w : Width) (v : Word) :
    signedValue w v % 2 ^ w.bits = (v.toNat : Int) % 2 ^ w.bits := by
  unfold signedValue
  split
  · rfl
  · exact Int.sub_emod_right _ _

theorem msb_iff {w : Width} {v : Word} (h : v.toNat < 2 ^ w.bits) :
    msb w v = true ↔ 2 ^ (w.bits - 1) ≤ v.toNat := by
  cases w <;> simp only [msb, Width.bits] at *
  · rw [BitVec.getLsbD, Nat.testBit_eq_decide_div_mod_eq, decide_eq_true_eq]
    omega
  · rw [BitVec.getLsbD, Nat.testBit_eq_decide_div_mod_eq, decide_eq_true_eq]
    omega

theorem signed_eq_signedValue {w : Width} {v : Word} (h : v.toNat < 2 ^ w.bits) :
    signed w v = signedValue w v := by
  simp only [signed, msb_iff h, signedValue, ← Nat.not_lt, ite_not]

theorem signedValue_word_eq_ite (v : Word) :
    signedValue .word v = if v.getLsbD 15 then (v.toNat : Int) - 2 ^ 16 else (v.toNat : Int) :=
  (signed_eq_signedValue (w := .word) v.isLt).symm

theorem fitsSigned_iff (w : Width) (n : Int) :
    fitsSigned w n = true ↔ -(2 ^ (w.bits - 1) : Int) ≤ n ∧ n < 2 ^ (w.bits - 1) := by
  simp [fitsSigned]

/-- The N low bits of an integer denote it exactly where it lies in the signed range. -/
theorem signedValue_eq_iff {w : Width} {r : Word} {n : Int}
    (h : (r.toNat : Int) = n % 2 ^ w.bits) : signedValue w r = n ↔ fitsSigned w n = true := by
  rw [fitsSigned_iff]
  unfold signedValue
  split <;> cases w <;> simp only [Width.bits] at * <;> omega

/-- OF of a result: the integer meant is not the one its N low bits denote. -/
theorem not_fitsSigned_iff {w : Width} {r : Word} {n : Int}
    (h : (r.toNat : Int) = n % 2 ^ w.bits) : (!fitsSigned w n) = true ↔ signedValue w r ≠ n := by
  rw [Ne, signedValue_eq_iff h, Bool.not_eq_true', Bool.not_eq_true]

theorem truncTo_toNat (w : Width) (n : Nat) : (truncTo w n).toNat = n % 2 ^ w.bits := by
  cases w <;> simp only [truncTo, Width.bits, BitVec.toNat_ofNat] <;> omega

theorem truncInt_toNat (w : Width) (n : Int) : ((truncInt w n).toNat : Int) = n % 2 ^ w.bits := by
  rw [truncInt, truncTo_toNat]
  cases w <;> simp only [Width.bits] <;> omega

theorem toNat_ofInt_word (n : Int) : ((BitVec.ofInt 16 n).toNat : Int) =
    n % 2 ^ Width.word.bits := by
  simp only [BitVec.toNat_ofInt, Width.bits]
  omega

theorem truncTo_lt (w : Width) (n : Nat) : (truncTo w n).toNat < 2 ^ w.bits := by
  rw [truncTo_toNat]
  exact Nat.mod_lt _ (Nat.two_pow_pos _)

theorem truncInt_lt (w : Width) (n : Int) : (truncInt w n).toNat < 2 ^ w.bits := truncTo_lt w _

/-! ## ZF, SF and PF (R18) -/

theorem parityEven_iff (v : Word) : parityEven v = true ↔ evenOnes v := by
  unfold parityEven evenOnes
  simp only [List.range_succ, List.range_zero, List.nil_append, List.filter_append,
    List.filter_singleton, List.length_append]
  generalize v.getLsbD 0 = b0, v.getLsbD 1 = b1, v.getLsbD 2 = b2, v.getLsbD 3 = b3,
    v.getLsbD 4 = b4, v.getLsbD 5 = b5, v.getLsbD 6 = b6, v.getLsbD 7 = b7
  revert b0 b1 b2 b3 b4 b5 b6 b7
  decide

theorem Flags.ofResult_setSZP (f : Flags) {w : Width} {r : Word} (h : r.toNat < 2 ^ w.bits) :
    (f.setSZP w r).ofResult w r :=
  ⟨beq_iff_eq, msb_iff h, parityEven_iff r⟩

/-! ## Add and Sub (R381) -/

theorem carryNat_eq_toNat (c : Bool) : carryNat c = c.toNat := by cases c <;> rfl

theorem addFlags_sameControl (w : Width) (a b : Word) (c : Bool) (f : Flags) :
    f.sameControl (addFlags w a b c f).2 := ⟨rfl, rfl, rfl, rfl, rfl⟩

theorem subFlags_sameControl (w : Width) (a b : Word) (c : Bool) (f : Flags) :
    f.sameControl (subFlags w a b c f).2 := ⟨rfl, rfl, rfl, rfl, rfl⟩

theorem addFlags_lt (w : Width) (a b : Word) (c : Bool) (f : Flags) :
    (addFlags w a b c f).1.toNat < 2 ^ w.bits := truncTo_lt w _

theorem subFlags_lt (w : Width) (a b : Word) (c : Bool) (f : Flags) :
    (subFlags w a b c f).1.toNat < 2 ^ w.bits := truncInt_lt w _

/-- The sum of two operands is that of the integers they denote, modulo 2^N. -/
theorem truncTo_add_emod (w : Width) (a b : Word) (c : Nat) :
    ((truncTo w (a.toNat + b.toNat + c)).toNat : Int) =
      (signedValue w a + signedValue w b + c) % 2 ^ w.bits := by
  have ha := signedValue_emod w a
  have hb := signedValue_emod w b
  rw [truncTo_toNat]
  cases w <;> simp only [Width.bits] at * <;> omega

theorem truncInt_sub_emod (w : Width) (a b : Word) (c : Nat) :
    ((truncInt w ((a.toNat : Int) - b.toNat - c)).toNat : Int) =
      (signedValue w a - signedValue w b - c) % 2 ^ w.bits := by
  have ha := signedValue_emod w a
  have hb := signedValue_emod w b
  rw [truncInt_toNat]
  cases w <;> simp only [Width.bits] at * <;> omega

section
variable {w : Width} {a b : Word} (ha : a.toNat < 2 ^ w.bits) (hb : b.toNat < 2 ^ w.bits)
include ha hb

theorem sumResult_addFlags (c : Bool) (f : Flags) :
    sumResult w a b c.toNat (addFlags w a b c f).1 (addFlags w a b c f).2 := by
  simp only [sumResult, addFlags, carryNat_eq_toNat, signed_eq_signedValue ha,
    signed_eq_signedValue hb]
  exact ⟨truncTo_toNat w _, decide_eq_true_iff, not_fitsSigned_iff (truncTo_add_emod w a b _),
    f.ofResult_setSZP (truncTo_lt w _)⟩

theorem differenceResult_subFlags (c : Bool) (f : Flags) :
    differenceResult w a b c.toNat (subFlags w a b c f).1 (subFlags w a b c f).2 := by
  simp only [differenceResult, subFlags, carryNat_eq_toNat, signed_eq_signedValue ha,
    signed_eq_signedValue hb]
  exact ⟨truncInt_toNat w _, decide_eq_true_iff, not_fitsSigned_iff (truncInt_sub_emod w a b _),
    f.ofResult_setSZP (truncInt_lt w _)⟩

end

theorem sumCarry_addFlags (w : Width) (a b : Word) (c : Bool) (f : Flags) :
    sumCarry w a b c.toNat (addFlags w a b c f).2 := by
  rw [← carryNat_eq_toNat]
  exact decide_eq_true_iff

theorem differenceBorrow_subFlags (w : Width) (a b : Word) (c : Bool) (f : Flags) :
    differenceBorrow a b c.toNat (subFlags w a b c f).2 := by
  rw [← carryNat_eq_toNat]
  exact decide_eq_true_iff

end Sys2Proof.Machine
end

section
/-! PROOFS. ADD, ADC, SUB, SBB, CMP, NEG, INC and DEC. -/

namespace Sys2Proof.Machine

/-! ## Instructions that write one operand and the flags (R382 to R384) -/

section
variable {s : State} {w : Width} {rm : RM}

theorem State.finish_modifyRM_of (op : Word → Flags → Word × Flags)
    (h : s.rmReady .write w rm = true) :
    s.finish (s.modifyRM w rm op) = .next (s.rmPutFlags w rm (op (s.rmValue w rm) s.flags)) := by
  rw [State.modifyRM_of_ready op h, State.finish_ok]

theorem State.finish_binRmReg_of_write (op : BinOp) (reg : RegNum)
    (h : s.rmReady .write w rm = true) :
    s.finish (s.binRmReg op false w rm reg) =
      .next (s.rmPutFlags w rm (op (s.rmValue w rm) (s.getReg w reg) s.flags)) :=
  State.finish_modifyRM_of _ h

theorem State.finish_readRM_of (f : Word → Exec State) (h : s.rmReady .read w rm = true) :
    s.finish (s.readRM w rm >>= f) = s.finish (f (s.rmValue w rm)) := by
  rw [State.readRM_of_ready h, Exec.ok_bind]

theorem State.finish_binRmReg_of_read (op : BinOp) (reg : RegNum)
    (h : s.rmReady .read w rm = true) :
    s.finish (s.binRmReg op true w rm reg) =
      .next (s.rmPutFlags w (.reg reg) (op (s.getReg w reg) (s.rmValue w rm) s.flags)) :=
  State.finish_readRM_of _ h

theorem State.finish_binRmImm_of (op : BinOp) (v : Word) (h : s.rmReady .write w rm = true) :
    s.finish (s.binRmImm op w rm v) = .next (s.rmPutFlags w rm (op (s.rmValue w rm) v s.flags)) :=
  State.finish_modifyRM_of _ h

theorem State.finish_flagsRM_of (op : Word → Flags → Flags) (h : s.rmReady .read w rm = true) :
    s.finish (s.flagsRM w rm op) = .next (s.setFlags (op (s.rmValue w rm) s.flags)) :=
  State.finish_readRM_of _ h

end

section
variable (s : State) (w : Width) (rm : RM)

theorem State.placed_rmPutFlags {r : Word × Flags} (h : r.1.toNat < 2 ^ w.bits) :
    s.placed (s.rmPutFlags w rm r) w rm r.1 := State.placed_setFlags (s.placed_rmPut w rm h) r.2

theorem State.sameElse_rmPutFlags (r : Word × Flags) : s.sameElse (s.rmPutFlags w rm r) :=
  State.sameElse_setFlags (s.sameElse_rmPut w rm r.1) r.2

end

section
variable {i : Instr} {s : State} {w : Width} {rm : RM} {a b : Word}
  (ha : a.toNat < 2 ^ w.bits) (hb : b.toNat < 2 ^ w.bits)
include ha hb

theorem addsInto_of_rmPutFlags {c : Bool}
    (hi : exec i s = .next (s.rmPutFlags w rm (addFlags w a b c s.flags))) :
    addsInto i s w rm a b c.toNat :=
  ⟨_, _, hi, s.placed_rmPutFlags w rm (addFlags_lt w a b c _), sumResult_addFlags ha hb c _,
    sumCarry_addFlags w a b c _, addFlags_sameControl w a b c _, s.sameElse_rmPutFlags w rm _⟩

theorem addsInto_of_addOp (hi : exec i s = .next (s.rmPutFlags w rm (addOp w a b s.flags))) :
    addsInto i s w rm a b 0 := addsInto_of_rmPutFlags (c := false) ha hb hi

theorem addsInto_of_adcOp (hi : exec i s = .next (s.rmPutFlags w rm (adcOp w a b s.flags))) :
    addsInto i s w rm a b s.flags.cf.toNat := addsInto_of_rmPutFlags ha hb hi

theorem subtractsInto_of_rmPutFlags {c : Bool}
    (hi : exec i s = .next (s.rmPutFlags w rm (subFlags w a b c s.flags))) :
    subtractsInto i s w rm a b c.toNat :=
  ⟨_, _, hi, s.placed_rmPutFlags w rm (subFlags_lt w a b c _),
    differenceResult_subFlags ha hb c _, differenceBorrow_subFlags w a b c _,
    subFlags_sameControl w a b c _, s.sameElse_rmPutFlags w rm _⟩

theorem subtractsInto_of_subOp (hi : exec i s = .next (s.rmPutFlags w rm (subOp w a b s.flags))) :
    subtractsInto i s w rm a b 0 := subtractsInto_of_rmPutFlags (c := false) ha hb hi

theorem subtractsInto_of_sbbOp (hi : exec i s = .next (s.rmPutFlags w rm (sbbOp w a b s.flags))) :
    subtractsInto i s w rm a b s.flags.cf.toNat := subtractsInto_of_rmPutFlags ha hb hi

theorem compares_of_setFlags
    (hi : exec i s = .next (s.setFlags (subFlags w a b false s.flags).2)) : compares i s w a b :=
  ⟨_, _, hi, differenceResult_subFlags ha hb false _, differenceBorrow_subFlags w a b false _,
    subFlags_sameControl w a b false _, rfl⟩

end

/-! ## ADD, ADC, SUB and SBB (R382 to R387, R390 to R395) -/

/-- Settles O22: each form writes one operand with Add of the two, the carry in being 0 or CF. -/
theorem additions : Obligations.Additions := by
  intro s
  refine ⟨fun w rm reg h => ?_, fun w rm reg h => ?_, fun rm imm h => ?_, fun imm => ?_⟩
  · have ha := s.rmValue_lt w rm
    have hb := s.getReg_lt w reg
    exact ⟨addsInto_of_addOp ha hb (State.finish_binRmReg_of_write _ reg h),
      addsInto_of_adcOp ha hb (State.finish_binRmReg_of_write _ reg h)⟩
  · have ha := s.getReg_lt w reg
    have hb := s.rmValue_lt w rm
    exact ⟨addsInto_of_addOp ha hb (State.finish_binRmReg_of_read _ reg h),
      addsInto_of_adcOp ha hb (State.finish_binRmReg_of_read _ reg h)⟩
  · have ha := s.rmValue_lt imm.width rm
    exact ⟨addsInto_of_addOp ha imm.value_lt (State.finish_binRmImm_of _ imm.value h),
      addsInto_of_adcOp ha imm.value_lt (State.finish_binRmImm_of _ imm.value h)⟩
  · have ha := s.getReg_lt imm.width 0#3
    exact ⟨addsInto_of_addOp ha imm.value_lt rfl, addsInto_of_adcOp ha imm.value_lt rfl⟩

/-- Settles O23: each form writes one operand with Sub of the two, the borrow in being 0 or CF. -/
theorem subtractions : Obligations.Subtractions := by
  intro s
  refine ⟨fun w rm reg h => ?_, fun w rm reg h => ?_, fun rm imm h => ?_, fun imm => ?_⟩
  · have ha := s.rmValue_lt w rm
    have hb := s.getReg_lt w reg
    exact ⟨subtractsInto_of_subOp ha hb (State.finish_binRmReg_of_write _ reg h),
      subtractsInto_of_sbbOp ha hb (State.finish_binRmReg_of_write _ reg h)⟩
  · have ha := s.getReg_lt w reg
    have hb := s.rmValue_lt w rm
    exact ⟨subtractsInto_of_subOp ha hb (State.finish_binRmReg_of_read _ reg h),
      subtractsInto_of_sbbOp ha hb (State.finish_binRmReg_of_read _ reg h)⟩
  · have ha := s.rmValue_lt imm.width rm
    exact ⟨subtractsInto_of_subOp ha imm.value_lt (State.finish_binRmImm_of _ imm.value h),
      subtractsInto_of_sbbOp ha imm.value_lt (State.finish_binRmImm_of _ imm.value h)⟩
  · have ha := s.getReg_lt imm.width 0#3
    exact ⟨subtractsInto_of_subOp ha imm.value_lt rfl, subtractsInto_of_sbbOp ha imm.value_lt rfl⟩

/-! ## CMP and NEG (R398 to R402) -/

/-- Settles O24: CMP writes the flags of Sub alone, NEG its operand with Sub of 0 and it. -/
theorem comparisonsAndNegation : Obligations.ComparisonsAndNegation := by
  intro s
  refine ⟨fun w rm reg h => ⟨?_, ?_⟩, fun rm imm h => ?_, fun imm => ?_, fun w rm h => ?_⟩
  · exact compares_of_setFlags (s.rmValue_lt w rm) (s.getReg_lt w reg)
      (State.finish_flagsRM_of _ h)
  · exact compares_of_setFlags (s.getReg_lt w reg) (s.rmValue_lt w rm)
      (State.finish_flagsRM_of _ h)
  · exact compares_of_setFlags (s.rmValue_lt imm.width rm) imm.value_lt
      (State.finish_flagsRM_of _ h)
  · exact compares_of_setFlags (s.getReg_lt imm.width 0#3) imm.value_lt rfl
  · exact subtractsInto_of_rmPutFlags (c := false) (Nat.two_pow_pos _) (s.rmValue_lt w rm)
      (State.finish_modifyRM_of (negFlags w) h)

/-! ## INC and DEC (R388, R389, R396, R397) -/

theorem one_lt_two_pow_bits (w : Width) : (1#16).toNat < 2 ^ w.bits := by cases w <;> decide

/-- INC is Add of 1 but for CF. -/
theorem sumResult_incFlags {w : Width} {a : Word} (h : a.toNat < 2 ^ w.bits) (f : Flags) :
    sumResult w a 1#16 0 (incFlags w a f).1 (incFlags w a f).2 :=
  sumResult_addFlags h (one_lt_two_pow_bits w) false f

/-- DEC is Sub of 1 but for CF. -/
theorem differenceResult_decFlags {w : Width} {a : Word} (h : a.toNat < 2 ^ w.bits) (f : Flags) :
    differenceResult w a 1#16 0 (decFlags w a f).1 (decFlags w a f).2 :=
  differenceResult_subFlags h (one_lt_two_pow_bits w) false f

theorem exec_inc {s : State} {i : Instr} {w : Width} {dst : RM}
    (h : (i = .incRm w dst ∧ s.rmReady .write w dst = true) ∨
      (∃ reg, i = .incReg reg ∧ w = .word ∧ dst = .reg reg)) :
    exec i s = .next (s.rmPutFlags w dst (incFlags w (s.rmValue w dst) s.flags)) := by
  obtain ⟨rfl, hready⟩ | ⟨reg, rfl, rfl, rfl⟩ := h
  · exact State.finish_modifyRM_of (incFlags w) hready
  · rfl

theorem exec_dec {s : State} {i : Instr} {w : Width} {dst : RM}
    (h : (i = .decRm w dst ∧ s.rmReady .write w dst = true) ∨
      (∃ reg, i = .decReg reg ∧ w = .word ∧ dst = .reg reg)) :
    exec i s = .next (s.rmPutFlags w dst (decFlags w (s.rmValue w dst) s.flags)) := by
  obtain ⟨rfl, hready⟩ | ⟨reg, rfl, rfl, rfl⟩ := h
  · exact State.finish_modifyRM_of (decFlags w) hready
  · rfl

/-- Settles O25: each form writes one operand with Add or Sub of 1 and the flags but CF. -/
theorem incrementsAndDecrements : Obligations.IncrementsAndDecrements := by
  refine fun s => ⟨fun i w dst h => ?_, fun i w dst h => ?_⟩
  · exact ⟨_, _, exec_inc h, s.placed_rmPutFlags w dst (addFlags_lt w _ _ false s.flags),
      sumResult_incFlags (s.rmValue_lt w dst) _, rfl, ⟨rfl, rfl, rfl, rfl, rfl⟩,
      s.sameElse_rmPutFlags w dst _⟩
  · exact ⟨_, _, exec_dec h, s.placed_rmPutFlags w dst (subFlags_lt w _ _ false s.flags),
      differenceResult_decFlags (s.rmValue_lt w dst) _, rfl, ⟨rfl, rfl, rfl, rfl, rfl⟩,
      s.sameElse_rmPutFlags w dst _⟩

end Sys2Proof.Machine
end

section
/-! PROOFS. MUL, IMUL, DIV and IDIV. -/

namespace Sys2Proof.Machine

/-! ## Registers after a result is written (R32) -/

theorem Regs.onlyWord_set (r : Regs) (n : Reg16) (v : Word) : r.onlyWord (r.set n v) n v :=
  ⟨r.get_set_same n v, fun m hm => by rw [Regs.get_set, if_neg hm]⟩

theorem State.onlyWord_setAx (s : State) (v : Word) : s.regs.onlyWord (s.setAx v).regs .ax v :=
  s.regs.onlyWord_set .ax v

theorem State.onlyWord_setDx (s : State) (v : Word) : s.regs.onlyWord (s.setDx v).regs .dx v :=
  s.regs.onlyWord_set .dx v

theorem State.get_setDxAx (s : State) (hi lo : Word) {r : Reg16} (hax : r ≠ .ax) (hdx : r ≠ .dx) :
    (s.setDxAx hi lo).regs.get r = s.regs.get r :=
  (((s.setAx lo).onlyWord_setDx hi).2 r hdx).trans ((s.onlyWord_setAx lo).2 r hax)

/-- Where only general registers and FLAGS were written, memory is the same. -/
theorem State.sameMemory_regsFlags (s : State) (r : Regs) (f : Flags) :
    s.sameMemory { s with regs := r, flags := f } := ⟨fun _ => rfl, rfl, rfl, rfl⟩

theorem State.getReg_al (s : State) : s.getReg .byte 0#3 = zext16 (loByte s.regs.ax) := rfl

theorem State.getReg_ah (s : State) : s.getReg .byte 4#3 = zext16 (hiByte s.regs.ax) := rfl

theorem toNat_zext16 (b : Byte) : (zext16 b).toNat = b.toNat := by
  simp only [zext16, BitVec.toNat_setWidth]
  omega

theorem toNat_loByte (v : Word) : (loByte v).toNat = v.toNat % 256 := BitVec.toNat_setWidth ..

theorem toNat_and_byte (v : Word) : (v &&& 0x00FF#16).toNat = v.toNat % 256 := by
  rw [← zext16_loByte_eq_and, toNat_zext16, toNat_loByte]

/-! ## Products (R407 to R409) -/

theorem mulFlags_sameControl (high : Bool) (f : Flags) (n : Nat) :
    f.sameControl (mulFlags high f n) := ⟨rfl, rfl, rfl, rfl, rfl⟩

/-- A word that an integer of the signed range was written to denotes it. -/
theorem signedValue_ofInt {n : Int} (hlo : -0x8000 ≤ n) (hhi : n < 0x8000) :
    signedValue .word (BitVec.ofInt 16 n) = n :=
  (signedValue_eq_iff (toNat_ofInt_word n)).2 ((fitsSigned_iff .word n).2 ⟨hlo, hhi⟩)

theorem signedValue_mul_bounds {w : Width} {a b : Word} (ha : a.toNat < 2 ^ w.bits)
    (hb : b.toNat < 2 ^ w.bits) :
    |signedValue w a * signedValue w b| ≤ 2 ^ (w.bits - 1) * 2 ^ (w.bits - 1) := by
  obtain ⟨halo, hahi⟩ := signedValue_bounds ha
  obtain ⟨hblo, hbhi⟩ := signedValue_bounds hb
  rw [abs_mul]
  exact mul_le_mul (abs_le.2 ⟨halo, hahi.le⟩) (abs_le.2 ⟨hblo, hbhi.le⟩) (abs_nonneg _)
    (by positivity)

section
variable {s : State} {w : Width} {rm : RM}

theorem exec_mul_of (h : s.rmReady .read w rm = true) :
    exec (.mul w rm) s = .next (s.mulResult w (s.rmValue w rm)) := State.finish_readRM_of _ h

theorem exec_imulRm_of (h : s.rmReady .read w rm = true) :
    exec (.imulRm w rm) s = .next (s.imulResult w (s.rmValue w rm)) := State.finish_readRM_of _ h

/-- The state IMUL reg, r/m, immediate leaves for a product p. -/
def State.imulImmResult (s : State) (reg : RegNum) (p : Int) : State :=
  (s.setReg .word reg (BitVec.ofInt 16 p)).setFlags
    (mulFlags (!fitsSigned .word p) s.flags s.draws)

theorem exec_imulImm_of (reg : RegNum) (imm : SImm) (h : s.rmReady .read .word rm = true) :
    exec (.imulImm reg rm imm) s = .next (s.imulImmResult reg
      (signedValue .word (s.rmValue .word rm) * signedValue .word imm.value)) := by
  rw [← signed_eq_signedValue (s.rmValue .word rm).isLt, ← signed_eq_signedValue imm.value.isLt]
  exact State.finish_readRM_of _ h

end

section
variable (s : State) (v : Word)

theorem State.mulResult_byte_spec (hv : v.toNat < 256) :
    let t := s.mulResult .byte v
    t.regs.ax.toNat = (s.getReg .byte 0#3).toNat * v.toNat ∧
      (t.flags.cf = true ↔ 0x100 ≤ t.regs.ax.toNat) := by
  have hlt : (loByte s.regs.ax).toNat * v.toNat < 256 * 256 :=
    Nat.mul_lt_mul'' (loByte s.regs.ax).isLt hv
  have hax : (s.mulResult .byte v).regs.ax.toNat = (loByte s.regs.ax).toNat * v.toNat :=
    Nat.mod_eq_of_lt hlt
  intro t
  rw [hax, s.getReg_al, toNat_zext16]
  exact ⟨rfl, decide_eq_true_iff⟩

theorem State.mulResult_word_spec :
    let t := s.mulResult .word v
    t.regs.dx.toNat * 0x10000 + t.regs.ax.toNat = s.regs.ax.toNat * v.toNat ∧
      (t.flags.cf = true ↔ t.regs.dx ≠ 0#16) := by
  have hlt : s.regs.ax.toNat * v.toNat < 0x10000 * 0x10000 :=
    Nat.mul_lt_mul'' s.regs.ax.isLt v.isLt
  have hdx : (s.mulResult .word v).regs.dx.toNat = s.regs.ax.toNat * v.toNat / 0x10000 :=
    Nat.mod_eq_of_lt (Nat.div_lt_of_lt_mul hlt)
  have hax : (s.mulResult .word v).regs.ax.toNat = s.regs.ax.toNat * v.toNat % 0x10000 := rfl
  have hcf : (s.mulResult .word v).flags.cf = true ↔ 0x10000 ≤ s.regs.ax.toNat * v.toNat :=
    decide_eq_true_iff
  intro t
  rw [hcf, ← BitVec.toNat_ne_iff_ne, hdx, hax, BitVec.toNat_zero]
  omega

theorem State.imulResult_byte_spec (hv : v.toNat < 256) :
    let t := s.imulResult .byte v
    signedValue .word t.regs.ax = signedValue .byte (s.getReg .byte 0#3) * signedValue .byte v ∧
      (t.flags.cf = true ↔
        signedValue .word t.regs.ax ≠ signedValue .byte (t.regs.ax &&& 0x00FF#16)) := by
  have hal := s.getReg_lt .byte 0#3
  have hbounds := abs_le.1 (signedValue_mul_bounds hal hv)
  intro t
  have ht : t = s.imulResult .byte v := rfl
  simp only [State.imulResult, State.acc, signed_eq_signedValue hal,
    signed_eq_signedValue (w := .byte) hv] at ht
  generalize signedValue .byte (s.getReg .byte 0#3) * signedValue .byte v = p at *
  have hax : t.regs.ax = BitVec.ofInt 16 p := by rw [ht]; rfl
  have hcf : t.flags.cf = !fitsSigned .byte p := by rw [ht]; rfl
  have hlow : ((t.regs.ax &&& 0x00FF#16).toNat : Int) = p % 2 ^ Width.byte.bits := by
    rw [toNat_and_byte, hax, Int.natCast_mod, toNat_ofInt_word]
    simp only [Width.bits]
    omega
  obtain ⟨hlo, hhi⟩ := hbounds
  have hvalue : signedValue .word t.regs.ax = p := by
    rw [hax]
    simp only [Width.bits] at hlo hhi
    exact signedValue_ofInt (by omega) (by omega)
  exact ⟨hvalue, by rw [hcf, not_fitsSigned_iff hlow, hvalue, ne_comm]⟩

theorem State.imulResult_word_spec :
    let t := s.imulResult .word v
    signedValue .word t.regs.dx * 0x10000 + t.regs.ax.toNat =
        signedValue .word s.regs.ax * signedValue .word v ∧
      (t.flags.cf = true ↔
        signedValue .word t.regs.dx * 0x10000 + t.regs.ax.toNat ≠ signedValue .word t.regs.ax) := by
  have hbounds := abs_le.1 (signedValue_mul_bounds (w := .word) s.regs.ax.isLt v.isLt)
  intro t
  have ht : t = s.imulResult .word v := rfl
  simp only [State.imulResult, signed_eq_signedValue (w := .word) s.regs.ax.isLt,
    signed_eq_signedValue (w := .word) v.isLt] at ht
  generalize signedValue .word s.regs.ax * signedValue .word v = p at *
  have hdx : t.regs.dx = BitVec.ofInt 16 (p / 0x10000) := by rw [ht]; rfl
  have hax : (t.regs.ax.toNat : Int) = p % 2 ^ Width.word.bits := by
    rw [ht]; exact toNat_ofInt_word p
  have hcf : t.flags.cf = !fitsSigned .word p := by rw [ht]; rfl
  obtain ⟨hlo, hhi⟩ := hbounds
  have hvalue : signedValue .word t.regs.dx * 0x10000 + t.regs.ax.toNat = p := by
    simp only [Width.bits] at hlo hhi
    rw [hdx, hax, signedValue_ofInt (by omega) (by omega)]
    exact Int.ediv_mul_add_emod p _
  exact ⟨hvalue, by rw [hcf, not_fitsSigned_iff hax, hvalue, ne_comm]⟩

/-- The low word of a product, and whether it denotes the product. -/
theorem State.imulImmResult_spec (reg : RegNum) (p : Int) :
    let t := s.imulImmResult reg p
    s.onlyReg t .word reg (BitVec.ofInt 16 p) ∧
      (t.flags.cf = true ↔ signedValue .word (t.getReg .word reg) ≠ p) := by
  intro t
  have honly : s.onlyReg t .word reg (BitVec.ofInt 16 p) :=
    s.onlyReg_setReg .word reg (BitVec.ofInt 16 p).isLt
  refine ⟨honly, ?_⟩
  rw [honly.1]
  exact not_fitsSigned_iff (toNat_ofInt_word p)

end

/-- Settles O26: each form writes the product (`State.mulResult_byte_spec` and its like) and changes no
register but those it is in. -/
theorem multiplications : Obligations.Multiplications := by
  refine fun s => ⟨fun rm h => ?_, fun rm h => ?_, fun rm h => ?_, fun rm h => ?_,
    fun reg rm imm h => ?_⟩
  · obtain ⟨hax, hcf⟩ := s.mulResult_byte_spec _ (s.rmValue_lt .byte rm)
    exact ⟨_, exec_mul_of h, hax, hcf, rfl, s.onlyWord_setAx _, mulFlags_sameControl _ _ _, rfl,
      s.sameMemory_regsFlags _ _⟩
  · obtain ⟨hproduct, hcf⟩ := s.mulResult_word_spec (s.rmValue .word rm)
    exact ⟨_, exec_mul_of h, hproduct, hcf, rfl, fun _ => s.get_setDxAx _ _,
      mulFlags_sameControl _ _ _, rfl, s.sameMemory_regsFlags _ _⟩
  · obtain ⟨hax, hcf⟩ := s.imulResult_byte_spec _ (s.rmValue_lt .byte rm)
    exact ⟨_, exec_imulRm_of h, hax, hcf, rfl, s.onlyWord_setAx _, mulFlags_sameControl _ _ _, rfl,
      s.sameMemory_regsFlags _ _⟩
  · obtain ⟨hproduct, hcf⟩ := s.imulResult_word_spec (s.rmValue .word rm)
    exact ⟨_, exec_imulRm_of h, hproduct, hcf, rfl, fun _ => s.get_setDxAx _ _,
      mulFlags_sameControl _ _ _, rfl, s.sameMemory_regsFlags _ _⟩
  · obtain ⟨honly, hcf⟩ := s.imulImmResult_spec reg
      (signedValue .word (s.rmValue .word rm) * signedValue .word imm.value)
    exact ⟨_, exec_imulImm_of reg imm h, honly, hcf, rfl, mulFlags_sameControl _ _ _, rfl,
      s.sameMemory_regsFlags _ _⟩

/-! ## Quotients and remainders (R410, R411) -/

section
variable {s : State} {w : Width} {rm : RM}

theorem exec_div_of (h : s.rmReady .read w rm = true) :
    exec (.div w rm) s = s.finish (s.divResult w (s.rmValue w rm)) := State.finish_readRM_of _ h

theorem exec_idiv_of (h : s.rmReady .read w rm = true) :
    exec (.idiv w rm) s = s.finish (s.idivResult w (s.rmValue w rm)) := State.finish_readRM_of _ h

end

/-- The state a division leaves for a quotient and a remainder. -/
def State.divided (s : State) (w : Width) (q r : Word) : State :=
  (s.putQuotient w q r).setFlags (s.flags.freeAll s.draws)

section
variable (s : State) (w : Width)

theorem State.dividend_eq : s.dividend w =
    if w = .byte then s.regs.ax.toNat else s.regs.dx.toNat * 0x10000 + s.regs.ax.toNat := by
  cases w <;> rfl

theorem State.signedDividend_eq : s.signedDividend w =
    if w = .byte then signedValue .word s.regs.ax
    else signedValue .word s.regs.dx * 0x10000 + s.regs.ax.toNat := by
  cases w with
  | byte => exact signed_eq_signedValue (w := .word) s.regs.ax.isLt
  | word =>
    simp only [State.signedDividend, State.dxAx, reduceCtorEq, if_false, signedValue_word_eq_ite]
    split <;> omega

theorem State.sameControl_divided (q r : Word) : s.flags.sameControl (s.divided w q r).flags :=
  ⟨rfl, rfl, rfl, rfl, rfl⟩

theorem State.sameElse_divided (q r : Word) : s.sameElse (s.divided w q r) := by
  cases w <;> rfl

theorem State.sameMemory_divided (q r : Word) : s.sameMemory (s.divided w q r) := by
  cases w <;> exact s.sameMemory_regsFlags _ _

/-- A byte quotient is in AL and its remainder in AH. -/
theorem State.divided_byte (q r : Word) :
    let t := s.divided .byte q r
    t.getReg .byte 0#3 = zext16 (loByte q) ∧ t.getReg .byte 4#3 = zext16 (loByte r) ∧
      ∀ x, x ≠ .ax → t.regs.get x = s.regs.get x :=
  ⟨congrArg zext16 (loByte_mkWord _ _), congrArg zext16 (hiByte_mkWord _ _),
    (s.onlyWord_setAx _).2⟩

/-- A word quotient is in AX and its remainder in DX. -/
theorem State.divided_word (q r : Word) :
    let t := s.divided .word q r
    t.regs.ax = q ∧ t.regs.dx = r ∧ ∀ x, x ≠ .ax → x ≠ .dx → t.regs.get x = s.regs.get x :=
  ⟨rfl, rfl, fun _ => s.get_setDxAx r q⟩

end

section
variable {s : State} {w : Width} {v : Word}

theorem State.divResult_of (hd : v.toNat ≠ 0) (hfits : s.dividend w < v.toNat * 2 ^ w.bits) :
    s.divResult w v = .ok (s.divided w (BitVec.ofNat 16 (s.dividend w / v.toNat))
      (BitVec.ofNat 16 (s.dividend w % v.toNat))) :=
  if_neg (not_or.2 ⟨hd, (Nat.div_lt_of_lt_mul hfits).not_ge⟩)

theorem State.divResult_raises (h : v.toNat = 0 ∨ v.toNat * 2 ^ w.bits ≤ s.dividend w) :
    s.divResult w v = raise 0 0#16 := by
  refine if_pos (or_iff_not_imp_left.2 fun hd => ?_)
  rw [Nat.le_div_iff_mul_le (Nat.pos_of_ne_zero hd), Nat.mul_comm]
  exact h.resolve_left hd

theorem State.idivResult_of (hd : signedValue w v ≠ 0) (hv : v.toNat < 2 ^ w.bits)
    (hfits : fitsSigned w ((s.signedDividend w).tdiv (signedValue w v)) = true) :
    s.idivResult w v =
      .ok (s.divided w (BitVec.ofInt 16 ((s.signedDividend w).tdiv (signedValue w v)))
        (BitVec.ofInt 16 ((s.signedDividend w).tmod (signedValue w v)))) := by
  rw [← signed_eq_signedValue hv] at *
  exact if_neg (by simp only [hd, hfits, Bool.not_true, Bool.false_eq_true, or_self,
    not_false_eq_true])

theorem State.idivResult_raises (hv : v.toNat < 2 ^ w.bits)
    (h : signedValue w v = 0 ∨ fitsSigned w ((s.signedDividend w).tdiv (signedValue w v)) = false) :
    s.idivResult w v = raise 0 0#16 := by
  rw [← signed_eq_signedValue hv] at h
  exact if_pos (h.imp_right (Bool.not_eq_true' _ ▸ ·))

end

theorem toNat_zext16_loByte_ofNat {n : Nat} (h : n < 256) :
    (zext16 (loByte (BitVec.ofNat 16 n))).toNat = n := by
  rw [toNat_zext16, toNat_loByte, BitVec.toNat_ofNat]
  omega

theorem signedValue_zext16_loByte_ofInt {n : Int} (h : fitsSigned .byte n = true) :
    signedValue .byte (zext16 (loByte (BitVec.ofInt 16 n))) = n := by
  refine (signedValue_eq_iff ?_).2 h
  rw [toNat_zext16, toNat_loByte, Int.natCast_mod, toNat_ofInt_word]
  simp only [Width.bits]
  omega

/-- The remainder has the sign of the dividend. -/
theorem mul_tmod_nonneg (n d : Int) : 0 ≤ n * n.tmod d := by
  obtain hn | hn := le_total 0 n
  · exact mul_nonneg hn (Int.tmod_nonneg d hn)
  · have hneg : 0 ≤ (-n).tmod d := Int.tmod_nonneg d (by omega)
    rw [Int.neg_tmod] at hneg
    exact mul_nonneg_of_nonpos_of_nonpos hn (by omega)

theorem natAbs_tmod_lt (n : Int) {d : Int} (hd : d ≠ 0) : (n.tmod d).natAbs < d.natAbs := by
  rw [Int.natAbs_tmod]
  exact Nat.mod_lt _ (Int.natAbs_pos.2 hd)

/-- A remainder fits the width of its divisor. -/
theorem fitsSigned_tmod {w : Width} {v : Word} (hv : v.toNat < 2 ^ w.bits) (n : Int)
    (hd : signedValue w v ≠ 0) : fitsSigned w (n.tmod (signedValue w v)) = true := by
  obtain ⟨hlo, hhi⟩ := signedValue_bounds hv
  have hlt := natAbs_tmod_lt n hd
  rw [fitsSigned_iff]
  omega

/-- DIV where the quotient fits: quotient and remainder are those of the numbers. -/
theorem State.divided_nat (s : State) {w : Width} {q r : Nat} (hq : q < 2 ^ w.bits)
    (hr : r < 2 ^ w.bits) :
    let t := s.divided w (BitVec.ofNat 16 q) (BitVec.ofNat 16 r)
    (w = .byte → (t.getReg .byte 0#3).toNat = q ∧ (t.getReg .byte 4#3).toNat = r ∧
      ∀ x, x ≠ .ax → t.regs.get x = s.regs.get x) ∧
    (w = .word → t.regs.ax.toNat = q ∧ t.regs.dx.toNat = r ∧
      ∀ x, x ≠ .ax → x ≠ .dx → t.regs.get x = s.regs.get x) := by
  refine ⟨?_, ?_⟩ <;> rintro rfl
  · obtain ⟨hal, hah, hothers⟩ := s.divided_byte (BitVec.ofNat 16 q) (BitVec.ofNat 16 r)
    rw [hal, hah]
    exact ⟨toNat_zext16_loByte_ofNat hq, toNat_zext16_loByte_ofNat hr, hothers⟩
  · obtain ⟨hax, hdx, hothers⟩ := s.divided_word (BitVec.ofNat 16 q) (BitVec.ofNat 16 r)
    rw [hax, hdx]
    exact ⟨Nat.mod_eq_of_lt hq, Nat.mod_eq_of_lt hr, hothers⟩

/-- IDIV where the quotient fits: quotient and remainder are those of the integers. -/
theorem State.divided_int (s : State) {w : Width} {q r : Int} (hq : fitsSigned w q = true)
    (hr : fitsSigned w r = true) :
    let t := s.divided w (BitVec.ofInt 16 q) (BitVec.ofInt 16 r)
    (w = .byte → signedValue .byte (t.getReg .byte 0#3) = q ∧
      signedValue .byte (t.getReg .byte 4#3) = r ∧
      ∀ x, x ≠ .ax → t.regs.get x = s.regs.get x) ∧
    (w = .word → signedValue .word t.regs.ax = q ∧ signedValue .word t.regs.dx = r ∧
      ∀ x, x ≠ .ax → x ≠ .dx → t.regs.get x = s.regs.get x) := by
  refine ⟨?_, ?_⟩ <;> rintro rfl
  · obtain ⟨hal, hah, hothers⟩ := s.divided_byte (BitVec.ofInt 16 q) (BitVec.ofInt 16 r)
    rw [hal, hah]
    exact ⟨signedValue_zext16_loByte_ofInt hq, signedValue_zext16_loByte_ofInt hr, hothers⟩
  · obtain ⟨hax, hdx, hothers⟩ := s.divided_word (BitVec.ofInt 16 q) (BitVec.ofInt 16 r)
    rw [hax, hdx]
    exact ⟨(signedValue_eq_iff (toNat_ofInt_word q)).2 hq,
      (signedValue_eq_iff (toNat_ofInt_word r)).2 hr, hothers⟩

/-- Settles O27: where the quotient fits, it and the remainder are written (`State.divided_nat`,
`State.divided_int`), else the operation raises exception 0. -/
theorem divisions : Obligations.Divisions := by
  refine ⟨fun s w rm h => ?_, fun s w rm h => ?_⟩
  · have hv := s.rmValue_lt w rm
    rw [← s.dividend_eq w, exec_div_of h]
    intro n d
    refine ⟨fun hd hfits => ?_, fun hraises => ?_⟩
    · obtain ⟨hbyte, hword⟩ := s.divided_nat (q := n / d) (r := n % d)
        (Nat.div_lt_of_lt_mul hfits) ((Nat.mod_lt n (Nat.pos_of_ne_zero hd)).trans hv)
      exact ⟨_, n / d, n % d, congrArg s.finish (State.divResult_of hd hfits),
        (Nat.div_add_mod n d).symm, Nat.mod_lt n (Nat.pos_of_ne_zero hd), hbyte, hword,
        s.sameControl_divided w _ _, s.sameElse_divided w _ _, s.sameMemory_divided w _ _⟩
    · rw [State.divResult_raises hraises, State.finish_raise]
  · have hv := s.rmValue_lt w rm
    rw [← s.signedDividend_eq w, exec_idiv_of h]
    intro n d
    refine ⟨fun hd hlo hhi => ?_, fun hraises => ?_⟩
    · have hfits := (fitsSigned_iff w (n.tdiv d)).2 ⟨hlo, hhi⟩
      obtain ⟨hbyte, hword⟩ := s.divided_int hfits (fitsSigned_tmod hv n hd)
      exact ⟨_, n.tdiv d, n.tmod d, congrArg s.finish (State.idivResult_of hd hv hfits),
        (Int.mul_tdiv_add_tmod n d).symm, natAbs_tmod_lt n hd, mul_tmod_nonneg n d, hbyte, hword,
        s.sameControl_divided w _ _, s.sameElse_divided w _ _, s.sameMemory_divided w _ _⟩
    · have hunfit : d = 0 ∨ fitsSigned w (n.tdiv d) = false := hraises.imp_right fun hout => by
        rw [← Bool.not_eq_true, fitsSigned_iff]
        omega
      rw [State.idivResult_raises hv hunfit, State.finish_raise]

end Sys2Proof.Machine
end

section
/-! PROOFS. AAA, AAS, DAA, DAS, AAM, AAD, CBW and CWD. -/

namespace Sys2Proof.Machine

/-! ## AX written from two bytes -/

section
variable (s : State)

theorem State.getReg_al_setAxFlags (l h : Byte) (f : Flags) :
    (s.setAxFlags (mkWord l h, f)).getReg .byte 0#3 = zext16 l :=
  congrArg zext16 (loByte_mkWord l h)

theorem State.getReg_ah_setAxFlags (l h : Byte) (f : Flags) :
    (s.setAxFlags (mkWord l h, f)).getReg .byte 4#3 = zext16 h :=
  congrArg zext16 (hiByte_mkWord l h)

end

/-! ## AAA and AAS (R403, R405) -/

theorem toNat_and_low4 (b : Byte) : (b &&& 0x0F#8).toNat = b.toNat % 16 := by
  rw [BitVec.toNat_and]
  exact Nat.and_two_pow_sub_one_eq_mod b.toNat 4

theorem adjustLow_iff (al : Byte) (f : Flags) :
    adjustLow al f = true ↔ 9 < al.toNat % 16 ∨ f.af = true := by
  rw [adjustLow, Bool.or_eq_true, decide_eq_true_iff]

theorem adjustHigh_iff (al : Byte) (f : Flags) :
    (decide (0x99 < al.toNat) || f.cf) = true ↔ 0x99 < al.toNat ∨ f.cf = true := by
  rw [Bool.or_eq_true, decide_eq_true_iff]

theorem aaaFlags_sameControl (ax : Word) (f : Flags) (n : Nat) :
    f.sameControl (aaaFlags ax f n).2 := by
  unfold aaaFlags
  dsimp only
  split <;> exact ⟨rfl, rfl, rfl, rfl, rfl⟩

theorem aasFlags_sameControl (ax : Word) (f : Flags) (n : Nat) :
    f.sameControl (aasFlags ax f n).2 := by
  unfold aasFlags
  dsimp only
  split <;> exact ⟨rfl, rfl, rfl, rfl, rfl⟩

/-- What AAA and AAS move AH by: 1, or where AL carries a draw of 1 and 2. -/
def ahStep (carries : Bool) (n : Nat) : Byte :=
  if carries && Config.freeBit n .ahCarry then 2#8 else 1#8

theorem ahStep_cases (carries : Bool) (n : Nat) :
    ahStep carries n = 1#8 ∨ carries = true ∧ ahStep carries n = 2#8 := by
  unfold ahStep
  cases carries <;> cases Config.freeBit n .ahCarry <;> decide

/-- AX and FLAGS after AAA or AAS where the adjustment is not taken. -/
def asciiKept (ax : Word) (f : Flags) (n : Nat) : Word × Flags :=
  (mkWord (loByte ax &&& 0x0F#8) (hiByte ax), asciiFlags false f n)

theorem aaaFlags_of_taken {ax : Word} {f : Flags} (h : adjustLow (loByte ax) f = true) (n : Nat) :
    aaaFlags ax f n = (mkWord ((loByte ax + 6#8) &&& 0x0F#8)
      (hiByte ax + ahStep (decide (0xFA ≤ (loByte ax).toNat)) n), asciiFlags true f n) := if_pos h

theorem aasFlags_of_taken {ax : Word} {f : Flags} (h : adjustLow (loByte ax) f = true) (n : Nat) :
    aasFlags ax f n = (mkWord ((loByte ax - 6#8) &&& 0x0F#8)
      (hiByte ax - ahStep (decide ((loByte ax).toNat < 6)) n), asciiFlags true f n) := if_pos h

theorem aaaFlags_of_not_taken {ax : Word} {f : Flags} (h : adjustLow (loByte ax) f ≠ true)
    (n : Nat) : aaaFlags ax f n = asciiKept ax f n := if_neg h

theorem aasFlags_of_not_taken {ax : Word} {f : Flags} (h : adjustLow (loByte ax) f ≠ true)
    (n : Nat) : aasFlags ax f n = asciiKept ax f n := if_neg h

section
variable (s : State)

/-- Without the adjustment AL loses its high four bits, and AF and CF are 0. -/
theorem State.setAxFlags_asciiKept :
    let t := s.setAxFlags (asciiKept s.regs.ax s.flags s.draws)
    (t.getReg .byte 0#3).toNat = (loByte s.regs.ax).toNat % 16 ∧
      (t.getReg .byte 4#3).toNat = (hiByte s.regs.ax).toNat ∧
      t.flags.af = false ∧ t.flags.cf = false := by
  simp only [asciiKept, State.getReg_al_setAxFlags, State.getReg_ah_setAxFlags, toNat_zext16,
    toNat_and_low4, true_and]
  exact ⟨rfl, rfl⟩

theorem State.setAxFlags_aaa_taken (h : adjustLow (loByte s.regs.ax) s.flags = true) :
    let t := s.setAxFlags (aaaFlags s.regs.ax s.flags s.draws)
    let al := (loByte s.regs.ax).toNat
    let ah := (hiByte s.regs.ax).toNat
    (t.getReg .byte 0#3).toNat = (al + 6) % 16 ∧
      ((t.getReg .byte 4#3).toNat = (ah + 1) % 256 ∨
        (0xFA ≤ al ∧ (t.getReg .byte 4#3).toNat = (ah + 2) % 256)) ∧
      t.flags.af = true ∧ t.flags.cf = true := by
  simp only [aaaFlags_of_taken h, State.getReg_al_setAxFlags, State.getReg_ah_setAxFlags,
    toNat_zext16, toNat_and_low4, BitVec.toNat_add]
  refine ⟨Nat.mod_mod_of_dvd _ (by decide), ?_, rfl, rfl⟩
  obtain hstep | ⟨hcarries, hstep⟩ :=
    ahStep_cases (decide (0xFA ≤ (loByte s.regs.ax).toNat)) s.draws <;> rw [hstep]
  · exact Or.inl rfl
  · exact Or.inr ⟨of_decide_eq_true hcarries, rfl⟩

theorem State.setAxFlags_aas_taken (h : adjustLow (loByte s.regs.ax) s.flags = true) :
    let t := s.setAxFlags (aasFlags s.regs.ax s.flags s.draws)
    let al := (loByte s.regs.ax).toNat
    let ah := (hiByte s.regs.ax).toNat
    (t.getReg .byte 0#3).toNat = (al + 250) % 16 ∧
      ((t.getReg .byte 4#3).toNat = (ah + 255) % 256 ∨
        (al < 6 ∧ (t.getReg .byte 4#3).toNat = (ah + 254) % 256)) ∧
      t.flags.af = true ∧ t.flags.cf = true := by
  simp only [aasFlags_of_taken h, State.getReg_al_setAxFlags, State.getReg_ah_setAxFlags,
    toNat_zext16, toNat_and_low4, BitVec.sub_eq_add_neg, BitVec.toNat_add]
  refine ⟨Nat.mod_mod_of_dvd _ (by decide), ?_, rfl, rfl⟩
  obtain hstep | ⟨hcarries, hstep⟩ :=
    ahStep_cases (decide ((loByte s.regs.ax).toNat < 6)) s.draws <;> rw [hstep]
  · exact Or.inl rfl
  · exact Or.inr ⟨of_decide_eq_true hcarries, rfl⟩

end

/-! ## DAA and DAS (R404, R406) -/

theorem decimalFlags_sameControl (al : Byte) (low high : Bool) (f : Flags) (n : Nat) :
    f.sameControl (decimalFlags al low high f n) := ⟨rfl, rfl, rfl, rfl, rfl⟩

theorem ofResult_decimalFlags (al : Byte) (low high : Bool) (f : Flags) (n : Nat) :
    (decimalFlags al low high f n).ofResult .byte (zext16 al) := 
  f.ofResult_setSZP (w := .byte) (zext16_lt al)

/-- The correction of one digit, as a number: made or 0. -/
def correction (taken : Bool) (x : Nat) : Nat := if taken then x else 0

theorem correction_of (x : Nat) {p : Prop} {taken : Bool} (h : taken = true ↔ p) :
    (p → correction taken x = x) ∧ (¬p → correction taken x = 0) :=
  ⟨fun hp => if_pos (h.2 hp), fun hp => if_neg fun ht => hp (h.1 ht)⟩

theorem daaFlags_toNat (al : Byte) (f : Flags) (n : Nat) :
    (daaFlags al f n).1.toNat = (al.toNat + 1 * (correction (adjustLow al f) 6 +
      correction (decide (0x99 < al.toNat) || f.cf) 0x60)) % 256 := by
  unfold daaFlags correction
  cases adjustLow al f <;> cases decide (0x99 < al.toNat) || f.cf <;>
    simp only [if_true, Bool.false_eq_true, if_false, BitVec.toNat_add, BitVec.toNat_ofNat] <;>
    omega

theorem dasFlags_toNat (al : Byte) (f : Flags) (n : Nat) :
    (dasFlags al f n).1.toNat = (al.toNat + 255 * (correction (adjustLow al f) 6 +
      correction (decide (0x99 < al.toNat) || f.cf) 0x60)) % 256 := by
  unfold dasFlags correction
  cases adjustLow al f <;> cases decide (0x99 < al.toNat) || f.cf <;>
    simp only [if_true, Bool.false_eq_true, if_false, BitVec.toNat_sub, BitVec.toNat_ofNat] <;>
    omega

section
variable (s : State)

/-- Where AL and FLAGS were written, AL is the only register that changed. -/
theorem State.onlyReg_setAlFlags (r : Byte × Flags) :
    s.onlyReg (s.setAlFlags r) .byte 0#3 (zext16 r.1) :=
  s.onlyReg_setReg .byte 0#3 (zext16_lt r.1)

theorem exec_aaa : exec .aaa s = .next (s.setAxFlags (aaaFlags s.regs.ax s.flags s.draws)) := rfl

theorem exec_aas : exec .aas s = .next (s.setAxFlags (aasFlags s.regs.ax s.flags s.draws)) := rfl

theorem exec_daa :
    exec .daa s = .next (s.setAlFlags (daaFlags (loByte s.regs.ax) s.flags s.draws)) := rfl

theorem exec_das :
    exec .das s = .next (s.setAlFlags (dasFlags (loByte s.regs.ax) s.flags s.draws)) := rfl

end

/-- Settles O28: AAA and AAS by whether the adjustment is taken, DAA and DAS by the correction of
each digit. -/
theorem adjustsAfterAddAndSubtract : Obligations.AdjustsAfterAddAndSubtract := by
  refine ⟨fun s => ?_, fun s => ?_⟩ <;> simp only [s.getReg_al, s.getReg_ah, toNat_zext16]
  · rw [← adjustLow_iff]
    refine ⟨⟨_, exec_aaa s, s.setAxFlags_aaa_taken, fun h => ?_, s.onlyWord_setAx _,
      aaaFlags_sameControl _ _ _, rfl, s.sameMemory_regsFlags _ _⟩,
      _, exec_aas s, s.setAxFlags_aas_taken, fun h => ?_, s.onlyWord_setAx _,
      aasFlags_sameControl _ _ _, rfl, s.sameMemory_regsFlags _ _⟩
    · rw [aaaFlags_of_not_taken h]
      exact s.setAxFlags_asciiKept
    · rw [aasFlags_of_not_taken h]
      exact s.setAxFlags_asciiKept
  · have hlow := adjustLow_iff (loByte s.regs.ax) s.flags
    have hhigh := adjustHigh_iff (loByte s.regs.ax) s.flags
    obtain ⟨hsix, hno6⟩ := correction_of 6 hlow
    obtain ⟨hsixty, hno60⟩ := correction_of 0x60 hhigh
    rintro i k (⟨rfl, rfl⟩ | ⟨rfl, rfl⟩)
    · exact ⟨_, _, exec_daa s, s.onlyReg_setAlFlags _,
        ⟨_, _, hsix, hno6, hsixty, hno60, (toNat_zext16 _).trans (daaFlags_toNat _ _ _)⟩, hlow,
        hhigh, ofResult_decimalFlags _ _ _ _ _, decimalFlags_sameControl _ _ _ _ _, rfl,
        s.sameMemory_regsFlags _ _⟩
    · exact ⟨_, _, exec_das s, s.onlyReg_setAlFlags _,
        ⟨_, _, hsix, hno6, hsixty, hno60, (toNat_zext16 _).trans (dasFlags_toNat _ _ _)⟩, hlow,
        hhigh, ofResult_decimalFlags _ _ _ _ _, decimalFlags_sameControl _ _ _ _ _, rfl,
        s.sameMemory_regsFlags _ _⟩

/-! ## AAM and AAD (R412, R413) -/

section
variable (s : State)

/-- The state AAM and AAD leave for the two bytes of AX. -/
def State.digits (low high : Byte) : State :=
  s.setAxFlags (mkWord low high, aamFlags low s.flags s.draws)

theorem exec_aam : exec .aam s = .next (s.digits (BitVec.ofNat 8 ((loByte s.regs.ax).toNat % 10))
    (BitVec.ofNat 8 ((loByte s.regs.ax).toNat / 10))) := rfl

theorem exec_aad : exec .aad s = .next (s.digits
    (BitVec.ofNat 8 ((hiByte s.regs.ax).toNat * 10 + (loByte s.regs.ax).toNat)) 0#8) := rfl

theorem State.digits_spec (low high : Byte) :
    let t := s.digits low high
    t.getReg .byte 0#3 = zext16 low ∧ t.getReg .byte 4#3 = zext16 high ∧
      t.flags.ofResult .byte (zext16 low) ∧ s.regs.onlyWord t.regs .ax t.regs.ax ∧
      s.flags.sameControl t.flags ∧ s.sameElse t ∧ s.sameMemory t :=
  ⟨s.getReg_al_setAxFlags _ _ _, s.getReg_ah_setAxFlags _ _ _,
    s.flags.ofResult_setSZP (w := .byte) (zext16_lt low), s.onlyWord_setAx _,
    ⟨rfl, rfl, rfl, rfl, rfl⟩, rfl, s.sameMemory_regsFlags _ _⟩

end

/-! ## CBW and CWD (R414, R415) -/

theorem signedValue_word (v : Word) : signedValue .word v = v.toInt := by
  rw [BitVec.toInt_eq_toNat_cond]
  unfold signedValue
  split <;> split <;> simp only [Width.bits] at * <;> omega

theorem signedValue_zext16 (b : Byte) : signedValue .byte (zext16 b) = b.toInt := by
  rw [BitVec.toInt_eq_toNat_cond]
  unfold signedValue
  rw [toNat_zext16]
  split <;> split <;> simp only [Width.bits] at * <;> omega

theorem signedValue_sext16 (b : Byte) :
    signedValue .word (sext16 b) = signedValue .byte (zext16 b) := by
  rw [signedValue_word, signedValue_zext16]
  exact BitVec.toInt_signExtend_of_le (by decide)

/-- The word CWD puts in DX: the sign of AX in every bit. -/
def signWord (v : Word) : Word := if v.getLsbD 15 then 0xFFFF#16 else 0#16

theorem signedValue_signWord (v : Word) :
    signedValue .word (signWord v) * 0x10000 + v.toNat = signedValue .word v := by
  have hsign : signedValue .word (signWord v) = if v.getLsbD 15 then -1 else 0 := by
    unfold signWord
    cases v.getLsbD 15 <;> rfl
  rw [hsign, signedValue_word_eq_ite]
  split <;> omega

theorem exec_cbw (s : State) : exec .cbw s = .next (s.setAx (sext16 (loByte s.regs.ax))) := rfl

theorem exec_cwd (s : State) : exec .cwd s = .next (s.setDx (signWord s.regs.ax)) := rfl

/-- Settles O29: AAM and AAD write two digits (`State.digits_spec`), CBW and CWD the sign. -/
theorem digitSplitsAndSignExtensions : Obligations.DigitSplitsAndSignExtensions := by
  refine ⟨fun s => ?_, fun s => ⟨?_, ?_⟩⟩
  · have hal := (loByte s.regs.ax).isLt
    simp only [s.getReg_al, s.getReg_ah, toNat_zext16]
    refine ⟨⟨_, exec_aam s, ?_⟩, _, exec_aad s, ?_⟩
    · obtain ⟨hlow, hhigh, hrest⟩ := s.digits_spec
        (BitVec.ofNat 8 ((loByte s.regs.ax).toNat % 10))
        (BitVec.ofNat 8 ((loByte s.regs.ax).toNat / 10))
      rw [hlow, hhigh, toNat_zext16, toNat_zext16, BitVec.toNat_ofNat, BitVec.toNat_ofNat]
      exact ⟨by omega, by omega, hrest⟩
    · obtain ⟨hlow, hhigh, hrest⟩ := s.digits_spec
        (BitVec.ofNat 8 ((hiByte s.regs.ax).toNat * 10 + (loByte s.regs.ax).toNat)) 0#8
      rw [hlow, hhigh, toNat_zext16, toNat_zext16]
      exact ⟨BitVec.toNat_ofNat _ _, rfl, hrest⟩
  · refine ⟨_, exec_cbw s, ?_, s.onlyWord_setAx _, rfl⟩
    rw [s.getReg_al]
    exact signedValue_sext16 (loByte s.regs.ax)
  · exact ⟨_, exec_cwd s, signedValue_signWord s.regs.ax, s.onlyWord_setDx _, rfl⟩

end Sys2Proof.Machine
end

section
/-! PROOFS. AND, OR, XOR, TEST and NOT. -/

namespace Sys2Proof.Machine

/-! ## Logic (R439) -/

theorem logicFlags_logical (f : Flags) (n : Nat) {w : Width} {r : Word}
    (h : r.toNat < 2 ^ w.bits) : f.logical (logicFlags w r f n) w r :=
  ⟨rfl, rfl, f.ofResult_setSZP h, rfl, rfl, rfl, rfl, rfl⟩

section
variable {i : Instr} {s : State} {w : Width}

theorem logicInto_of_rmPutFlags {rm : RM} {r : Word} (hr : r.toNat < 2 ^ w.bits)
    (hi : exec i s = .next (s.rmPutFlags w rm (r, logicFlags w r s.flags s.draws))) :
    logicInto i s w rm r :=
  ⟨_, hi, s.placed_rmPutFlags w rm hr, logicFlags_logical s.flags s.draws hr,
    s.sameElse_rmPutFlags w rm _⟩

theorem tests_of_setFlags {r : Word} (hr : r.toNat < 2 ^ w.bits)
    (hi : exec i s = .next (s.setFlags (logicFlags w r s.flags s.draws))) :
    ∃ t, exec i s = .next t ∧ s.flags.logical t.flags w r ∧ t = { s with flags := t.flags } :=
  ⟨_, hi, logicFlags_logical s.flags s.draws hr, rfl⟩

end

/-! ## AND, OR and XOR: the result fits its width (R440, R446, R449) -/

section
variable {i : Instr} {s : State} {w : Width} {rm : RM} {a b : Word} (ha : a.toNat < 2 ^ w.bits)
include ha

theorem toNat_and_lt : (a &&& b).toNat < 2 ^ w.bits := by
  rw [BitVec.toNat_and]
  exact lt_of_le_of_lt Nat.and_le_left ha

theorem logicInto_of_andOp
    (hi : exec i s = .next (s.rmPutFlags w rm (andOp w s.draws a b s.flags))) :
    logicInto i s w rm (a &&& b) := logicInto_of_rmPutFlags (toNat_and_lt ha) hi

variable (hb : b.toNat < 2 ^ w.bits)
include hb

theorem toNat_or_lt : (a ||| b).toNat < 2 ^ w.bits := by
  rw [BitVec.toNat_or]
  exact Nat.or_lt_two_pow ha hb

theorem toNat_xor_lt : (a ^^^ b).toNat < 2 ^ w.bits := by
  rw [BitVec.toNat_xor]
  exact Nat.xor_lt_two_pow ha hb

theorem logicInto_of_orOp
    (hi : exec i s = .next (s.rmPutFlags w rm (orOp w s.draws a b s.flags))) :
    logicInto i s w rm (a ||| b) := logicInto_of_rmPutFlags (toNat_or_lt ha hb) hi

theorem logicInto_of_xorOp
    (hi : exec i s = .next (s.rmPutFlags w rm (xorOp w s.draws a b s.flags))) :
    logicInto i s w rm (a ^^^ b) := logicInto_of_rmPutFlags (toNat_xor_lt ha hb) hi

end

/-! ## TEST and NOT (R443 to R445, R452) -/

theorem maskTo_toNat (w : Width) (v : Word) : (maskTo w v).toNat = v.toNat % 2 ^ w.bits := by
  cases w with
  | byte => exact toNat_and_byte v
  | word => exact (Nat.mod_eq_of_lt v.isLt).symm

theorem toNat_maskTo_not {w : Width} {a : Word} (h : a.toNat < 2 ^ w.bits) :
    (maskTo w (~~~a)).toNat = 2 ^ w.bits - 1 - a.toNat := by
  rw [maskTo_toNat, BitVec.toNat_not]
  cases w <;> simp only [Width.bits] at * <;> omega

theorem exec_not_of {s : State} {w : Width} {rm : RM} (h : s.rmReady .write w rm = true) :
    exec (.not w rm) s = .next (s.rmPutFlags w rm (maskTo w (~~~s.rmValue w rm), s.flags)) :=
  State.finish_modifyRM_of (fun a f => (maskTo w (~~~a), f)) h

/-- Settles O30: the two-operand forms write one operand with Logic of the result, TEST the flags of
the conjunction alone, NOT its operand alone. -/
theorem logicOperations : Obligations.LogicOperations := by
  refine ⟨fun s => ⟨fun w rm reg h => ?_, fun w rm reg h => ?_, fun rm imm h => ?_, fun imm => ?_⟩,
    fun s => ⟨fun i w r hi => ?_, fun w rm h => ?_⟩⟩
  · have ha := s.rmValue_lt w rm
    have hb := s.getReg_lt w reg
    exact ⟨logicInto_of_andOp ha (State.finish_binRmReg_of_write _ reg h),
      logicInto_of_orOp ha hb (State.finish_binRmReg_of_write _ reg h),
      logicInto_of_xorOp ha hb (State.finish_binRmReg_of_write _ reg h)⟩
  · have ha := s.getReg_lt w reg
    have hb := s.rmValue_lt w rm
    exact ⟨logicInto_of_andOp ha (State.finish_binRmReg_of_read _ reg h),
      logicInto_of_orOp ha hb (State.finish_binRmReg_of_read _ reg h),
      logicInto_of_xorOp ha hb (State.finish_binRmReg_of_read _ reg h)⟩
  · have ha := s.rmValue_lt imm.width rm
    exact ⟨logicInto_of_andOp ha (State.finish_binRmImm_of _ imm.value h),
      logicInto_of_orOp ha imm.value_lt (State.finish_binRmImm_of _ imm.value h),
      logicInto_of_xorOp ha imm.value_lt (State.finish_binRmImm_of _ imm.value h)⟩
  · have ha := s.getReg_lt imm.width 0#3
    exact ⟨logicInto_of_andOp ha rfl, logicInto_of_orOp ha imm.value_lt rfl,
      logicInto_of_xorOp ha imm.value_lt rfl⟩
  · obtain ⟨rm, reg, rfl, h, rfl⟩ | ⟨rm, imm, rfl, rfl, h, rfl⟩ | ⟨imm, rfl, rfl, rfl⟩ := hi
    · exact tests_of_setFlags (toNat_and_lt (s.rmValue_lt w rm)) (State.finish_flagsRM_of _ h)
    · exact tests_of_setFlags (toNat_and_lt (s.rmValue_lt _ rm)) (State.finish_flagsRM_of _ h)
    · exact tests_of_setFlags (toNat_and_lt (s.getReg_lt _ 0#3)) rfl
  · have ha := s.rmValue_lt w rm
    exact ⟨_, toNat_maskTo_not ha, _, exec_not_of h, s.placed_rmPutFlags w rm (maskTo_lt w _), rfl,
      s.sameElse_rmPutFlags w rm _⟩

end Sys2Proof.Machine
end

section
/-! PROOFS. One position of a shift or rotate, and its repetition. -/

namespace Sys2Proof.Machine

/-! ## Bits of an operand (R431) -/

theorem two_le_bits (w : Width) : 2 ≤ w.bits := by cases w <;> decide

theorem bits_le_sixteen (w : Width) : w.bits ≤ 16 := by cases w <;> decide

theorem msb_eq_getLsbD (w : Width) (v : Word) : msb w v = v.getLsbD (w.bits - 1) := by
  cases w <;> rfl

theorem msb2_eq_getLsbD (w : Width) (v : Word) : msb2 w v = v.getLsbD (w.bits - 2) := by
  cases w <;> rfl

theorem getLsbD_bits_eq_false {w : Width} {x : Word} (h : x.toNat < 2 ^ w.bits) :
    x.getLsbD w.bits = false := Nat.testBit_lt_two_pow h

theorem maskTo_eq_setWidth (w : Width) (v : Word) :
    maskTo w v = (v.setWidth w.bits).setWidth 16 := by
  cases w with
  | byte => exact (zext16_loByte_eq_and v).symm
  | word => exact ((BitVec.setWidth_eq _).trans (BitVec.setWidth_eq v)).symm

theorem getLsbD_maskTo {w : Width} (v : Word) {i : Nat} (hi : i < w.bits) :
    (maskTo w v).getLsbD i = v.getLsbD i := by
  have hi16 : i < 16 := lt_of_lt_of_le hi (bits_le_sixteen w)
  simp only [maskTo_eq_setWidth, BitVec.getLsbD_setWidth, hi, hi16, decide_true, Bool.true_and]

theorem getLsbD_lowBit (b : Bool) (i : Nat) : (lowBit b).getLsbD i = (decide (i = 0) && b) := by
  cases b <;> simp [lowBit]

theorem topBit_eq_twoPow (w : Width) (b : Bool) :
    topBit w b = if b then BitVec.twoPow 16 (w.bits - 1) else 0#16 := by cases w <;> rfl

theorem getLsbD_topBit {w : Width} (b : Bool) {i : Nat} (hi : i < w.bits) :
    (topBit w b).getLsbD i = (decide (i = w.bits - 1) && b) := by
  have hi16 : i < 16 := lt_of_lt_of_le hi (bits_le_sixteen w)
  have htop : w.bits - 1 < 16 := by have := bits_le_sixteen w; omega
  rw [topBit_eq_twoPow]
  cases b <;> simp [BitVec.getLsbD_twoPow, htop, eq_comm]

theorem toNat_topBit (w : Width) (b : Bool) : (topBit w b).toNat = 2 ^ (w.bits - 1) * b.toNat := by
  cases w <;> cases b <;> rfl

/-! ## One position up or down (R432 to R438) -/

/-- The operand moved up one position, with b as its lowest bit. -/
def shiftedUp (w : Width) (x : Word) (b : Bool) : Word := maskTo w (x <<< 1) ||| lowBit b

/-- The operand moved down one position, with b as its highest bit. -/
def shiftedDown (w : Width) (x : Word) (b : Bool) : Word := (x >>> 1) ||| topBit w b

theorem shiftedUp_false (w : Width) (x : Word) : shiftedUp w x false = maskTo w (x <<< 1) :=
  BitVec.or_zero

theorem shiftedDown_false (w : Width) (x : Word) : shiftedDown w x false = x >>> 1 :=
  BitVec.or_zero

theorem getLsbD_shiftedUp {w : Width} (x : Word) (b : Bool) {i : Nat} (hi : i < w.bits) :
    (shiftedUp w x b).getLsbD i = if i = 0 then b else x.getLsbD (i - 1) := by
  have hi16 : i < 16 := lt_of_lt_of_le hi (bits_le_sixteen w)
  rw [shiftedUp, BitVec.getLsbD_or, getLsbD_maskTo _ hi, BitVec.getLsbD_shiftLeft, getLsbD_lowBit]
  by_cases h0 : i = 0
  · simp [h0]
  · have h1 : ¬i < 1 := by omega
    simp [h0, h1, hi16]

theorem getLsbD_shiftedDown {w : Width} {x : Word} (h : x.toNat < 2 ^ w.bits) (b : Bool) {i : Nat}
    (hi : i < w.bits) :
    (shiftedDown w x b).getLsbD i = if i = w.bits - 1 then b else x.getLsbD (i + 1) := by
  rw [shiftedDown, BitVec.getLsbD_or, BitVec.getLsbD_ushiftRight, getLsbD_topBit b hi,
    Nat.add_comm 1 i]
  by_cases htop : i = w.bits - 1
  · have hout : x.getLsbD (i + 1) = false := by
      rw [show i + 1 = w.bits by omega]
      exact getLsbD_bits_eq_false h
    rw [hout, if_pos htop, decide_eq_true htop, Bool.false_or, Bool.true_and]
  · simp [htop]

theorem shiftedUp_lt (w : Width) (x : Word) (b : Bool) :
    (shiftedUp w x b).toNat < 2 ^ w.bits :=
  toNat_or_lt (maskTo_lt w _) (by cases w <;> cases b <;> decide)

theorem toNat_shiftedUp_false (w : Width) (x : Word) :
    (shiftedUp w x false).toNat = 2 * x.toNat % 2 ^ w.bits := by
  rw [shiftedUp_false, maskTo_toNat, BitVec.toNat_shiftLeft, Nat.shiftLeft_eq]
  cases w <;> simp only [Width.bits] <;> omega

section
variable {w : Width} {x : Word} (h : x.toNat < 2 ^ w.bits)
include h

theorem toNat_shiftedDown (b : Bool) :
    (shiftedDown w x b).toNat = 2 ^ (w.bits - 1) * b.toNat + x.toNat / 2 := by
  have hhalf : x.toNat / 2 < 2 ^ (w.bits - 1) := by
    cases w <;> simp only [Width.bits] at * <;> omega
  rw [shiftedDown, BitVec.toNat_or, BitVec.toNat_ushiftRight, toNat_topBit, Nat.or_comm,
    Nat.shiftRight_eq_div_pow, Nat.two_pow_add_eq_or_of_lt hhalf]

theorem shiftedDown_lt (b : Bool) : (shiftedDown w x b).toNat < 2 ^ w.bits := by
  have hb := b.toNat_le
  rw [toNat_shiftedDown h]
  cases w <;> simp only [Width.bits] at * <;> omega

/-- Half of an operand as an integer, rounded down. -/
theorem signedValue_shiftedDown_msb :
    signedValue w (shiftedDown w x (msb w x)) = signedValue w x / 2 := by
  have hmsb := msb_iff h
  unfold signedValue
  rw [toNat_shiftedDown h]
  cases hx : msb w x with
  | false =>
    have hlow : ¬2 ^ (w.bits - 1) ≤ x.toNat := fun hle => by simp [hmsb.2 hle] at hx
    rw [Bool.toNat_false]
    cases w <;> simp only [Width.bits] at * <;> omega
  | true =>
    have hhigh := hmsb.1 hx
    rw [Bool.toNat_true]
    cases w <;> simp only [Width.bits] at * <;> omega

end

theorem getLsbD_zero_iff (x : Word) : x.getLsbD 0 = true ↔ x.toNat % 2 = 1 := by
  rw [BitVec.getLsbD, Nat.testBit_zero, decide_eq_true_iff]

/-- The lowest bit of an operand is that of the integer it denotes. -/
theorem signedValue_emod_two (w : Width) (x : Word) :
    signedValue w x % 2 = 1 ↔ x.toNat % 2 = 1 := by
  unfold signedValue
  split <;> cases w <;> simp only [Width.bits] at * <;> omega

/-! ## One step, and its repetition (R431) -/

/-- The bit that enters in one step. -/
def shiftIn (op : ShiftOp) (w : Width) (x : Word) (cf : Bool) : Bool :=
  match op with
  | .rol | .sar => msb w x
  | .ror => x.getLsbD 0
  | .rcl | .rcr => cf
  | .shl | .shr => false

/-- The operations that move their operand up. -/
def ShiftOp.isUp : ShiftOp → Bool
  | .rol | .rcl | .shl => true
  | .ror | .rcr | .shr | .sar => false

theorem shiftStep_up {op : ShiftOp} (hop : op.isUp = true) (w : Width) (x : Word) (cf : Bool) :
    shiftStep op w x cf = (shiftedUp w x (shiftIn op w x cf), msb w x) := by
  cases op with
  | rol | rcl => rfl
  | shl => rw [shiftIn, shiftedUp_false]; rfl
  | ror | rcr | shr | sar => cases hop

theorem shiftStep_down {op : ShiftOp} (hop : op.isUp = false) (w : Width) (x : Word) (cf : Bool) :
    shiftStep op w x cf = (shiftedDown w x (shiftIn op w x cf), x.getLsbD 0) := by
  cases op with
  | ror | rcr | sar => rfl
  | shr => rw [shiftIn, shiftedDown_false]; rfl
  | rol | rcl | shl => cases hop

theorem shiftStep_lt (op : ShiftOp) {w : Width} {x : Word} (h : x.toNat < 2 ^ w.bits) (cf : Bool) :
    (shiftStep op w x cf).1.toNat < 2 ^ w.bits := by
  cases hop : op.isUp
  · rw [shiftStep_down hop]
    exact shiftedDown_lt h _
  · rw [shiftStep_up hop]
    exact shiftedUp_lt w x _

theorem shiftTimes_succ (op : ShiftOp) (w : Width) (c : Nat) (x : Word) (cf : Bool) :
    shiftTimes op w (c + 1) x cf =
      shiftStep op w (shiftTimes op w c x cf).1 (shiftTimes op w c x cf).2 := by
  induction c generalizing x cf with
  | zero => rfl
  | succ c ih => exact ih _ _

section
variable {op : ShiftOp} {w : Width} {x : Word} {cf : Bool} (hx : x.toNat < 2 ^ w.bits)
include hx

theorem shiftTimes_lt (c : Nat) : (shiftTimes op w c x cf).1.toNat < 2 ^ w.bits := by
  induction c with
  | zero => exact hx
  | succ c ih => exact shiftTimes_succ op w c x cf ▸ shiftStep_lt op ih _

/-- What holds before the first step and is kept by every step on an operand of its width holds
after any number of them. -/
theorem shiftTimes_induction {P : Nat → Word → Bool → Prop} (h0 : P 0 x cf)
    (hstep : ∀ c y d, y.toNat < 2 ^ w.bits → P c y d →
      P (c + 1) (shiftStep op w y d).1 (shiftStep op w y d).2) (c : Nat) :
    P c (shiftTimes op w c x cf).1 (shiftTimes op w c x cf).2 := by
  induction c with
  | zero => exact h0
  | succ c ih => exact shiftTimes_succ op w c x cf ▸ hstep c _ _ (shiftTimes_lt hx c) ih

end

/-! ## Shifts (R436 to R438) -/

/-- y and CF d after x is shifted left by c positions (R436). -/
def ShiftedLeft (w : Width) (x : Word) (c : Nat) (y : Word) (d : Bool) : Prop :=
  y.toNat = x.toNat * 2 ^ c % 2 ^ w.bits ∧
    (c ≠ 0 → (d = true ↔ x.toNat * 2 ^ c / 2 ^ w.bits % 2 = 1))

/-- y and CF d after x is shifted right by c positions (R437). -/
def ShiftedRight (x : Word) (c : Nat) (y : Word) (d : Bool) : Prop :=
  y.toNat = x.toNat / 2 ^ c ∧ (c ≠ 0 → (d = true ↔ x.toNat / 2 ^ (c - 1) % 2 = 1))

/-- y and CF d after x is shifted right by c positions as a signed integer (R438). -/
def ShiftedRightSigned (w : Width) (x : Word) (c : Nat) (y : Word) (d : Bool) : Prop :=
  signedValue w y = signedValue w x / 2 ^ c ∧
    (c ≠ 0 → (d = true ↔ signedValue w x / 2 ^ (c - 1) % 2 = 1))

section
variable {w : Width} {x : Word} (hx : x.toNat < 2 ^ w.bits) (cf : Bool) (c : Nat)
include hx

theorem shiftTimes_shl :
    ShiftedLeft w x c (shiftTimes .shl w c x cf).1 (shiftTimes .shl w c x cf).2 := by
  refine shiftTimes_induction (P := ShiftedLeft w x) hx ⟨?_, fun h => absurd rfl h⟩
    (fun c y d hy ⟨hval, _⟩ => ?_) c
  · rw [pow_zero, mul_one, Nat.mod_eq_of_lt hx]
  · rw [ShiftedLeft, shiftStep_up rfl, shiftIn, toNat_shiftedUp_false, msb_iff hy, hval, pow_succ,
      ← Nat.mul_assoc]
    generalize x.toNat * 2 ^ c = p
    cases w <;> simp only [Width.bits] <;> omega

theorem shiftTimes_shr :
    ShiftedRight x c (shiftTimes .shr w c x cf).1 (shiftTimes .shr w c x cf).2 := by
  refine shiftTimes_induction (P := ShiftedRight x) hx ⟨?_, fun h => absurd rfl h⟩
    (fun c y d hy ⟨hval, _⟩ => ⟨?_, fun _ => ?_⟩) c
  · rw [pow_zero, Nat.div_one]
  · rw [shiftStep_down rfl, shiftIn, toNat_shiftedDown hy, hval, pow_succ, Nat.div_div_eq_div_mul,
      Bool.toNat_false, Nat.mul_zero, Nat.zero_add]
  · rw [shiftStep_down rfl, getLsbD_zero_iff, hval, Nat.add_sub_cancel]

theorem shiftTimes_sar :
    ShiftedRightSigned w x c (shiftTimes .sar w c x cf).1 (shiftTimes .sar w c x cf).2 := by
  refine shiftTimes_induction (P := ShiftedRightSigned w x) hx ⟨?_, fun h => absurd rfl h⟩
    (fun c y d hy ⟨hval, _⟩ => ⟨?_, fun _ => ?_⟩) c
  · rw [pow_zero, Int.ediv_one]
  · rw [shiftStep_down rfl, shiftIn, signedValue_shiftedDown_msb hy, hval, pow_succ,
      Int.ediv_ediv_of_nonneg (by positivity)]
  · rw [shiftStep_down rfl, getLsbD_zero_iff, ← signedValue_emod_two w, hval, Nat.add_sub_cancel]

end

end Sys2Proof.Machine
end

section
/-! PROOFS. SHL, SHR and SAR, and the forms of the shifts and rotates. -/

namespace Sys2Proof.Machine

/-! ## The three forms of an operation, and their count (R431) -/

/-- An operation by 1, by CL and by an immediate count. -/
def ShiftOp.forms (op : ShiftOp) (w : Width) (rm : RM) (n : Byte) : List Instr :=
  match op with
  | .rol => [.rolOne w rm, .rolCl w rm, .rolImm w rm n]
  | .ror => [.rorOne w rm, .rorCl w rm, .rorImm w rm n]
  | .rcl => [.rclOne w rm, .rclCl w rm, .rclImm w rm n]
  | .rcr => [.rcrOne w rm, .rcrCl w rm, .rcrImm w rm n]
  | .shl => [.shlOne w rm, .shlCl w rm, .shlImm w rm n]
  | .shr => [.shrOne w rm, .shrCl w rm, .shrImm w rm n]
  | .sar => [.sarOne w rm, .sarCl w rm, .sarImm w rm n]

/-- The raw counts of the three forms. -/
def State.rawCounts (s : State) (n : Byte) : List Byte := [1#8, loByte s.regs.cx, n]

theorem shiftCount_loByte (v : Word) : shiftCount (loByte v) = v.toNat % 32 := by
  rw [shiftCount, toNat_loByte]
  omega

/-- The state after an operand is shifted or rotated by c positions. -/
def State.shifted (s : State) (op : ShiftOp) (w : Width) (rm : RM) (c : Nat) : State :=
  s.rmPutFlags w rm (shiftFlags op w (s.rmValue w rm) c s.flags s.draws)

/-- The operand and CF after a shift or rotate by c positions. -/
def State.shiftResult (s : State) (op : ShiftOp) (w : Width) (rm : RM) (c : Nat) : Word × Bool :=
  shiftTimes op w c (s.rmValue w rm) s.flags.cf

section
variable {s : State} {w : Width} {rm : RM}

theorem exec_shiftForm (op : ShiftOp) (n : Byte) {k : Nat} (hk : k < 3) :
    exec ((op.forms w rm n).getD k .nop) s =
      s.finish (s.shiftRM op w rm ((s.rawCounts n).getD k 0#8)) := by
  interval_cases k <;> cases op <;> rfl

variable (h : s.rmReady .write w rm = true)
include h

theorem State.shiftRM_of_ready (op : ShiftOp) (raw : Byte) :
    s.shiftRM op w rm raw =
      .ok (if shiftCount raw = 0 then s else s.shifted op w rm (shiftCount raw)) := by
  simp only [State.rmReady, Bool.and_eq_true] at h
  exact (State.shiftRM_eq_ok s op w rm raw _).2 ⟨h.1, h.2, rfl⟩

theorem exec_shiftForm_of_zero (op : ShiftOp) (n : Byte) {k : Nat} (hk : k < 3)
    (hc : shiftCount ((s.rawCounts n).getD k 0#8) = 0) :
    exec ((op.forms w rm n).getD k .nop) s = .next s := by
  rw [exec_shiftForm op n hk, State.shiftRM_of_ready h, if_pos hc, State.finish_ok]

theorem exec_shiftForm_of {n : Byte} {k c : Nat} (hc : c ≠ 0)
    (hk : k = 0 ∧ c = 1 ∨ k = 1 ∧ c = s.regs.cx.toNat % 32 ∨ k = 2 ∧ c = n.toNat % 32)
    (op : ShiftOp) :
    exec ((op.forms w rm n).getD k .nop) s = .next (s.shifted op w rm c) := by
  have hcount : k < 3 ∧ shiftCount ((s.rawCounts n).getD k 0#8) = c := by
    obtain ⟨rfl, rfl⟩ | ⟨rfl, rfl⟩ | ⟨rfl, rfl⟩ := hk
    · exact ⟨by decide, rfl⟩
    · exact ⟨by decide, shiftCount_loByte s.regs.cx⟩
    · exact ⟨by decide, rfl⟩
  rw [exec_shiftForm op n hcount.1, State.shiftRM_of_ready h, hcount.2, if_neg hc, State.finish_ok]

end

/-! ## What a shift or rotate leaves (R431) -/

section
variable (s : State) (op : ShiftOp) (w : Width) (rm : RM) (c : Nat)

theorem State.shiftResult_lt : (s.shiftResult op w rm c).1.toNat < 2 ^ w.bits :=
  shiftTimes_lt (s.rmValue_lt w rm) c

theorem State.placed_shifted :
    s.placed (s.shifted op w rm c) w rm (s.shiftResult op w rm c).1 :=
  s.placed_rmPutFlags w rm (s.shiftResult_lt op w rm c)

theorem State.sameElse_shifted : s.sameElse (s.shifted op w rm c) := s.sameElse_rmPutFlags w rm _

theorem State.shifted_flags :
    (s.shifted op w rm c).flags = (shiftFlags op w (s.rmValue w rm) c s.flags s.draws).2 := rfl

theorem State.shifted_sameControl : s.flags.sameControl (s.shifted op w rm c).flags := by
  cases op <;> exact ⟨rfl, rfl, rfl, rfl, rfl⟩

theorem State.shifted_cf :
    (s.shifted op w rm c).flags.cf = (s.shiftResult op w rm c).2 := by
  cases op <;> rfl

theorem State.shifted_of_one : (s.shifted op w rm 1).flags.of =
    shiftOverflow op w (s.rmValue w rm) (s.shiftResult op w rm 1).1
      (s.shiftResult op w rm 1).2 := by
  cases op <;> rfl

variable {op}

theorem State.shifted_ofResult (hop : op.isShift = true) :
    (s.shifted op w rm c).flags.ofResult w (s.shiftResult op w rm c).1 := by
  have hlt := s.shiftResult_lt op w rm c
  cases op with
  | shl | shr | sar => exact s.flags.ofResult_setSZP hlt
  | rol | ror | rcl | rcr => cases hop

/-- A shift writes the six status flags and its operand alone. -/
theorem State.shifted_rest (hop : op.isShift = true) :
    (s.shifted op w rm c).flags.ofResult w (s.shiftResult op w rm c).1 ∧
      s.flags.sameControl (s.shifted op w rm c).flags ∧ s.sameElse (s.shifted op w rm c) :=
  ⟨s.shifted_ofResult w rm c hop, s.shifted_sameControl op w rm c, s.sameElse_shifted op w rm c⟩

end

/-- Settles O31: the masked count 0 writes nothing; each of the others repeats its step
(`shiftTimes_shl`, `shiftTimes_shr`, `shiftTimes_sar`). -/
theorem shiftsByTheirCount : Obligations.ShiftsByTheirCount := by
  refine ⟨fun s w rm h => ⟨fun hcl => ?_, fun n hn => ?_⟩, fun s w rm n k c h hc hk => ?_⟩
  · have hnext := fun op => exec_shiftForm_of_zero h op 0#8 (k := 1) (by decide)
      ((shiftCount_loByte s.regs.cx).trans hcl)
    simp only [List.forall_mem_cons, List.not_mem_nil, false_imp_iff, implies_true, and_true]
    exact ⟨hnext .rol, hnext .ror, hnext .rcl, hnext .rcr, hnext .shl, hnext .shr, hnext .sar⟩
  · have hnext := fun op => exec_shiftForm_of_zero h op n (k := 2) (by decide) hn
    simp only [List.forall_mem_cons, List.not_mem_nil, false_imp_iff, implies_true, and_true]
    exact ⟨hnext .rol, hnext .ror, hnext .rcl, hnext .rcr, hnext .shl, hnext .shr, hnext .sar⟩
  · have hx := s.rmValue_lt w rm
    have hnext := exec_shiftForm_of h hc hk
    have hplaced := fun op => s.placed_shifted op w rm c
    have hcf := fun op => s.shifted_cf op w rm c
    refine ⟨⟨_, _, hnext .shl, hplaced .shl, ?_⟩, ⟨_, _, hnext .shr, hplaced .shr, ?_⟩,
      ⟨_, _, hnext .sar, hplaced .sar, ?_⟩⟩
    · obtain ⟨hval, hcarry⟩ := shiftTimes_shl hx s.flags.cf c
      refine ⟨hval, hcf .shl ▸ hcarry hc, ?_, s.shifted_rest w rm c rfl⟩
      rintro rfl
      exact s.shifted_of_one .shl w rm
    · obtain ⟨hval, hcarry⟩ := shiftTimes_shr hx s.flags.cf c
      refine ⟨hval, hcf .shr ▸ hcarry hc, ?_, s.shifted_rest w rm c rfl⟩
      rintro rfl
      exact s.shifted_of_one .shr w rm ▸ msb_iff hx
    · obtain ⟨hval, hcarry⟩ := shiftTimes_sar hx s.flags.cf c
      refine ⟨hval, hcf .sar ▸ hcarry hc, ?_, s.shifted_rest w rm c rfl⟩
      rintro rfl
      exact s.shifted_of_one .sar w rm

end Sys2Proof.Machine
end

section
/-! PROOFS. ROL, ROR, RCL and RCR. -/

namespace Sys2Proof.Machine

/-! ## Rings of bits -/

theorem succ_mod_cases (c : Nat) {n : Nat} (hn : 2 ≤ n) :
    (c + 1) % n = if c % n + 1 = n then 0 else c % n + 1 := by
  have hlt := Nat.mod_lt c (show 0 < n by omega)
  rw [Nat.add_mod, Nat.mod_eq_of_lt (show 1 < n by omega)]
  split
  next hwrap => rw [hwrap, Nat.mod_self]
  next hwrap => exact Nat.mod_eq_of_lt (by omega)

theorem getLsbD_rotateLeft_one {n : Nat} (hn : 2 ≤ n) (v : BitVec n) {i : Nat} (hi : i < n) :
    (v.rotateLeft 1).getLsbD i = if i = 0 then v.getLsbD (n - 1) else v.getLsbD (i - 1) := by
  rw [BitVec.getLsbD_rotateLeft, Nat.mod_eq_of_lt (show 1 < n by omega)]
  by_cases h0 : i = 0
  · simp [h0]
  · simp [h0, hi]

theorem getLsbD_rotateRight_one {n : Nat} (hn : 2 ≤ n) (v : BitVec n) {i : Nat} (hi : i < n) :
    (v.rotateRight 1).getLsbD i = if i = n - 1 then v.getLsbD 0 else v.getLsbD (i + 1) := by
  rw [BitVec.getLsbD_rotateRight, Nat.mod_eq_of_lt (show 1 < n by omega)]
  by_cases h0 : i = n - 1
  · simp [h0, show n - 1 < n by omega]
  · simp [h0, show i < n - 1 by omega, Nat.add_comm]

theorem rotateLeft_zero {n : Nat} (v : BitVec n) : v.rotateLeft 0 = v :=
  BitVec.eq_of_getLsbD_eq fun i hi => by
    rw [BitVec.getLsbD_rotateLeft, Nat.zero_mod]
    simp [hi]

theorem rotateRight_zero {n : Nat} (v : BitVec n) : v.rotateRight 0 = v :=
  BitVec.eq_of_getLsbD_eq fun i hi => by
    rw [BitVec.getLsbD_rotateRight, Nat.zero_mod]
    simp [hi]

/-- The bit at each place after c positions and one more, whether c + 1 completes a turn or not. -/
theorem rotateLeft_succ {n : Nat} (hn : 2 ≤ n) (v : BitVec n) (c : Nat) :
    v.rotateLeft (c + 1) = (v.rotateLeft c).rotateLeft 1 := by
  have hlt := Nat.mod_lt c (show 0 < n by omega)
  apply BitVec.eq_of_getLsbD_eq
  intro i hi
  rw [getLsbD_rotateLeft_one hn _ hi]
  simp only [BitVec.getLsbD_rotateLeft, succ_mod_cases c hn]
  generalize c % n = m at hlt
  by_cases hwrap : m + 1 = n
  · rw [if_pos hwrap]
    grind
  · rw [if_neg hwrap]
    grind

theorem rotateRight_succ {n : Nat} (hn : 2 ≤ n) (v : BitVec n) (c : Nat) :
    v.rotateRight (c + 1) = (v.rotateRight c).rotateRight 1 := by
  have hlt := Nat.mod_lt c (show 0 < n by omega)
  apply BitVec.eq_of_getLsbD_eq
  intro i hi
  rw [getLsbD_rotateRight_one hn _ hi]
  simp only [BitVec.getLsbD_rotateRight, succ_mod_cases c hn]
  have hnext : i ≠ n - 1 → i + 1 < n := by omega
  generalize c % n = m at hlt
  by_cases hwrap : m + 1 = n
  · rw [if_pos hwrap]
    grind
  · rw [if_neg hwrap]
    grind

/-! ## Rotates (R432 to R435) -/

/-- The N bits of an operand, as a ring of their own. -/
def lowBits (w : Width) (v : Word) : BitVec w.bits := v.setWidth w.bits

/-- CF and the N bits of an operand, as one ring (R434, R435). -/
def carryRing (w : Width) (c : Bool) (v : Word) : BitVec (w.bits + 1) :=
  BitVec.cons c (lowBits w v)

theorem getLsbD_lowBits {w : Width} (v : Word) {i : Nat} (hi : i < w.bits) :
    (lowBits w v).getLsbD i = v.getLsbD i := by
  rw [lowBits, BitVec.getLsbD_setWidth, decide_eq_true hi, Bool.true_and]

theorem getLsbD_carryRing {w : Width} (c : Bool) (v : Word) {i : Nat} (hi : i < w.bits + 1) :
    (carryRing w c v).getLsbD i = if i = w.bits then c else v.getLsbD i := by
  rw [carryRing, BitVec.getLsbD_cons]
  by_cases htop : i = w.bits
  · rw [if_pos htop, if_pos htop]
  · rw [if_neg htop, if_neg htop, getLsbD_lowBits v (by omega)]

section
variable {op : ShiftOp} {w : Width} {x : Word} {cf : Bool} (hx : x.toNat < 2 ^ w.bits) {n : Nat}
  (hn : 2 ≤ n) {ring : Bool → Word → BitVec n}
include hx hn

/-- A ring that every step turns up by one position is turned by as many as there are steps. -/
theorem shiftTimes_rotateLeft
    (hstep : ∀ y d, ring (shiftStep op w y d).2 (shiftStep op w y d).1 = (ring d y).rotateLeft 1)
    (c : Nat) : ring (shiftTimes op w c x cf).2 (shiftTimes op w c x cf).1 =
      (ring cf x).rotateLeft c := by
  refine shiftTimes_induction (P := fun c y d => ring d y = (ring cf x).rotateLeft c) hx ?_
    (fun c y d _ ih => ?_) c
  · rw [rotateLeft_zero]
  · rw [hstep, ih, rotateLeft_succ hn _ c]

/-- A ring that every step turns down by one position is turned by as many as there are steps. -/
theorem shiftTimes_rotateRight
    (hstep : ∀ y d, y.toNat < 2 ^ w.bits →
      ring (shiftStep op w y d).2 (shiftStep op w y d).1 = (ring d y).rotateRight 1)
    (c : Nat) : ring (shiftTimes op w c x cf).2 (shiftTimes op w c x cf).1 =
      (ring cf x).rotateRight c := by
  refine shiftTimes_induction (P := fun c y d => ring d y = (ring cf x).rotateRight c) hx ?_
    (fun c y d hy ih => ?_) c
  · rw [rotateRight_zero]
  · rw [hstep y d hy, ih, rotateRight_succ hn _ c]

end

theorem lowBits_rol (w : Width) (y : Word) (d : Bool) :
    lowBits w (shiftStep .rol w y d).1 = (lowBits w y).rotateLeft 1 := by
  refine BitVec.eq_of_getLsbD_eq fun i hi => ?_
  rw [getLsbD_rotateLeft_one (two_le_bits w) _ hi, getLsbD_lowBits _ hi, shiftStep_up rfl,
    getLsbD_shiftedUp _ _ hi, shiftIn, msb_eq_getLsbD, getLsbD_lowBits _ (by omega),
    getLsbD_lowBits _ (by omega)]

theorem lowBits_ror {w : Width} {y : Word} (hy : y.toNat < 2 ^ w.bits) (d : Bool) :
    lowBits w (shiftStep .ror w y d).1 = (lowBits w y).rotateRight 1 := by
  refine BitVec.eq_of_getLsbD_eq fun i hi => ?_
  rw [getLsbD_rotateRight_one (two_le_bits w) _ hi, getLsbD_lowBits _ hi, shiftStep_down rfl,
    getLsbD_shiftedDown hy _ hi, shiftIn, getLsbD_lowBits _ (by omega)]
  by_cases htop : i = w.bits - 1
  · rw [if_pos htop, if_pos htop]
  · rw [if_neg htop, if_neg htop, getLsbD_lowBits _ (by omega)]

theorem carryRing_rcl (w : Width) (y : Word) (d : Bool) :
    carryRing w (shiftStep .rcl w y d).2 (shiftStep .rcl w y d).1 =
      (carryRing w d y).rotateLeft 1 := by
  have hbits := two_le_bits w
  refine BitVec.eq_of_getLsbD_eq fun i hi => ?_
  rw [getLsbD_rotateLeft_one (by omega) _ hi, getLsbD_carryRing _ _ hi, shiftStep_up rfl,
    getLsbD_carryRing _ _ (by omega), getLsbD_carryRing _ _ (by omega)]
  by_cases hcarry : i = w.bits
  · rw [if_pos hcarry, msb_eq_getLsbD, if_neg (by omega), if_neg (by omega), hcarry]
  · rw [if_neg hcarry, getLsbD_shiftedUp _ _ (by omega), shiftIn, if_pos (Nat.add_sub_cancel ..),
      if_neg (show i - 1 ≠ w.bits by omega)]

theorem carryRing_rcr {w : Width} {y : Word} (hy : y.toNat < 2 ^ w.bits) (d : Bool) :
    carryRing w (shiftStep .rcr w y d).2 (shiftStep .rcr w y d).1 =
      (carryRing w d y).rotateRight 1 := by
  have hbits := two_le_bits w
  refine BitVec.eq_of_getLsbD_eq fun i hi => ?_
  rw [getLsbD_rotateRight_one (by omega) _ hi, getLsbD_carryRing _ _ hi, shiftStep_down rfl,
    getLsbD_carryRing _ _ (by omega)]
  by_cases hcarry : i = w.bits
  · rw [if_pos hcarry, if_pos (by omega), if_neg (by omega)]
  · rw [if_neg hcarry, if_neg (show i ≠ w.bits + 1 - 1 by omega), getLsbD_carryRing _ _ (by omega),
      getLsbD_shiftedDown hy _ (by omega), shiftIn]
    by_cases htop : i + 1 = w.bits
    · rw [if_pos htop, if_pos (by omega)]
    · rw [if_neg htop, if_neg (by omega)]

theorem lowBits_word (v : Word) : lowBits .word v = v := BitVec.setWidth_eq v

theorem setWidth_lowBits_byte {v : Word} (h : v.toNat < 256) :
    (lowBits .byte v).setWidth 16 = v := zext16_loByte h

theorem carryRing_word (c : Bool) (v : Word) : carryRing .word c v = ringWord c v :=
  congrArg (BitVec.cons c) (lowBits_word v)

theorem carryRing_byte (c : Bool) (v : Word) : carryRing .byte c v = ringByte c v := rfl

/-! ## What a rotate leaves -/

section
variable (s : State) (w : Width) (rm : RM) (c : Nat)

theorem State.lowBits_shiftResult_rol : lowBits w (s.shiftResult .rol w rm c).1 =
    (lowBits w (s.rmValue w rm)).rotateLeft c :=
  shiftTimes_rotateLeft (ring := fun _ v => lowBits w v) (s.rmValue_lt w rm) (two_le_bits w)
    (lowBits_rol w) c

theorem State.lowBits_shiftResult_ror : lowBits w (s.shiftResult .ror w rm c).1 =
    (lowBits w (s.rmValue w rm)).rotateRight c :=
  shiftTimes_rotateRight (ring := fun _ v => lowBits w v) (s.rmValue_lt w rm) (two_le_bits w)
    (fun _ d hy => lowBits_ror hy d) c

theorem State.carryRing_shiftResult_rcl :
    carryRing w (s.shifted .rcl w rm c).flags.cf (s.shiftResult .rcl w rm c).1 =
      (carryRing w s.flags.cf (s.rmValue w rm)).rotateLeft c := by
  rw [State.shifted_cf]
  exact shiftTimes_rotateLeft (s.rmValue_lt w rm) (le_trans (two_le_bits w) (Nat.le_succ _))
    (carryRing_rcl w) c

theorem State.carryRing_shiftResult_rcr :
    carryRing w (s.shifted .rcr w rm c).flags.cf (s.shiftResult .rcr w rm c).1 =
      (carryRing w s.flags.cf (s.rmValue w rm)).rotateRight c := by
  rw [State.shifted_cf]
  exact shiftTimes_rotateRight (s.rmValue_lt w rm) (le_trans (two_le_bits w) (Nat.le_succ _))
    (fun _ d hy => carryRing_rcr hy d) c

variable {c}

/-- ROL leaves the bit that went round in the lowest bit and in CF. -/
theorem State.shifted_rol_cf (hc : c ≠ 0) :
    (s.shifted .rol w rm c).flags.cf = (s.shiftResult .rol w rm c).1.getLsbD 0 := by
  obtain ⟨m, rfl⟩ := Nat.exists_eq_succ_of_ne_zero hc
  have hbits := two_le_bits w
  rw [State.shifted_cf, State.shiftResult, shiftTimes_succ, shiftStep_up rfl,
    getLsbD_shiftedUp _ _ (by omega)]
  rfl

/-- ROR leaves the bit that went round in the highest bit and in CF. -/
theorem State.shifted_ror_cf (hc : c ≠ 0) :
    (s.shifted .ror w rm c).flags.cf = (s.shiftResult .ror w rm c).1.getLsbD (w.bits - 1) := by
  obtain ⟨m, rfl⟩ := Nat.exists_eq_succ_of_ne_zero hc
  have hbits := two_le_bits w
  rw [State.shifted_cf, State.shiftResult, shiftTimes_succ, shiftStep_down rfl,
    getLsbD_shiftedDown (shiftTimes_lt (s.rmValue_lt w rm) m) _ (by omega), if_pos rfl]
  rfl

/-- OF of a single position up (R432, R434). -/
theorem State.shifted_of_up {op : ShiftOp} (hop : op.isUp = true) (h1 : c = 1) :
    (s.shifted op w rm c).flags.of =
      ((s.shiftResult op w rm c).1.getLsbD (w.bits - 1) ^^ (s.shifted op w rm c).flags.cf) := by
  subst h1
  rw [State.shifted_of_one, State.shifted_cf, ← msb_eq_getLsbD]
  cases op with
  | rol | rcl | shl => rfl
  | ror | rcr | shr | sar => cases hop

/-- OF of a single position down (R433, R435). -/
theorem State.shifted_of_down {op : ShiftOp} (hop : op = .ror ∨ op = .rcr) (h1 : c = 1) :
    (s.shifted op w rm c).flags.of = ((s.shiftResult op w rm c).1.getLsbD (w.bits - 1) ^^
      (s.shiftResult op w rm c).1.getLsbD (w.bits - 2)) := by
  subst h1
  rw [State.shifted_of_one, ← msb_eq_getLsbD, ← msb2_eq_getLsbD]
  obtain rfl | rfl := hop <;> rfl

/-- A rotate writes CF, OF and its operand alone. -/
theorem State.shifted_kept {op : ShiftOp} (hop : op.isShift = false) :
    (s.shifted op w rm c).flags.sf = s.flags.sf ∧ (s.shifted op w rm c).flags.zf = s.flags.zf ∧
      (s.shifted op w rm c).flags.af = s.flags.af ∧ (s.shifted op w rm c).flags.pf = s.flags.pf ∧
      s.flags.sameControl (s.shifted op w rm c).flags ∧ s.sameElse (s.shifted op w rm c) := by
  have hrest := And.intro (s.shifted_sameControl op w rm c) (s.sameElse_shifted op w rm c)
  cases op with
  | rol | ror | rcl | rcr => exact ⟨rfl, rfl, rfl, rfl, hrest⟩
  | shl | shr | sar => cases hop

end

/-- Settles O32: each step turns the operand, or CF and the operand, by one position
(`shiftTimes_rotateLeft`, `shiftTimes_rotateRight`). -/
theorem rotates : Obligations.Rotates := by
  intro s w rm n k c h hc hk a kept
  have hnext := exec_shiftForm_of h hc hk
  have hplaced := fun op => s.placed_shifted op w rm c
  have hlt := fun op => s.shiftResult_lt op w rm c
  refine ⟨⟨_, _, hnext .rol, hplaced .rol, ?_, ?_, s.shifted_rol_cf w rm hc,
      s.shifted_of_up w rm rfl, s.shifted_kept w rm rfl⟩,
    ⟨_, _, hnext .ror, hplaced .ror, ?_, ?_, s.shifted_ror_cf w rm hc,
      s.shifted_of_down w rm (.inl rfl), s.shifted_kept w rm rfl⟩,
    ⟨_, _, hnext .rcl, hplaced .rcl, ?_, ?_, s.shifted_of_up w rm rfl, s.shifted_kept w rm rfl⟩,
    ⟨_, _, hnext .rcr, hplaced .rcr, ?_, ?_, s.shifted_of_down w rm (.inr rfl),
      s.shifted_kept w rm rfl⟩⟩
  · rintro rfl
    rw [← lowBits_word (s.shiftResult .rol .word rm c).1, State.lowBits_shiftResult_rol,
      lowBits_word]
    rfl
  · rintro rfl
    rw [← setWidth_lowBits_byte (hlt .rol), State.lowBits_shiftResult_rol]
    rfl
  · rintro rfl
    rw [← lowBits_word (s.shiftResult .ror .word rm c).1, State.lowBits_shiftResult_ror,
      lowBits_word]
    rfl
  · rintro rfl
    rw [← setWidth_lowBits_byte (hlt .ror), State.lowBits_shiftResult_ror]
    rfl
  · rintro rfl
    rw [← carryRing_word, ← carryRing_word]
    exact s.carryRing_shiftResult_rcl .word rm c
  · rintro rfl
    exact s.carryRing_shiftResult_rcl .byte rm c
  · rintro rfl
    rw [← carryRing_word, ← carryRing_word]
    exact s.carryRing_shiftResult_rcr .word rm c
  · rintro rfl
    exact s.carryRing_shiftResult_rcr .byte rm c

end Sys2Proof.Machine
end

section
/-! PROOFS. The string instructions without a repeat prefix. -/

namespace Sys2Proof.Machine

/-! ## The element at SI (R460) -/

/-- The element at SI, in DS or the segment of the override. -/
def State.sourceElement (s : State) (w : Width) : Word :=
  s.busValue 0 (linear (s.seg (s.overridden .ds)).base s.regs.si) w

theorem State.sourceElement_lt (s : State) (w : Width) :
    (s.sourceElement w).toNat < 2 ^ w.bits := s.busValue_lt 0 _ w

theorem State.memRead_source_of {s : State} {w : Width}
    (h : s.readReady (s.overridden .ds) s.regs.si w = true) :
    s.memRead s.srcSeg s.regs.si w = .ok (s.sourceElement w) := State.memRead_of_ready 0 h

/-! ## An element stored at ES:DI (R460) -/

/-- The state with an element stored at ES:DI and the general registers moved on. -/
def State.putElement (s : State) (w : Width) (v : Word) (r : Regs) : State :=
  { s.store .es s.regs.di w v with regs := r }

section
variable (s : State) (w : Width) (v : Word)

theorem State.stored_putElement (r : Regs) (h : v.toNat < 2 ^ w.bits) :
    s.stored (s.putElement w v r) (linear s.es.base s.regs.di) w v :=
  s.stored_store .es s.regs.di w h

/-- The bus operations made so far play no part in what memory holds. -/
theorem State.stored_of_out {t : State} {a : Addr} {o : List Event}
    (h : ({ s with out := o } : State).stored t a w v) : s.stored t a w v := h

theorem State.putElement_flags (r : Regs) : (s.putElement w v r).flags = s.flags :=
  s.store_flags .es s.regs.di w v

theorem State.putElement_out (r : Regs) : (s.putElement w v r).out = s.out :=
  s.store_out .es s.regs.di w v

theorem State.sameElse_putElement (r : Regs) : s.sameElse (s.putElement w v r) := by
  have hstore := s.sameElse_store .es s.regs.di w v
  unfold State.sameElse State.putElement at *
  rw [hstore]

theorem State.stepDi_store : (s.store .es s.regs.di w v).stepDi w =
    s.putElement w v { s.regs with di := s.nextIndex w s.regs.di } := by
  cases w <;> rfl

theorem State.stepSi_stepDi_store : ((s.store .es s.regs.di w v).stepSi w).stepDi w =
    s.putElement w v
      { s.regs with si := s.nextIndex w s.regs.si, di := s.nextIndex w s.regs.di } := by
  cases w <;> rfl

end

/-! ## What each element leaves (R462 to R467, R469) -/

section
variable {s : State} {w : Width}

theorem State.movsElement_of (hsrc : s.readReady (s.overridden .ds) s.regs.si w = true)
    (hdst : s.accessOk .write .es s.regs.di w.bytes = true) :
    s.movsElement w = .ok (s.putElement w (s.sourceElement w)
      { s.regs with si := s.nextIndex w s.regs.si, di := s.nextIndex w s.regs.di }) := by
  rw [State.movsElement, State.memRead_source_of hsrc, Exec.ok_bind,
    State.memWrite_of _ hdst, Exec.ok_bind, State.stepSi_stepDi_store]

theorem State.stosElement_of (hdst : s.accessOk .write .es s.regs.di w.bytes = true) :
    s.stosElement w = .ok (s.putElement w (s.getReg w 0#3)
      { s.regs with di := s.nextIndex w s.regs.di }) := by
  rw [State.stosElement, State.memWrite_of _ hdst, Exec.ok_bind, State.stepDi_store, State.acc]

theorem State.lodsElement_of (hsrc : s.readReady (s.overridden .ds) s.regs.si w = true) :
    s.lodsElement w = .ok ((s.stepSi w).setReg w 0#3 (s.sourceElement w)) := by
  rw [State.lodsElement, State.memRead_source_of hsrc, Exec.ok_bind, State.setAcc]

theorem State.cmpsElement_of (hsrc : s.readReady (s.overridden .ds) s.regs.si w = true)
    (hdst : s.readReady .es s.regs.di w = true) :
    s.cmpsElement w = .ok (((s.stepSi w).stepDi w).setFlags (subFlags w (s.sourceElement w)
      (s.busValue 1 (linear s.es.base s.regs.di) w) false s.flags).2) := by
  rw [State.cmpsElement, State.memRead_source_of hsrc, Exec.ok_bind,
    State.memRead_of_ready 1 hdst, Exec.ok_bind, State.seg]

theorem State.scasElement_of (hdst : s.readReady .es s.regs.di w = true) :
    s.scasElement w = .ok ((s.stepDi w).setFlags (subFlags w (s.getReg w 0#3)
      (s.busValue 0 (linear s.es.base s.regs.di) w) false s.flags).2) := by
  rw [State.scasElement, State.memRead_of_ready 0 hdst, Exec.ok_bind, State.acc, State.seg]

section
variable (hc : s.msw.pe = false ∨ s.cpl ≤ s.flags.iopl)
  (hport : s.portAnswers s.regs.dx w = true)
include hc hport

theorem State.insElement_of (hdst : s.accessOk .write .es s.regs.di w.bytes = true) :
    s.insElement w = .ok (({ s with
        out := portEvents .ioRead s.regs.dx w (s.ioRead s.regs.dx w).1 ++ s.out } :
          State).putElement w (s.ioRead s.regs.dx w).1
      { s.regs with di := s.nextIndex w s.regs.di }) := by
  rw [State.insElement, State.checkIopl_of hc, Exec.ok_bind, State.check_of hdst, Exec.ok_bind,
    State.readPort_ready hport, Exec.ok_bind, State.ioRead_eq]
  exact congrArg Except.ok (State.stepDi_store _ w _)

theorem State.outsElement_of (hsrc : s.readReady (s.overridden .ds) s.regs.si w = true) :
    s.outsElement w = .ok { s with
      regs := { s.regs with si := s.nextIndex w s.regs.si }
      out := portEvents .ioWrite s.regs.dx w (s.sourceElement w) ++ s.out } := by
  rw [State.outsElement, State.checkIopl_of hc, Exec.ok_bind,
    State.memRead_source_of hsrc, Exec.ok_bind, State.writePort_ready _ hport, Exec.ok_bind,
    State.ioWrite_eq]
  rfl

end

/-! ## One element in a step (R468) -/

/-- With no repeat prefix a string instruction is its element. -/
theorem exec_of_element {i : Instr} {compares : Bool} {element : State → Exec State} {t : State}
    (hrep : s.pre.rep = none) (hi : exec i s = s.finish (s.repeated compares element))
    (he : element s = .ok t) : exec i s = .next t := by
  rw [hi, State.repeated_none _ _ hrep, he, State.finish_ok]

end

/-- Settles O33: each instruction is its element (`exec_of_element`), whose parts are a read, Sub or a
port access and a store at ES:DI (`State.putElement`). -/
theorem stringElements : Obligations.StringElements := by
  refine ⟨fun s w hrep => ⟨fun hsrc hdst => ?movs, fun hdst => ?stos, fun hsrc => ?lods,
    fun hsrc hdst => ?cmps, fun hdst => ?scas⟩,
    fun s w hrep hc hport => ⟨fun hdst => ?ins, fun hsrc => ?outs⟩⟩
  case movs =>
    exact ⟨_, exec_of_element hrep rfl (State.movsElement_of hsrc hdst),
      s.stored_putElement w _ _ (s.sourceElement_lt w), rfl, s.putElement_flags w _ _,
      s.sameElse_putElement w _ _⟩
  case stos =>
    exact ⟨_, exec_of_element hrep rfl (State.stosElement_of hdst),
      s.stored_putElement w _ _ (s.getReg_lt w 0#3), rfl, s.putElement_flags w _ _,
      s.sameElse_putElement w _ _⟩
  case lods =>
    exact ⟨_, exec_of_element hrep rfl (State.lodsElement_of hsrc),
      (s.stepSi w).onlyReg_setReg w 0#3 (s.sourceElement_lt w), by cases w <;> rfl⟩
  case cmps =>
    exact ⟨_, _, exec_of_element hrep rfl (State.cmpsElement_of hsrc hdst),
      differenceResult_subFlags (s.sourceElement_lt w) (s.busValue_lt 1 _ w) false _,
      differenceBorrow_subFlags w _ _ false _, subFlags_sameControl w _ _ false _, rfl⟩
  case scas =>
    exact ⟨_, _, exec_of_element hrep rfl (State.scasElement_of hdst),
      differenceResult_subFlags (s.getReg_lt w 0#3) (s.busValue_lt 0 _ w) false _,
      differenceBorrow_subFlags w _ _ false _, subFlags_sameControl w _ _ false _, rfl⟩
  case ins =>
    have hlt := s.ioRead_lt s.regs.dx w
    refine ⟨_, (s.ioRead s.regs.dx w).1,
      exec_of_element hrep rfl (State.insElement_of hc hport hdst), hlt,
      State.putElement_out _ w _ _, s.stored_of_out w _ (State.stored_putElement _ w _ _ hlt), rfl,
      State.putElement_flags _ w _ _, ?_⟩
    rw [State.putElement_out]
    exact State.sameElse_putElement _ w _ _
  case outs =>
    exact exec_of_element hrep rfl (State.outsElement_of hc hport hsrc)

end Sys2Proof.Machine
end

section
/-! PROOFS. The conditional jumps, LOOP, LOOPZ, LOOPNZ and JCXZ. -/

namespace Sys2Proof.Machine

/-! ## The conditions (R505, R511, R513) -/

theorem Flags.belowOrEqual_eq_true (f : Flags) :
    f.belowOrEqual = true ↔ f.cf = true ∨ f.zf = true := by
  rw [Flags.belowOrEqual, Bool.or_eq_true]

theorem Flags.belowOrEqual_eq_false (f : Flags) :
    f.belowOrEqual = false ↔ f.cf = false ∧ f.zf = false := by
  rw [Flags.belowOrEqual, Bool.or_eq_false_iff]

theorem Flags.less_eq_true (f : Flags) : f.less = true ↔ f.sf ≠ f.of := by
  rw [Flags.less, Bool.xor_iff_ne]

theorem Flags.less_eq_false (f : Flags) : f.less = false ↔ f.sf = f.of := by
  rw [← Bool.not_eq_true, Flags.less_eq_true, not_not]

theorem Flags.lessOrEqual_eq_true (f : Flags) :
    f.lessOrEqual = true ↔ f.zf = true ∨ f.sf ≠ f.of := by
  rw [Flags.lessOrEqual, Bool.or_eq_true, Flags.less_eq_true]

theorem Flags.lessOrEqual_eq_false (f : Flags) :
    f.lessOrEqual = false ↔ f.zf = false ∧ f.sf = f.of := by
  rw [Flags.lessOrEqual, Bool.or_eq_false_iff, Flags.less_eq_false]

section
variable {s : State} {i : Instr} {c : Bool} {cond : Prop} {d : Byte}

/-! ## Conditional jumps (R498) -/

/-- A near jump that is made where c holds is a conditional jump on it. -/
theorem branches_of_jumpIf (hi : exec i s = s.finish (s.jumpIf c d)) (hc : cond ↔ c = true) :
    branches i s cond d := by
  refine ⟨fun h ht => ?taken, fun h hp hlim => ?beyond, fun h => ?passed⟩
  case taken =>
    rw [hi, hc.1 h, State.jumpIf_true, State.nearJump_of ht, State.finish_ok, State.jump_eq_atIp]
  case beyond =>
    rw [hi, hc.1 h, State.jumpIf_true, State.nearJump_beyond hp hlim]
    rfl
  case passed =>
    rw [hi, Bool.eq_false_iff.2 fun ht => h (hc.2 ht), State.jumpIf_false, State.finish_ok]

/-- A near jump that is made where c fails is a conditional jump on that. -/
theorem branches_of_jumpIf_not (hi : exec i s = s.finish (s.jumpIf (!c) d))
    (hc : cond ↔ c = false) : branches i s cond d :=
  branches_of_jumpIf hi (by rw [hc, Bool.not_eq_true'])

/-! ## LOOP, LOOPZ and LOOPNZ (R515 to R517) -/

/-- CX does not reach 0: the jump is tested first and CX written after it. -/
theorem State.loopWhile_again (hcx : s.regs.cx ≠ 1#16) (d : Byte) :
    s.loopWhile true d = (do
      let t ← s.nearJump (s.ip + sext16 d)
      .ok (t.setCx (s.regs.cx - 1))) :=
  if_pos ⟨by bv_omega, rfl⟩

/-- CX reaches 0 or the condition fails. -/
theorem State.loopWhile_done (h : s.regs.cx = 1#16 ∨ c = false) (d : Byte) :
    s.loopWhile c d = .ok (s.setCx (s.regs.cx - 1)) := by
  refine if_neg fun hagain => ?_
  obtain ⟨hcx, hc⟩ := hagain
  obtain h1 | hf := h
  · exact hcx (by rw [h1]; rfl)
  · exact absurd hc (by simp [hf])

/-- The three instructions count CX down and jump while c holds. -/
theorem exec_loop (h : i = .loop d ∧ (cond ↔ True) ∨ i = .loopz d ∧ (cond ↔ s.flags.zf = true) ∨
    i = .loopnz d ∧ (cond ↔ s.flags.zf = false)) :
    ∃ c, exec i s = s.finish (s.loopWhile c d) ∧ (cond ↔ c = true) := by
  obtain ⟨rfl, hc⟩ | ⟨rfl, hc⟩ | ⟨rfl, hc⟩ := h
  · exact ⟨true, rfl, by simpa using hc⟩
  · exact ⟨s.flags.zf, rfl, hc⟩
  · exact ⟨!s.flags.zf, rfl, by simpa using hc⟩

end

/-- Settles O35: the jumps are one conditional jump (`branches_of_jumpIf`), the loops a count of CX with
one near jump, whose target is tested before CX is written. -/
theorem conditionalJumpsAndLoops : Obligations.ConditionalJumpsAndLoops := by
  refine ⟨fun s d => ?jumps, fun s d => ⟨?loops, ?jcxz⟩⟩
  case jumps =>
    exact ⟨branches_of_jumpIf rfl .rfl, branches_of_jumpIf_not rfl .rfl,
      branches_of_jumpIf rfl .rfl, branches_of_jumpIf_not rfl .rfl,
      branches_of_jumpIf rfl .rfl, branches_of_jumpIf_not rfl .rfl,
      branches_of_jumpIf rfl s.flags.belowOrEqual_eq_true.symm,
      branches_of_jumpIf_not rfl s.flags.belowOrEqual_eq_false.symm,
      branches_of_jumpIf rfl .rfl, branches_of_jumpIf_not rfl .rfl,
      branches_of_jumpIf rfl .rfl, branches_of_jumpIf_not rfl .rfl,
      branches_of_jumpIf rfl s.flags.less_eq_true.symm,
      branches_of_jumpIf_not rfl s.flags.less_eq_false.symm,
      branches_of_jumpIf rfl s.flags.lessOrEqual_eq_true.symm,
      branches_of_jumpIf_not rfl s.flags.lessOrEqual_eq_false.symm⟩
  case loops =>
    intro i cond hi u
    obtain ⟨c, hexec, hc⟩ := exec_loop hi
    refine ⟨fun hcx h ht => ?again, fun hcx h hp hlim => ?beyond, fun h => ?done⟩
    case again =>
      rw [hexec, hc.1 h, State.loopWhile_again hcx, State.nearJump_of ht]
      rfl
    case beyond =>
      rw [hexec, hc.1 h, State.loopWhile_again hcx, State.nearJump_beyond hp hlim]
      rfl
    case done =>
      have hdone : s.regs.cx = 1#16 ∨ c = false :=
        h.imp_right fun hn => Bool.eq_false_iff.2 fun ht => hn (hc.2 ht)
      rw [hexec, State.loopWhile_done hdone]
      rfl
  case jcxz => exact branches_of_jumpIf rfl beq_iff_eq.symm

end Sys2Proof.Machine
end

section
/-! PROOFS. Far JMP, CALL and RET in real address mode. -/

namespace Sys2Proof.Machine

section
variable {s : State}

theorem State.realFar_eq_atFar (s : State) (sel off : Word) : s.realFar sel off = s.atFar sel off := by
  rw [State.realFar, realSeg_eq_realCs]
  rfl

/-! ## JMP and CALL (R484, R485, R490, R491) -/

/-- The instructions of a far transfer, their pointer read, in either mode. -/
theorem exec_farCall_or_farJump {i : Instr} {call : Bool} {off sel : Word}
    (h : s.farTransfer i call off sel) :
    exec i s = s.finish (if call then s.farCall sel off else s.farJump sel off) := by
  obtain rfl | ⟨m, rfl, hready, rfl, rfl⟩ := h
  · cases call <;> rfl
  · cases call <;>
      exact congrArg s.finish (Exec.bind_of_ok (State.readPointer_of_ready hready))

/-- Beside the stack a far CALL changes what a far JMP does. -/
theorem State.sameElse_farCall (s : State) (vs : List Word) (sel off : Word) :
    let t := (s.pushAllRaw vs).atFar sel off
    ({ s.atFar sel off with flushed := t.flushed } : State).sameElse t := by
  have h := s.sameElse_pushAllRaw vs
  unfold State.sameElse at h ⊢
  rw [h]
  rfl

section
variable (hp : s.msw.pe = false)
include hp

theorem exec_farJump_real {i : Instr} {off sel : Word} (h : s.farTransfer i false off sel) :
    exec i s = .next (s.atFar sel off) := by
  have hjump : s.farJump sel off = .ok (s.realFar sel off) := by simp [State.farJump, hp]
  rw [exec_farCall_or_farJump h, ← State.realFar_eq_atFar]
  exact congrArg s.finish hjump

theorem exec_farCall_real {i : Instr} {off sel : Word} (h : s.farTransfer i true off sel)
    (hpush : s.pushOk 2 = true) :
    exec i s = .next ((s.pushAllRaw [s.cs.sel, s.ip]).atFar sel off) := by
  have hpushes := State.pushAll_real [s.cs.sel, s.ip] hp (State.sp_of_pushOk_real hp hpush)
  have hcall : s.farCall sel off = .ok ((s.pushAllRaw [s.cs.sel, s.ip]).realFar sel off) := by
    simp [State.farCall, hp, hpushes]
  rw [exec_farCall_or_farJump h, ← State.realFar_eq_atFar]
  exact congrArg s.finish hcall

/-! ## RET (R495, R496) -/

theorem State.farRet_real (hready : s.wordsReady .ss s.regs.sp 2 = true) (adj : Word) :
    s.farRet adj = .ok ((s.setSp (s.regs.sp + 4 + adj)).atFar (s.busWord 1 (s.above 2))
      (s.busWord 0 (s.above 0))) := by
  simp only [State.wordsReady, Bool.and_eq_true] at hready
  obtain ⟨hok, hwords⟩ := hready
  rw [← State.realFar_eq_atFar, State.farRet, if_neg (by simp [hp])]
  exact (Exec.bind_of_ok (State.checkWords_of hok)).trans
    ((Exec.bind_of_ok (State.fetchAt_top hwords (by decide) 0)).trans
      (Exec.bind_of_ok (State.fetchAt_above hwords (j := 1) (by decide) 1)))

end

/-- The forms of a far RET. -/
theorem exec_farRet {i : Instr} {adj : Word}
    (h : i = .retFar ∧ adj = 0#16 ∨ i = .retFarImm adj) : exec i s = s.finish (s.farRet adj) := by
  obtain ⟨rfl, rfl⟩ | rfl := h <;> rfl

end

/-- Settles O38: a far JMP, two pushes and a far JMP, two pops and a far JMP. -/
theorem farTransfersInRealMode : Obligations.FarTransfersInRealMode := by
  intro s hp
  refine ⟨fun off sel => exec_farJump_real hp (.inl rfl),
    fun m h => exec_farJump_real hp (.inr ⟨m, rfl, h, rfl, rfl⟩), ?calls, ?returns⟩
  case calls =>
    intro i off sel hi hpush
    have hpushed : s.pushed (s.pushAllRaw [s.cs.sel, s.ip]) [s.cs.sel, s.ip] :=
      State.pushed_of_pushOk hpush (by simp)
    have ⟨hsp, _⟩ := hpushed
    have honly : s.regs.onlyWord (s.pushAllRaw [s.cs.sel, s.ip]).regs .sp (s.regs.sp - 4) := by
      rw [State.pushAllRaw_regs, hsp]
      exact s.regs.onlyWord_sp _
    exact ⟨_, exec_farCall_real hp hi hpush, State.pushed_congr hpushed rfl fun _ => rfl, honly,
      s.pushAllRaw_flags _, s.sameElse_farCall _ sel off, rfl⟩
  case returns =>
    intro i adj hi hready
    rw [exec_farRet hi, State.farRet_real hp hready]
    rfl

end Sys2Proof.Machine
end

section
/-! PROOFS. Deliveries through the table of real address mode: INT n, INT 3 and INTO. -/

namespace Sys2Proof.Machine

/-! ## What a delivery leaves (R640) -/

/-- t is s after an entry through entry n of the table: FLAGS and the return address pushed, IF and
TF clear, CS:IP that of the entry (R640). -/
structure State.EntersTable (s t : State) (n : Byte) (ret : RetAddr) : Prop where
  pushed : s.pushed t [s.flags.toWord, ret.cs, ret.ip]
  flags : t.flags = { s.flags with intf := false, tf := false }
  ip : t.ip = s.entering.lockedWord 0 (s.idtr.base + BitVec.ofNat 24 (4 * n.toNat))
  cs : t.cs = realCs (s.entering.lockedWord 0 (s.idtr.base + BitVec.ofNat 24 (4 * n.toNat) + 2))
  regs : s.regs.onlyWord t.regs .sp (s.regs.sp - 6)
  ss : t.ss = s.ss
  ds : t.ds = s.ds
  es : t.es = s.es
  msw : t.msw = s.msw
  run : t.run = .running

theorem State.SameBus.lockedWord {s t : State} (h : s.SameBus t) (i : Nat) (a : Addr) :
    t.lockedWord i a = s.lockedWord i a := by
  simp only [State.lockedWord, h.busByte]

/-- The latches an entry leaves as they were, and the events it does not add to. -/
theorem State.realEntered_latches (s : State) (n : Byte) (kind : IntKind) (ret : RetAddr) :
    let t := s.realEntered n kind ret
    t.nmiPending = s.nmiPending ∧ t.nmiInService = s.nmiInService ∧ t.pxOverrun = s.pxOverrun ∧
      t.out = s.out ∧ t.boundaryStep = s.boundaryStep ∧ t.intInhibit = s.intInhibit ∧
      t.msw = s.msw := by
  simp [State.realEntered, State.afterEntry]

/-- No single-step trap follows an entry but one of an INT (R636). -/
theorem State.realEntered_tfAtStart (s : State) (n : Byte) {kind : IntKind} (ret : RetAddr)
    (hk : kind ≠ .int) : (s.realEntered n kind ret).tfAtStart = false := by
  cases kind
  case int => exact absurd rfl hk
  all_goals rfl

section
variable {s : State} {n : Byte} {kind : IntKind} {ret : RetAddr} (hp : s.msw.pe = false)
  (hok : s.pushOk 3 = true)
include hp hok

/-- A delivery in real address mode, the latches being those of w. -/
theorem State.deliver_real (hv : 4 * n.toNat + 3 ≤ s.idtr.limit.toNat)
    (hans : s.answersAt (s.idtr.base + BitVec.ofNat 24 (4 * n.toNat)) 4 = true) (w : State)
    (fail : RetAddr) (code : Option Word) :
    (s.latchedAs w).deliver n kind ret fail code =
      .next (((s.delivering w).realEntered n kind ret).release (s.latchedAs w)) := by
  have hfits : (s.latchedAs w).vectorFits n = true := (s.vectorFits_iff n).2 hv
  have hentry : (s.delivering w).realEntry n kind ret = _ := State.realEntry_of kind ret hp hok hans
  rw [State.deliver, State.interrupt_real (s := s.latchedAs w) _ _ _ _ hp hfits]
  exact congrArg (deliverOutcome (s.latchedAs w)) hentry

theorem State.entersTable_realEntered (w : State) :
    s.EntersTable (((s.delivering w).realEntered n kind ret).release (s.latchedAs w)) n ret := by
  have hpushed := State.pushed_realEntered (s := s.delivering w) n kind ret hp hok
  obtain ⟨hflags, hip, hcs, hregs, hss, hds, hes, hrun, -⟩ :=
    (s.delivering w).realEntered_spec n kind ret
  obtain ⟨-, -, -, -, -, -, hmsw⟩ := (s.delivering w).realEntered_latches n kind ret
  rw [(s.sameBus_delivering w).lockedWord] at hip hcs
  have honly := s.regs.onlyWord_sp (s.regs.sp - 6)
  generalize (s.delivering w).realEntered n kind ret = t at *
  exact ⟨State.pushed_congr (t := t) hpushed rfl fun _ => rfl, hflags, hip, hcs, hregs ▸ honly, hss,
    hds, hes, hmsw, hrun⟩

end

/-! ## INT n, INT 3 and INTO (R543 to R545) -/

theorem exec_into_of_clear {s : State} (h : s.flags.of = false) : exec .into s = .next s := by
  change execInto s = _
  rw [execInto, h]
  rfl

/-- Settles O42: each is a delivery that saves the address of the next instruction. -/
theorem softwareInterruptsInRealMode : Obligations.SoftwareInterruptsInRealMode := by
  refine fun s => ⟨exec_into_of_clear, ?_⟩
  intro i n hp hi hv hok a hans
  have h := State.entersTable_realEntered (n := n) (kind := .int) (ret := s.nextAddr) hp hok s
  exact ⟨_, (exec_softInt hi).trans (State.deliver_real hp hok hv hans s _ _), h.pushed, h.flags,
    h.ip, h.cs, h.regs, h.ss, h.ds, h.es, h.msw, h.run⟩

end Sys2Proof.Machine
end

section
/-! PROOFS. LEAVE and BOUND, and the protected-mode instructions in real address mode. -/

namespace Sys2Proof.Machine

/-! ## LEAVE and BOUND (R541, R542) -/

theorem exec_leave_of {s : State} (h : s.popReady s.regs.bp = true) :
    exec .leave s = .next { s with regs :=
      { s.regs with sp := s.regs.bp + 2, bp := s.busWord 0 (linear s.ss.base s.regs.bp) } } := by
  change s.finish (s.popWord s.regs.bp >>= _) = _
  rw [State.popWord_of_ready h]
  rfl

/-- BOUND compares the register with the two words of its operand, both bounds included. -/
theorem exec_bound_of {s : State} {m : Mem} (reg : RegNum)
    (h : s.wordsReady (s.memSeg m) (s.ea m) 2 = true) :
    let lo := s.busWord 0 (s.memAddr m)
    let hi := s.busWord 1 (linear (s.seg (s.memSeg m)).base (s.ea m + 2))
    let i := s.regs.get (reg16Of reg)
    exec (.bound reg m) s = s.finish (require (decide (lo.toInt ≤ i.toInt) &&
      decide (i.toInt ≤ hi.toInt)) 5 0#16 >>= fun _ => .ok s) := by
  change execBound reg m s = _
  rw [execBound, State.readPointer_of_ready h]
  rfl

/-- Settles O41: LEAVE is a pop at BP, BOUND one test. -/
theorem leaveAndBound : Obligations.LeaveAndBound := by
  refine ⟨fun s h => exec_leave_of h, fun s reg m h => ?_⟩
  simp only [signedValue_word, exec_bound_of reg h]
  refine ⟨fun ⟨hlo, hhi⟩ => ?inside, fun hout => ?outside⟩
  case inside =>
    rw [decide_eq_true hlo, decide_eq_true hhi]
    rfl
  case outside =>
    rw [← Bool.decide_and, decide_eq_false (by omega)]
    rfl

/-! ## Protected-mode instructions in real address mode (R590) -/

/-- The test of the mode comes first. -/
theorem State.checkProt_bind_raises {s : State} {α : Type} {f : Unit → Exec α}
    (hp : s.msw.pe = false) : (s.checkProt >>= f) = raise 6 0#16 :=
  bind_raises (by rw [State.checkProt, hp, require_false])

/-- Settles O58: each of the nine begins with the test of the mode. -/
theorem protectedModeInstructionsInRealMode : Obligations.ProtectedModeInstructionsInRealMode := by
  intro s rm reg hp i hi
  fin_cases hi <;> exact congrArg s.finish (State.checkProt_bind_raises hp)

end Sys2Proof.Machine
end

section
/-! PROOFS. WAIT and ESC. -/

namespace Sys2Proof.Machine

section
variable {s : State}

/-! ## The pins of the extension (R571) -/

theorem State.busyActive_of (h : s.platform.pxPresent = true → s.pins.busy = false) :
    s.busyActive = false := by
  cases hpx : s.platform.pxPresent with
  | true => rw [State.busyActive, hpx, h hpx, Bool.and_false]
  | false => rw [State.busyActive, hpx, Bool.false_and]

theorem State.errorActive_of (h : s.platform.pxPresent = true → s.pins.error = false) :
    s.errorActive = false := by
  cases hpx : s.platform.pxPresent with
  | true => rw [State.errorActive, hpx, h hpx, Bool.and_false]
  | false => rw [State.errorActive, hpx, Bool.false_and]

/-! ## WAIT (R571, R576) -/

theorem exec_wait_notAvailable (hts : s.msw.ts = true) (hmp : s.msw.mp = true) :
    exec .wait s = s.takeException 7#8 0#16 .unchanged := by
  change execWait s = _
  rw [execWait, hts, hmp]
  rfl

section
variable (h : ¬(s.msw.ts = true ∧ s.msw.mp = true))
include h

/-- WAIT where exception 7 does not come first: it examines BUSY, then ERROR. -/
theorem exec_wait_available : exec .wait s =
    if s.busyActive then .next s.stall
    else if s.errorActive then s.extensionError
    else .next s := by
  change execWait s = _
  rw [execWait, if_neg (by simpa using h)]
  rfl

theorem exec_wait_busy (hpx : s.platform.pxPresent = true) (hbusy : s.pins.busy = true) :
    exec .wait s = .next s.stall := by
  rw [exec_wait_available h, if_pos (by rw [State.busyActive, hpx, hbusy]; rfl)]

theorem exec_wait_error (hpx : s.platform.pxPresent = true) (hbusy : s.pins.busy = false)
    (herror : s.pins.error = true) : exec .wait s = s.extensionError := by
  rw [exec_wait_available h, State.busyActive_of fun _ => hbusy, if_neg Bool.false_ne_true,
    if_pos (by rw [State.errorActive, hpx, herror]; rfl)]

theorem exec_wait_done
    (hquiet : s.platform.pxPresent = true → s.pins.busy = false ∧ s.pins.error = false) :
    exec .wait s = .next s := by
  rw [exec_wait_available h, State.busyActive_of fun hpx => (hquiet hpx).1,
    State.errorActive_of fun hpx => (hquiet hpx).2]
  rfl

end

/-! ## ESC (R575, R576) -/

variable {ttt lll : BitVec 3}

theorem exec_esc_notAvailable (rm : RM) (h : s.msw.em = true ∨ s.msw.ts = true) :
    exec (.esc ttt lll rm) s = s.takeException 7#8 0#16 .unchanged := by
  change execEsc ttt lll rm s = _
  rw [execEsc, if_pos (by simpa using h)]
  rfl

/-- An ESC that executes is handed over. -/
theorem exec_esc_available {rm : RM} (hem : s.msw.em = false) (hts : s.msw.ts = false)
    (hquiet : s.platform.pxPresent = true → s.pins.busy = false ∧ s.pins.error = false)
    (hcheck : s.checkEsc (ttt ++ lll) rm = .ok ()) :
    exec (.esc ttt lll rm) s =
      .next (s.handOver (ttt ++ lll) (encode (.esc ttt lll rm)) rm) := by
  change execEsc ttt lll rm s = _
  rw [execEsc, hem, hts, if_neg (by decide), hcheck, State.busyActive_of fun hpx => (hquiet hpx).1,
    State.errorActive_of fun hpx => (hquiet hpx).2]
  rfl

/-- The operand of an ESC is admitted where both directions are, and in real address mode. -/
theorem State.checkEsc_of (op : BitVec 6) {m : Mem}
    (h : s.msw.pe = true → (s.seg (s.memSeg m)).permits .read (s.ea m) 2 = true ∧
      (s.seg (s.memSeg m)).permits .write (s.ea m) 2 = true) :
    s.checkEsc op (.mem m) = .ok () := by
  refine require_of ?_ _ _
  cases hp : s.msw.pe with
  | true => simp [State.escStartOk, hp, h hp]
  | false => simp [State.escStartOk, hp]

end

/-- Settles O54: WAIT by what BUSY and ERROR are, an interrupt 16 being a delivery through the
table, and ESC by what is handed over. -/
theorem processorExtensionInstructions : Obligations.ProcessorExtensionInstructions := by
  refine ⟨fun s havail hpx => ⟨exec_wait_busy havail hpx, ?error⟩, ?esc⟩
  case error =>
    intro hbusy herror hp hv hok hans
    have h := State.entersTable_realEntered (n := 16#8) (kind := .external) (ret := s.here) hp hok s
    have haddr : s.idtr.base + 64 + 2 = s.idtr.base + 66 := BitVec.add_assoc _ 64#24 2#24
    exact ⟨_, (exec_wait_error havail hpx hbusy herror).trans
      (State.deliver_real (n := 16#8) hp hok hv hans s s.here none), h.pushed, h.ip, haddr ▸ h.cs,
      h.flags⟩
  case esc =>
    intro s ttt lll m hem hts hquiet hpermits
    exact ⟨_, Config.escStores (ttt ++ lll),
      exec_esc_available hem hts hquiet (State.checkEsc_of _ hpermits), rfl⟩

end Sys2Proof.Machine
end

section
/-! PROOFS. No delivery clears TS, and exception 7. -/

namespace Sys2Proof.Machine

/-! ## The states an operation can stop in -/

/-- Every state a stop goes on from is in P, that at the start of the instruction apart. -/
def Stop.Within (P : State → Prop) : Stop → Prop
  | .exc _ _ .unchanged => True
  | .exc _ _ (.partly t) => P t
  | .exc _ _ (.inNewTask t) => P t
  | .shutdown t => P t
  | .stuck t => P t
  | .refuse _ => True

/-- An operation answers with Q, or stops within P. -/
def Within {α : Type} (P : State → Prop) (Q : α → Prop) : Exec α → Prop
  | .ok a => Q a
  | .error e => e.Within P

/-- An operation stops within P where it does not answer. -/
abbrev StopsWithin {α : Type} (P : State → Prop) (x : Exec α) : Prop := Within P (fun _ => True) x

section
variable {α β : Type} {P : State → Prop} {Q : α → Prop} {R : β → Prop} {x : Exec α}
  {f : α → Exec β}

theorem Within.bind (hx : Within P Q x) (hf : ∀ a, Q a → Within P R (f a)) :
    Within P R (x >>= f) := by
  cases x with
  | ok a => exact hf a hx
  | error e => exact hx

theorem Within.read (hx : StopsWithin P x) (hf : ∀ a, Within P R (f a)) : Within P R (x >>= f) :=
  hx.bind fun a _ => hf a

theorem stopsWithin_require (ok : Bool) (v : Nat) (code : Word) :
    StopsWithin P (require ok v code) := by
  cases ok <;> trivial

/-- The tests that come before an answer. -/
theorem within_require_bind {ok : Bool} {v : Nat} {code : Word} {f : Unit → Exec β}
    (hf : Within P R (f ())) : Within P R (require ok v code >>= f) :=
  (stopsWithin_require ok v code).read fun _ => hf

theorem within_inTask {t : State} {r : Exec α} (ht : P t) (hr : Within P Q r) :
    Within P Q (inTask t r) := by
  unfold inTask
  split
  · exact ht
  · exact hr

end

/-! ## Reads -/

theorem stopsWithin_checkTr {P : State → Prop} (s : State) (ext : Word) :
    StopsWithin P (s.checkTr ext) := by
  unfold State.checkTr
  split
  · exact stopsWithin_require _ _ _
  · trivial

section
variable {P : State → Prop} {s : State} (hs : P s)
include hs

theorem stopsWithin_await (a : Addr) (n : Nat) : StopsWithin P (s.await a n) := by
  unfold State.await
  split
  · trivial
  · exact hs

theorem stopsWithin_fetchDesc (i : Nat) (a : Addr) : StopsWithin P (s.fetchDesc i a) :=
  (stopsWithin_await hs a 6).read fun _ => trivial

theorem stopsWithin_descriptor (i : Nat) (sel : Word) (v : Nat) (code : Word) :
    StopsWithin P (s.descriptor i sel v code) := by
  unfold State.descriptor
  split
  · exact (stopsWithin_fetchDesc hs _ _).read fun _ => trivial
  · trivial

theorem stopsWithin_dataDesc (i : Nat) (cpl : BitVec 2) (sel : Word) (bad : Nat) (ext : Word) :
    StopsWithin P (s.dataDesc i cpl sel bad ext) := by
  unfold State.dataDesc
  split
  · trivial
  · exact (stopsWithin_descriptor hs _ _ _ _).read fun _ => within_require_bind <|
      within_require_bind <| within_require_bind <| within_require_bind trivial

theorem stopsWithin_stackDesc (i : Nat) (cpl : BitVec 2) (sel : Word) (bad : Nat) (ext : Word) :
    StopsWithin P (s.stackDesc i cpl sel bad ext) :=
  within_require_bind <| (stopsWithin_descriptor hs _ _ _ _).read fun _ => within_require_bind <|
    within_require_bind <| within_require_bind <| within_require_bind trivial

theorem stopsWithin_innerStack (level : BitVec 2) (ext : Word) :
    StopsWithin P (s.innerStack level ext) :=
  within_require_bind <| (stopsWithin_await hs _ _).read fun _ =>
    (stopsWithin_stackDesc hs _ _ _ _ _).read fun _ => trivial

theorem stopsWithin_gateTarget (csel ext : Word) : StopsWithin P (s.gateTarget csel ext) :=
  within_require_bind <| (stopsWithin_descriptor hs _ _ _ _).read fun _ => within_require_bind <|
    within_require_bind <| within_require_bind trivial

theorem stopsWithin_localTaskVector (tsel : Word) (gate : Bool) (bad : Nat) :
    StopsWithin P (s.localTaskVector tsel gate bad) := by
  have hnames : StopsWithin P (s.namesLocalTss tsel) := by
    unfold State.namesLocalTss
    split
    · exact (stopsWithin_fetchDesc hs _ _).read fun _ => trivial
    · trivial
  unfold State.localTaskVector
  split
  · exact hnames.read fun _ => trivial
  · trivial

theorem stopsWithin_taskDesc (tsel : Word) (kind : SwitchKind) (gate : Bool) (ext : Word) :
    StopsWithin P (s.taskDesc tsel kind gate ext) :=
  within_require_bind <| (stopsWithin_localTaskVector hs _ _ _).read fun _ => within_require_bind <|
    (stopsWithin_descriptor hs _ _ _ _).read fun _ => within_require_bind <| within_require_bind <|
    within_require_bind trivial

theorem stopsWithin_awaitBusy (kind : SwitchKind) : StopsWithin P (s.awaitBusy kind) := by
  unfold State.awaitBusy
  split
  · exact stopsWithin_await hs _ _
  · trivial

end

/-! ## TS through a delivery (R249, R640, R645) -/

theorem State.putData_msw (s : State) (r : SReg) (sel : Word) (d : Option (Addr × Desc)) :
    (s.putData r sel d).msw = s.msw := by
  cases d with
  | none => exact s.setSeg_msw r _
  | some d => exact (State.setSeg_msw _ r _).trans (s.setAccessed_msw d.1 d.2)

/-- TS is 1. -/
def State.TsSet (s : State) : Prop := s.msw.ts = true

section
variable {s : State} (hs : s.TsSet)
include hs

/-- An update that leaves the machine status word leaves TS. -/
theorem State.TsSet.of_msw {t : State} (h : t.msw = s.msw) : t.TsSet :=
  (congrArg Msw.ts h).trans hs

theorem tsSet_push (v : Word) : Within State.TsSet State.TsSet (s.push v) := by
  have hpushed : (s.pushRaw v).TsSet := hs.of_msw (s.pushRaw_msw v)
  unfold State.push
  split <;> split
  · exact hpushed
  · trivial
  · exact hs
  · exact hpushed

theorem tsSet_taskLdt (ext : Word) : Within State.TsSet State.TsSet (s.taskLdt ext) := by
  unfold State.taskLdt
  dsimp only
  split
  · exact hs
  · exact within_require_bind <| (stopsWithin_descriptor hs _ _ _ _).read fun _ =>
      within_require_bind <| within_require_bind hs

theorem tsSet_taskCs (ext : Word) : Within State.TsSet State.TsSet (s.taskCs ext) :=
  within_require_bind <| (stopsWithin_descriptor hs _ _ _ _).read fun d => within_require_bind <|
    within_require_bind <| within_require_bind (hs.of_msw (s.loadCs_msw _ d))

theorem tsSet_taskSs (ext : Word) : Within State.TsSet State.TsSet (s.taskSs ext) :=
  (stopsWithin_stackDesc hs _ _ _ _ _).read fun d => hs.of_msw (s.putStack_msw _ d)

theorem tsSet_taskData (i : Nat) (r : SReg) (ext : Word) :
    Within State.TsSet State.TsSet (s.taskData i r ext) :=
  (stopsWithin_dataDesc hs _ _ _ _ _).read fun d => hs.of_msw (s.putData_msw r _ d)

/-- A part of the validation of a new task, the parts before it having kept TS. -/
theorem tsSet_inTask_bind {r : Exec State} {f : State → Exec State}
    (hr : Within State.TsSet State.TsSet r)
    (hf : ∀ u : State, u.TsSet → Within State.TsSet State.TsSet (f u)) :
    Within State.TsSet State.TsSet (inTask s r >>= f) := (within_inTask hs hr).bind hf

theorem tsSet_validateTask (ext : Word) : Within State.TsSet State.TsSet (s.validateTask ext) :=
  tsSet_inTask_bind hs (tsSet_taskLdt hs ext) fun _ h1 =>
  tsSet_inTask_bind h1 (tsSet_taskCs h1 ext) fun _ h2 =>
  tsSet_inTask_bind h2 (tsSet_taskSs h2 ext) fun _ h3 =>
  tsSet_inTask_bind h3 (tsSet_taskData h3 29 .ds ext) fun _ h4 =>
  tsSet_inTask_bind h4 (tsSet_taskData h4 30 .es ext) fun _ h5 =>
  Within.read (within_inTask h5 (stopsWithin_require _ _ _)) fun _ => h5

/-- A task switch sets TS (R249 step 7). -/
theorem tsSet_taskSwitch (tsel : Word) (kind : SwitchKind) (gate : Bool) (ext retIp : Word) :
    Within State.TsSet State.TsSet (s.taskSwitch tsel kind gate ext retIp) := by
  refine (stopsWithin_taskDesc hs _ _ _ _).read fun d => (stopsWithin_checkTr s _).read fun _ => ?_
  have hheld : (if kind = .iret then s else s.hold d.2).TsSet := by
    split
    · exact hs
    · exact hs
  have hsaved := hheld.of_msw (State.saveTask_msw _ kind retIp)
  have hbusy := (hsaved.of_msw (State.clearBusy_msw _ kind)).of_msw
    (State.markBusy_msw _ kind d.1 d.2)
  refine (stopsWithin_awaitBusy hsaved kind).read fun _ =>
    (stopsWithin_await (s := State.release _ s) hbusy _ _).read fun _ => ?_
  exact (tsSet_validateTask (s := State.enterTask _ kind tsel d.2) rfl ext).bind fun _ ht => ht

theorem tsSet_enterGate (r : State) (g : Desc) (c : Addr × Desc) (level : BitVec 2)
    (kind : IntKind) : (r.enterGate s g c level kind).TsSet :=
  hs.of_msw (s.loadCs_msw (withRpl g.gateSelector level) c)

theorem tsSet_gateEntry (g : Desc) (kind : IntKind) (ret : RetAddr) (code : Option Word) :
    Within State.TsSet State.TsSet (s.gateEntry g kind ret code) := by
  refine (stopsWithin_gateTarget hs _ _).read fun c => ?_
  have hheld := hs.of_msw (s.holdAccessed_msw c.2)
  dsimp only
  split
  · refine (stopsWithin_innerStack hheld _ _).read fun k => within_require_bind <|
      within_require_bind ?_
    have hpushed := (hheld.of_msw (State.switchStack_msw _ k)).of_msw
      (State.pushAllRaw_msw _ ([s.ss.sel, s.regs.sp] ++ s.entryFrame ret code))
    exact tsSet_enterGate hpushed s g c (arDpl c.2.ar) kind
  · refine within_require_bind <| within_require_bind ?_
    split
    · exact tsSet_enterGate (hheld.of_msw (State.pushAllRaw_msw _ (s.entryFrame ret code)))
        s g c s.cpl kind
    · exact hs

theorem tsSet_taskEntry (g : Desc) (kind : IntKind) (ret : RetAddr) (code : Option Word) :
    Within State.TsSet State.TsSet (s.taskEntry g kind ret code) := by
  refine (tsSet_taskSwitch hs g.gateSelector .int true kind.ext ret.ip).bind fun t ht => ?_
  have hnmi : (if kind = .nmi then t.setFlags { t.flags with intf := false } else t).TsSet := by
    split
    · exact ht
    · exact ht
  cases code with
  | none => exact hnmi
  | some c => exact tsSet_inTask_bind hnmi (tsSet_push hnmi c) fun _ hu => hu

theorem tsSet_protEntry (n : Byte) (kind : IntKind) (ret : RetAddr) (code : Option Word) :
    Within State.TsSet State.TsSet (s.protEntry n kind ret code) := by
  refine within_require_bind <| (stopsWithin_fetchDesc hs _ _).read fun g => within_require_bind <|
    within_require_bind <| within_require_bind ?_
  split
  · exact tsSet_taskEntry hs g kind ret code
  · exact tsSet_gateEntry hs g kind ret code

/-- TS is 1 in the state an exception is delivered in. -/
theorem Left.tsSet_stateOr {v : Byte} {code : Word} {left : Left}
    (h : (Stop.exc v code left).Within State.TsSet) : (left.stateOr s).TsSet := by
  cases left with
  | unchanged => exact hs
  | partly t => exact h
  | inNewTask t => exact h

theorem tsSet_realEntry (n : Byte) (kind : IntKind) (ret : RetAddr) :
    Within State.TsSet State.TsSet (s.realEntry n kind ret) := by
  refine (stopsWithin_await hs _ _).read fun _ => (tsSet_push hs _).bind fun a ha => ?_
  have hflags : (a.setFlags { a.flags with intf := false, tf := false }).TsSet := ha
  exact (tsSet_push hflags ret.cs).bind fun b hb => (tsSet_push hb ret.ip).bind fun _ hc => hc

theorem tsSet_realInterrupt (n : Byte) (kind : IntKind) (ret fail : RetAddr) :
    Within State.TsSet State.TsSet (s.realInterrupt n kind ret fail) := by
  unfold State.realInterrupt
  split
  · exact tsSet_realEntry hs n kind ret
  · split
    · exact hs
    · exact tsSet_realEntry hs _ _ fail

end

/-- A delivery, and those of the exceptions raised inside it (R660). -/
theorem tsSet_protInterrupt (fuel : Nat) {s : State} (hs : s.TsSet) (n : Byte) (kind : IntKind)
    (ret fail : RetAddr) (code : Option Word) :
    Within State.TsSet State.TsSet (State.protInterrupt fuel s n kind ret fail code) := by
  induction fuel generalizing s n kind ret fail code with
  | zero => exact hs
  | succ fuel ih =>
    have hentry := tsSet_protEntry hs n kind ret code
    unfold State.protInterrupt
    split
    next v c left he =>
      rw [he] at hentry
      have hleft := Left.tsSet_stateOr hs hentry
      dsimp only
      split
      · exact hleft
      · split
        · exact ih (s := (left.stateOr s).entering) hleft _ _ _ _ _
        · exact ih (s := (left.stateOr s).entering) hleft _ _ _ _ _
    next => exact hentry

theorem tsSet_interrupt {s : State} (hs : s.TsSet) (n : Byte) (kind : IntKind) (ret fail : RetAddr)
    (code : Option Word) : Within State.TsSet State.TsSet (s.interrupt n kind ret fail code) := by
  unfold State.interrupt
  split
  · exact tsSet_protInterrupt 5 (s := s.entering) hs n kind ret fail code
  · exact tsSet_realInterrupt (s := s.entering) hs n kind ret fail

/-- No delivery clears TS. -/
theorem tsSet_deliver {s t : State} (hs : s.TsSet) {n : Byte} {kind : IntKind} {ret fail : RetAddr}
    {code : Option Word} (h : s.deliver n kind ret fail code = .next t) : t.TsSet := by
  have hint := tsSet_interrupt hs n kind ret fail code
  unfold State.deliver at h
  cases hx : s.interrupt n kind ret fail code with
  | ok u =>
    rw [hx] at h hint
    cases h
    exact hint
  | error e =>
    rw [hx] at h hint
    cases e with
    | exc v c left => cases h; exact Left.tsSet_stateOr hs hint
    | shutdown u => cases h; exact hint
    | stuck u => cases h; exact hint
    | refuse r => cases h

/-- Settles O53: ESC and WAIT by their tests, exception 7 by the entry through the table, and TS by
what no delivery does. -/
theorem processorExtensionNotAvailable : Obligations.ProcessorExtensionNotAvailable := by
  refine fun s ttt lll rm => ⟨exec_esc_notAvailable rm,
    fun ⟨hts, hmp⟩ => exec_wait_notAvailable hts hmp, fun hquiet => ⟨?esc, fun havail => exec_wait_done havail hquiet⟩, ?entry, ?ts⟩
  case esc =>
    rintro hem hts n rfl
    exact exec_esc_available hem hts hquiet rfl
  case entry =>
    intro hp hv hok hans
    obtain ⟨t, ht, hpushed, -⟩ := exceptionEntryInRealMode s 7#8 0#16 hp hv hok hans
    exact ⟨t, ht, hpushed⟩
  case ts =>
    intro t ht hts
    exact tsSet_deliver (s := { s with tfAtStart := false, intInhibit := false }) hts ht

end Sys2Proof.Machine
end

section
/-! PROOFS. Interrupts between two instructions. -/

namespace Sys2Proof.Machine

section
variable {s : State} {e : BoundaryEvent}

/-! ## The step that takes an event (R637) -/

theorem State.boundary_of_event (hpereq : s.servePereq = none) (he : s.nextEvent = some e) :
    s.boundary = some (s.deliverEvent e) := by
  rw [State.boundary, hpereq, he]
  rfl

/-- A running machine between two instructions, or a halted one, takes the event. -/
theorem State.act_of_event (hrun : s.run = .running ∧ s.pre = Prefixes.none ∨ s.run = .halted)
    (hpereq : s.servePereq = none) (he : s.nextEvent = some e) : s.act = s.deliverEvent e := by
  have hb := State.boundary_of_event hpereq he
  obtain ⟨hrun, hpre⟩ | hrun := hrun
  · rw [State.act, hrun]
    dsimp only
    rw [State.runStep, if_pos hpre, hb]
  · rw [State.act, hrun]
    dsimp only
    rw [State.haltStep, hb]

/-! ## The order of the events (R637) -/

/-- Without the interrupt inhibit an event is due where it is requested and not held off. -/
theorem State.nextEvent_eq (h : s.intInhibit = false) : s.nextEvent =
    if s.tfAtStart = true ∧ s.boundaryStep < 2 then some .trap
    else if s.nmiPending = true ∧ s.nmiInService = false ∧ s.boundaryStep < 3 then some .nmi
    else if s.pxOverrun = true ∧ s.nmiInService = false ∧ s.boundaryStep < 4 then some .overrun
    else if (s.pins.intr = true ∧ s.flags.intf = true ∧ s.nmiInService = false ∧
      s.boundaryStep < 5) ∧ s.intrDue = true then some .intr
    else none := by
  have hshadow : s.shadowed = false := by rw [State.shadowed, h, Bool.false_and]
  have hif (p : BoundaryEvent → Bool) (e : BoundaryEvent) (es : List BoundaryEvent) :
      (e :: es).find? p = if p e = true then some e else es.find? p := by
    rw [List.find?_cons]
    cases p e <;> rfl
  simp only [State.nextEvent, hif, Bool.and_eq_true, decide_eq_true_eq, List.find?_nil]
  simp only [State.due, hshadow, BoundaryEvent.order, Bool.not_false, Bool.and_true,
    Bool.and_eq_true, Bool.not_eq_true', and_comm, and_left_comm, and_assoc]

theorem State.intrDue_of (h : s.run = .halted ∨ s.intrHeld = true) : s.intrDue = true := by
  obtain h | h := h <;> simp [State.intrDue, h]

/-! ## The entry of an event in real address mode (R640) -/

/-- The latch an event answers is clear, the others are as they were, and INTR has read its
vector. -/
theorem State.accept_latches (s : State) (e : BoundaryEvent) :
    let t := s.accept e
    t.nmiPending = (s.nmiPending && e != .nmi) ∧ t.nmiInService = (s.nmiInService || e == .nmi) ∧
      t.pxOverrun = (s.pxOverrun && e != .overrun) ∧
      t.out = (if e = .intr then [.intAck s.pins.vector] else []) ++ s.out ∧
      t.boundaryStep = e.order ∧ t.intInhibit = s.intInhibit := by
  cases e <;> simp [State.accept, State.emit]

theorem State.eventVector_of {n : Byte} (h : e = .trap ∧ n = 1#8 ∨ e = .nmi ∧ n = 2#8 ∨
    e = .overrun ∧ n = 9#8 ∨ e = .intr ∧ n = s.pins.vector) : s.eventVector e = n := by
  obtain ⟨rfl, rfl⟩ | ⟨rfl, rfl⟩ | ⟨rfl, rfl⟩ | ⟨rfl, rfl⟩ := h <;> rfl

theorem State.deliverEvent_real (hp : s.msw.pe = false)
    (hv : 4 * (s.eventVector e).toNat + 3 ≤ s.idtr.limit.toNat) (hok : s.pushOk 3 = true)
    (hans : s.answersAt (s.idtr.base + BitVec.ofNat 24 (4 * (s.eventVector e).toNat)) 4 = true) :
    s.deliverEvent e = .next (((s.delivering (s.accept e)).realEntered (s.eventVector e) e.kind
      s.nextAddr).release (s.latchedAs (s.accept e))) := by
  rw [State.deliverEvent_eq]
  exact State.deliver_real hp hok hv hans (s.accept e) s.nextAddr none

end

/-- Settles O47: the step by what is done at a boundary, the order by `State.nextEvent_eq`, and the
entries as deliveries through the table. -/
theorem boundaryEvents : Obligations.BoundaryEvents := by
  refine ⟨fun s e hr hd hrun hpereq he => ?step, fun s => ⟨rfl, rfl⟩, fun s h => ?order, ?entry⟩
  case step =>
    rw [step_of_no_reset hr hd]
    exact congrArg (fun o => s.sample.settled (s.sample.answered o))
      (State.act_of_event hrun hpereq he)
  case order =>
    intro trap nmi overrun intr
    rw [State.nextEvent_eq h]
    refine ⟨fun h1 => if_pos h1, fun h1 h2 => ?_, fun h1 h2 h3 => ?_, fun h1 h2 h3 h4 hdue => ?_,
      fun h1 h2 h3 h4 => ?_⟩
    · rw [if_neg h1, if_pos h2]
    · rw [if_neg h1, if_neg h2, if_pos h3]
    · rw [if_neg h1, if_neg h2, if_neg h3, if_pos ⟨h4, State.intrDue_of hdue⟩]
    · rw [if_neg h1, if_neg h2, if_neg h3, if_neg fun h5 => h4 h5.1]
  case entry =>
    intro s e n hp hn hv hok a hans
    obtain rfl := State.eventVector_of hn
    have h := State.entersTable_realEntered (n := s.eventVector e) (kind := e.kind)
      (ret := s.nextAddr) hp hok (s.accept e)
    obtain ⟨hpend, hserv, hover, hout, hstep, hinh, -⟩ :=
      (s.delivering (s.accept e)).realEntered_latches (s.eventVector e) e.kind s.nextAddr
    obtain ⟨hpend', hserv', hover', hout', hstep', hinh'⟩ := s.accept_latches e
    have hdeliver := State.deliverEvent_real hp hv hok hans
    have htf := (s.delivering (s.accept e)).realEntered_tfAtStart (s.eventVector e) s.nextAddr
      e.kind_ne_int
    generalize (s.delivering (s.accept e)).realEntered (s.eventVector e) e.kind s.nextAddr = t at *
    exact ⟨_, hdeliver, h.pushed, h.flags, h.ip, h.cs, h.regs, h.ss, h.ds, h.es, h.msw, h.run, htf,
      hpend.trans hpend', hserv.trans hserv', hover.trans hover', hout.trans hout',
      hstep.trans hstep', hinh.trans hinh'⟩

end Sys2Proof.Machine
end

section
/-! PROOFS. LLDT and LTR. -/

namespace Sys2Proof.Machine

/-! ## The busy type (R157, R598) -/

/-- A task state segment made busy is of type 3 (R157). -/
theorem arSystemType_busy {b : Byte} (h : arSystemType b = some 1) :
    arSystemType (b ||| 2#8) = some 3 := by
  revert b
  decide

/-- The state after LTR has loaded the descriptor d, read at a. -/
def State.taskLoaded (s : State) (sel : Word) (a : Addr) (d : Desc) : State :=
  { (s.writeByte (a + 5) (d.ar ||| 2#8)).lockedSince s d.time with
    tr := { sel := sel, base := d.base, limit := d.limit, loaded := true } }

/-- Loading TR stores the busy type in the descriptor and nothing else (R598). -/
theorem State.taskLoaded_mem (s : State) (sel : Word) (a : Addr) {d : Desc}
    (htype : arSystemType d.ar = some 1) :
    (s.isRam (a + 5) 1 = true →
        arSystemType ((s.taskLoaded sel a d).readByte (a + 5)) = some 3) ∧
      s.sameMemoryBut (s.taskLoaded sel a d) (a + 5) 1 := by
  have hbyte (b : Addr) : (s.taskLoaded sel a d).readByte b =
      (s.writeByte (a + 5) (d.ar ||| 2#8)).readByte b := rfl
  refine ⟨fun hram => ?_, fun b hb => ?_⟩
  · rw [hbyte, State.readByte_writeByte_same _ (State.isRam_one hram)]
    exact arSystemType_busy htype
  · rw [hbyte]
    exact State.readByte_writeByte_ne _ (by simpa [State.apart] using hb 0 (by decide))

section
variable {s : State} {sel : Word} {a : Addr}

/-! ## The descriptor (R596, R598) -/

theorem State.systemDesc_of {type : Nat} (hti : sel.getLsbD 2 = false)
    (ha : s.descAddr sel = some a) (hans : s.answersAt a 6 = true)
    (htype : arSystemType (s.busDesc 2 a).ar = some type)
    (hpres : arPresent (s.busDesc 2 a).ar = true) :
    s.systemDesc sel type = .ok (a, s.busDesc 2 a) := by
  simp only [State.systemDesc, hti, Bool.not_false, require_true, Exec.ok_bind,
    State.descriptor_found ha hans, htype, BEq.rfl, hpres]

/-! ## The loads -/

variable {rm : RM} (hp : s.msw.pe = true) (hc : s.cpl = 0#2)
  (hready : s.rmReady .read .word rm = true)
include hp hc hready

theorem exec_lldt_of_ready : exec (.lldt rm) s = s.finish
    (if isNull (s.rmValue .word rm) then
      .ok { s with ldtr := { s.ldtr with sel := s.rmValue .word rm, usable := false } }
    else s.systemDesc (s.rmValue .word rm) 2 >>= fun d => .ok { s with ldtr :=
      { sel := s.rmValue .word rm, base := d.2.base, limit := d.2.limit, usable := true } }) := by
  change execLldt rm s = _
  rw [execLldt, State.checkProt_of hp, Exec.ok_bind, State.checkCpl0_of (.inr hc), Exec.ok_bind,
    State.readRM_of_ready hready]
  rfl

theorem exec_ltr_of_ready : exec (.ltr rm) s = s.finish
    (require (!isNull (s.rmValue .word rm)) 13 0#16 >>= fun _ =>
      s.systemDesc (s.rmValue .word rm) 1 >>= fun d =>
        .ok (s.taskLoaded (s.rmValue .word rm) d.1 d.2)) := by
  change execLtr rm s = _
  rw [execLtr, State.checkProt_of hp, Exec.ok_bind, State.checkCpl0_of (.inr hc), Exec.ok_bind,
    State.readRM_of_ready hready]
  rfl

theorem exec_lldt_of (hsel : s.rmValue .word rm = sel) (hn : isNull sel = false)
    (hd : s.systemDesc sel 2 = .ok (a, s.busDesc 2 a)) :
    exec (.lldt rm) s = .next { s with ldtr :=
      { sel := sel, base := (s.busDesc 2 a).base, limit := (s.busDesc 2 a).limit
        usable := true } } := by
  rw [exec_lldt_of_ready hp hc hready, hsel, hn, hd]
  rfl

theorem exec_ltr_of (hsel : s.rmValue .word rm = sel) (hn : isNull sel = false)
    (hd : s.systemDesc sel 1 = .ok (a, s.busDesc 2 a)) :
    exec (.ltr rm) s = .next (s.taskLoaded sel a (s.busDesc 2 a)) := by
  rw [exec_ltr_of_ready hp hc hready, hsel, hn, hd]
  rfl

end

/-- Settles O56: both read a selector and a system descriptor of the GDT; LTR stores its busy
type. -/
theorem localTableAndTaskRegisterLoads : Obligations.LocalTableAndTaskRegisterLoads := by
  intro s rm hp hc hready sel
  refine ⟨fun hn => ⟨?nullLldt, ?nullLtr⟩, ?loads⟩
  case nullLldt =>
    rw [exec_lldt_of_ready hp hc hready, if_pos hn]
    rfl
  case nullLtr =>
    rw [exec_ltr_of_ready hp hc hready, hn]
    rfl
  case loads =>
    intro a hn hti ha hans d hpres
    refine ⟨fun htype => ?_, fun htype => ?_⟩
    · exact exec_lldt_of hp hc hready rfl hn (State.systemDesc_of hti ha hans htype hpres)
    · obtain ⟨hbusy, hframe⟩ := s.taskLoaded_mem sel a htype
      exact ⟨_, exec_ltr_of hp hc hready rfl hn (State.systemDesc_of hti ha hans htype hpres), rfl,
        rfl, rfl, hbusy, hframe, rfl⟩

end Sys2Proof.Machine
end

section
/-! PROOFS. LAR, LSL, VERR, VERW and ARPL. -/

namespace Sys2Proof.Machine

/-! ## The tests on a descriptor (R606 to R608, R610, R611) -/

theorem State.visible_iff (s : State) (sel : Word) (d : Desc) :
    s.visible sel d = true ↔ testVisible s sel d := by
  simp [State.visible, testVisible, arCode, maxPl_le, and_assoc]

theorem larType_iff (d : Desc) : larType d = true ↔
    arSegment d.ar = true ∨ arSystemType d.ar ∈ [some 1, some 2, some 3, some 4, some 5] := by
  unfold larType arSystemType
  cases arSegment d.ar with
  | true => simp
  | false => simp; omega

theorem lslType_iff (d : Desc) : lslType d = true ↔
    arSegment d.ar = true ∨ arSystemType d.ar ∈ [some 1, some 2, some 3] := by
  unfold lslType arSystemType
  cases arSegment d.ar with
  | true => simp
  | false => simp; omega

theorem verrType_iff (d : Desc) : verrType d = true ↔
    arSegment d.ar = true ∧ (arExec d.ar = true → arRw d.ar = true) := by
  simp [verrType, imp_iff_not_or]

/-- What LAR loads: the access rights in the high byte. -/
theorem mkWord_zero_low (b : Byte) : mkWord 0#8 b = b.setWidth 16 <<< 8 := by
  revert b
  decide

/-! ## A selector test (R606) -/

/-- t with the result of a selector test, where it has one. -/
def State.putResult (t : State) (reg : RegNum) : Option Word → State
  | some v => t.setReg .word reg v
  | none => t

/-- s after a selector test of the descriptor d, read at a, that succeeds or not. -/
def State.tested (s : State) (a : Addr) (d : Desc) (reg : RegNum) (result : Option Word)
    (ok : Bool) : State :=
  (if ok then (s.probeAccessed (a, d)).putResult reg result else s.probeAccessed (a, d)).setZf ok

section
variable {s : State} {sel : Word} {a : Addr} {ok : Desc → Bool} {found : State → Desc → State}

theorem State.selectorTest_none (h : isNull sel = true ∨ s.descAddr sel = none) :
    s.selectorTest sel ok found = .ok (s.setZf false) := by
  have hprobe : s.probe sel = .ok none := by
    obtain h | h := h
    · exact if_pos h
    · rw [State.probe, h, ite_self]
  exact Exec.bind_of_ok hprobe

theorem State.selectorTest_found {reg : RegNum} {result : Option Word} (hn : isNull sel = false)
    (ha : s.descAddr sel = some a) (hans : s.answersAt a 6 = true)
    (hfound : ∀ t : State, found t (s.busDesc 2 a) = t.putResult reg result) :
    s.selectorTest sel ok found =
      .ok (s.tested a (s.busDesc 2 a) reg result (ok (s.busDesc 2 a))) := by
  have hprobe : s.probe sel = .ok (some (a, s.busDesc 2 a)) := by
    rw [State.probe, hn, ha]
    exact Exec.bind_of_ok ((State.fetchDesc_eq_ok _ _ _ _).2 ⟨hans, rfl⟩)
  refine (Exec.bind_of_ok hprobe).trans ?_
  dsimp only
  rw [hfound, State.tested]
  cases ok (s.busDesc 2 a) <;> rfl

/-- The four tests read a selector first. -/
theorem State.selector_bind {α : Type} {rm : RM} (hp : s.msw.pe = true)
    (hready : s.rmReady .read .word rm = true) (f : Word → Exec α) :
    (do s.checkProt; let sel ← s.readRM .word rm; f sel) = f (s.rmValue .word rm) :=
  (Exec.bind_of_ok (State.checkProt_of hp)).trans (Exec.bind_of_ok (State.readRM_of_ready hready))

end

/-- A selector test may set the accessed bit of the descriptor, and changes nothing else but its
register and ZF (R160). -/
theorem State.probeAccessed_spec (s : State) (a : Addr) (d : Desc) :
    let t := s.probeAccessed (a, d)
    t.regs = s.regs ∧ t.flags = s.flags ∧ s.sameMemoryBut t (a + 5) 1 ∧
      (t.readByte (a + 5) = s.readByte (a + 5) ∨ t.readByte (a + 5) = d.ar ||| 1#8) ∧
      s.sameElse t := by
  intro t
  obtain ht | ht : t = s ∨ t = (s.writeByte (a + 5) (d.ar ||| 1#8)).lockedSince s d.time := by
    simp only [t, State.probeAccessed]
    split
    · exact .inr rfl
    · exact .inl rfl
  · rw [ht]
    exact ⟨rfl, rfl, fun _ _ => rfl, .inl rfl, s.sameElse_refl⟩
  · rw [ht]
    refine ⟨rfl, rfl, fun b hb => ?_, ?_, rfl⟩
    · rw [State.readByte_lockedSince]
      exact State.readByte_writeByte_ne _ (by simpa [State.apart] using hb 0 (by decide))
    · rw [State.readByte_lockedSince, State.readByte_writeByte]
      split
      · exact .inr rfl
      · exact .inl rfl

/-- What a selector test changes: ZF, the register where it succeeds, and at most the accessed
bit. -/
theorem State.tested_spec (s : State) (a : Addr) (d : Desc) (reg : RegNum) (result : Option Word)
    (ok : Bool) :
    let t := s.tested a d reg result ok
    t.flags = { s.flags with zf := ok } ∧
      (∀ v, ok = true → result = some v → s.onlyReg t .word reg v) ∧
      (ok = false ∨ result = none → t.regs = s.regs) ∧ s.sameMemoryBut t (a + 5) 1 ∧
      (t.readByte (a + 5) = s.readByte (a + 5) ∨ t.readByte (a + 5) = d.ar ||| 1#8) ∧
      s.sameElse t := by
  obtain ⟨hregs, hflags, hmem, hbyte, hsame⟩ := s.probeAccessed_spec a d
  unfold State.tested
  generalize s.probeAccessed (a, d) = p at *
  have hzf (z : Bool) : (p.setZf z).flags = { s.flags with zf := z } := by
    rw [State.setZf_flags, hflags]
  cases ok with
  | false =>
    exact ⟨hzf false, fun v h => absurd h Bool.false_ne_true, fun _ => hregs, hmem, hbyte,
      State.sameElse_setFlags hsame _⟩
  | true =>
    cases result with
    | none =>
      exact ⟨hzf true, nofun, fun _ => hregs, hmem, hbyte, State.sameElse_setFlags hsame _⟩
    | some v =>
      refine ⟨hzf true, fun w _ hw => ?_, fun h => ?_, hmem, hbyte,
        State.sameElse_setFlags (State.sameElse_trans hsame (p.sameElse_setReg .word reg v)) _⟩
      · obtain rfl := Option.some.inj hw
        exact State.onlyReg_setReg_of_regs hregs .word reg v.isLt
      · exact absurd h (by simp)

/-! ## LAR, LSL, VERR and VERW (R607, R608, R610, R611) -/

/-- i is a selector test of an r/m operand: `ok` the test, `result` what it loads into its register
where the test succeeds. -/
def State.TestsSelector (s : State) (i : Instr) (reg : RegNum) (sel : Word) (ok : Desc → Bool)
    (result : Desc → Option Word) : Prop :=
  ∃ found, exec i s = s.finish (s.selectorTest sel ok found) ∧
    ∀ t d, found t d = t.putResult reg (result d)

section
variable {s : State} {rm : RM} {reg : RegNum} (hp : s.msw.pe = true)
  (hready : s.rmReady .read .word rm = true)
include hp hready

theorem testsSelector_lar : s.TestsSelector (.lar reg rm) reg (s.rmValue .word rm)
    (fun d => larType d && s.visible (s.rmValue .word rm) d)
    fun d => some (d.ar.setWidth 16 <<< 8) :=
  ⟨_, congrArg s.finish (State.selector_bind hp hready fun sel =>
    s.selectorTest sel (fun d => larType d && s.visible sel d) fun t d =>
      t.setReg .word reg (mkWord 0#8 d.ar)), fun t d => by rw [mkWord_zero_low]; rfl⟩

theorem testsSelector_lsl : s.TestsSelector (.lsl reg rm) reg (s.rmValue .word rm)
    (fun d => lslType d && s.visible (s.rmValue .word rm) d) fun d => some d.limit :=
  ⟨_, congrArg s.finish (State.selector_bind hp hready fun sel =>
    s.selectorTest sel (fun d => lslType d && s.visible sel d) fun t d =>
      t.setReg .word reg d.limit), fun _ _ => rfl⟩

theorem testsSelector_verr : s.TestsSelector (.verr rm) reg (s.rmValue .word rm)
    (fun d => verrType d && s.visible (s.rmValue .word rm) d) fun _ => none :=
  ⟨_, congrArg s.finish (State.selector_bind hp hready fun sel =>
    s.selectorTest sel (fun d => verrType d && s.visible sel d) fun t _ => t), fun _ _ => rfl⟩

theorem testsSelector_verw : s.TestsSelector (.verw rm) reg (s.rmValue .word rm)
    (fun d => arWritable d.ar &&
      decide (maxPl s.cpl (rpl (s.rmValue .word rm)) ≤ arDpl d.ar)) fun _ => none :=
  ⟨_, congrArg s.finish (State.selector_bind hp hready fun sel =>
    s.selectorTest sel (fun d => arWritable d.ar && decide (maxPl s.cpl (rpl sel) ≤ arDpl d.ar))
      fun t _ => t), fun _ _ => rfl⟩

end

section
variable {s : State} {i : Instr} {reg : RegNum} {sel : Word} {a : Addr} {ok : Desc → Bool}
  {result : Desc → Option Word} (h : s.TestsSelector i reg sel ok result)
include h

theorem State.TestsSelector.notFound (hsel : isNull sel = true ∨ s.descAddr sel = none) :
    exec i s = .next { s with flags := { s.flags with zf := false } } := by
  obtain ⟨found, hi, -⟩ := h
  rw [hi, State.selectorTest_none hsel]
  rfl

/-- A descriptor found is tested: ZF says whether p holds of it, and r is loaded where it does. -/
theorem State.TestsSelector.found (hn : isNull sel = false) (ha : s.descAddr sel = some a)
    (hans : s.answersAt a 6 = true) {p : Prop} {r : Option Word}
    (hp : p ↔ ok (s.busDesc 2 a) = true) (hr : r = result (s.busDesc 2 a)) :
    ∃ t, exec i s = .next t ∧ (t.flags.zf = true ↔ p) ∧
      t.flags = { s.flags with zf := t.flags.zf } ∧
      (∀ v, p → r = some v → s.onlyReg t .word reg v) ∧ (¬p ∨ r = none → t.regs = s.regs) ∧
      s.sameMemoryBut t (a + 5) 1 ∧
      (t.readByte (a + 5) = s.readByte (a + 5) ∨
        t.readByte (a + 5) = (s.busDesc 2 a).ar ||| 1#8) ∧ s.sameElse t := by
  obtain ⟨found, hi, hfound⟩ := h
  have hexec : exec i s =
      .next (s.tested a (s.busDesc 2 a) reg r (ok (s.busDesc 2 a))) := by
    rw [hi, State.selectorTest_found hn ha hans fun t => hfound t _, hr]
    rfl
  obtain ⟨hflags, hloads, hkeeps, hmem, hbyte, hsame⟩ :=
    s.tested_spec a (s.busDesc 2 a) reg r (ok (s.busDesc 2 a))
  have hzf := congrArg Flags.zf hflags
  refine ⟨_, hexec, by rw [hzf, hp], by rw [hzf]; exact hflags, fun v h => hloads v (hp.1 h),
    fun h => hkeeps (h.imp_left fun h => ?_), hmem, hbyte, hsame⟩
  rw [hp, Bool.not_eq_true] at h
  exact h

end

/-! ## ARPL (R609) -/

theorem rpl_lt_iff (a b : Word) : rpl a < rpl b ↔ a.toNat % 4 < b.toNat % 4 := by
  have hrpl (x : Word) : (rpl x).toNat = x.toNat % 4 := by simp [rpl]
  rw [BitVec.lt_def, hrpl, hrpl]

theorem withRpl_rpl (a b : Word) : withRpl a (rpl b) = (a &&& 0xFFFC#16) ||| (b &&& 3#16) := by
  have hlow : (rpl b).setWidth 16 = b &&& 3#16 := by
    apply BitVec.eq_of_toNat_eq
    rw [BitVec.toNat_and]
    simp only [rpl, BitVec.toNat_setWidth, BitVec.extractLsb'_toNat]
    rw [show (3#16).toNat = 2 ^ 2 - 1 from rfl, Nat.and_two_pow_sub_one_eq_mod]
    omega
  rw [withRpl, hlow]

theorem exec_arpl_of_ready {s : State} {rm : RM} (reg : RegNum) (hp : s.msw.pe = true)
    (hready : s.rmReady .write .word rm = true) :
    let a := s.rmValue .word rm
    let b := s.regs.get (reg16Of reg)
    exec (.arpl rm reg) s =
      if a.toNat % 4 < b.toNat % 4 then
        .next ((s.rmPut .word rm ((a &&& 0xFFFC#16) ||| (b &&& 3#16))).setZf true)
      else .next (s.setZf false) := by
  intro a b
  simp only [State.rmReady, Bool.and_eq_true] at hready
  obtain ⟨hok, hans⟩ := hready
  simp only [← rpl_lt_iff, ← withRpl_rpl]
  change execArpl rm reg s = _
  rw [execArpl, State.checkProt_of hp, Exec.ok_bind, State.operand_of hok hans, Exec.ok_bind]
  change s.finish (if rpl a < rpl b then .ok _ else .ok _) = _
  split <;> rfl

/-- Settles O57: the four tests by what each admits, ARPL by the order of the two RPLs. -/
theorem selectorTests : Obligations.SelectorTests := by
  refine ⟨fun s reg rm hp hready => ⟨?none, ?found⟩, fun s rm reg hp hready => ?arpl⟩
  case none =>
    intro hsel i hi
    fin_cases hi
    · exact (testsSelector_lar hp hready).notFound hsel
    · exact (testsSelector_lsl hp hready).notFound hsel
    · exact (testsSelector_verr (reg := reg) hp hready).notFound hsel
    · exact (testsSelector_verw (reg := reg) hp hready).notFound hsel
  case found =>
    intro a hn ha hans d i ok result hi
    have hvisible := s.visible_iff (s.rmValue .word rm) d
    obtain ⟨rfl, hr, hok⟩ | ⟨rfl, hr, hok⟩ | ⟨rfl, hr, hok⟩ | ⟨rfl, hr, hok⟩ := hi
    · refine (testsSelector_lar hp hready).found hn ha hans (hok.trans ?_) hr
      rw [Bool.and_eq_true, hvisible, larType_iff, and_comm]
    · refine (testsSelector_lsl hp hready).found hn ha hans (hok.trans ?_) hr
      rw [Bool.and_eq_true, hvisible, lslType_iff, and_comm]
    · refine (testsSelector_verr hp hready).found hn ha hans (hok.trans ?_) hr
      rw [Bool.and_eq_true, hvisible, verrType_iff, and_comm]
    · refine (testsSelector_verw hp hready).found hn ha hans (hok.trans ?_) hr
      simp [d, arWritable, maxPl_le, and_assoc]
  case arpl =>
    intro a b
    rw [exec_arpl_of_ready reg hp hready]
    refine ⟨fun hlt => ⟨_, if_pos hlt, ?_, ?_, ?_⟩, fun hle => if_neg (Nat.not_lt.2 hle)⟩
    · exact State.placed_setFlags (s.placed_rmPut .word rm (BitVec.isLt _)) _
    · rw [State.setZf_flags, State.rmPut_flags]
    · exact State.sameElse_setFlags (s.sameElse_rmPut .word rm _) _

end Sys2Proof.Machine
end

section
/-! PROOFS. ENTER. -/

namespace Sys2Proof.Machine

/-! ## Words pushed one after the other (R16) -/

theorem State.pushAllRaw_append (s : State) (vs : List Word) (v : Word) :
    s.pushAllRaw (vs ++ [v]) = (s.pushAllRaw vs).pushRaw v := by
  induction vs generalizing s with
  | nil => rfl
  | cons w vs ih => exact ih _

/-- SP after pushes, also where a word wraps. -/
theorem State.pushAllRaw_sp (vs : List Word) (s : State) :
    (s.pushAllRaw vs).regs.sp = s.regs.sp - BitVec.ofNat 16 (2 * vs.length) := by
  induction vs generalizing s with
  | nil => exact (BitVec.sub_zero _).symm
  | cons v vs ih =>
    rw [State.pushAllRaw_cons, ih, State.pushRaw_regs, List.length_cons, Nat.mul_add,
      sub_ofNat_add_two]

/-- A push that completes does not begin with SP = 0001h (R372). -/
theorem State.eq_pushRaw_of_push {s t : State} {v : Word} (h : s.push v = .ok t) :
    t = s.pushRaw v ∧ s.regs.sp ≠ 1#16 := by
  obtain ⟨rfl, hok⟩ := (s.push_eq_ok v t).1 h
  refine ⟨rfl, fun h1 => ?_⟩
  cases hp : s.msw.pe <;> simp [hp, SegReg.pushAdmitted, h1] at hok

/-- The first of several pushes completes, and there is room for the others below it. -/
theorem State.push_of_pushOk_succ {s : State} {n : Nat} (h : s.pushOk (n + 1) = true) (v : Word) :
    s.push v = .ok (s.pushRaw v) ∧ (s.pushRaw v).pushOk n = true := by
  rw [State.push_eq_ok, eq_self, true_and]
  simp only [State.pushOk, State.pushRaw_msw, State.pushRaw_ss, State.pushRaw_regs] at h ⊢
  cases hp : s.msw.pe with
  | true =>
    rw [hp, if_pos rfl] at h
    obtain ⟨hfirst, hrest⟩ := SegReg.room_succ h
    exact ⟨hfirst, hrest⟩
  | false =>
    simp only [hp, Bool.false_eq_true, if_false, List.all_eq_true, List.mem_range, bne_iff_ne]
      at h ⊢
    refine ⟨by simpa using h 0 (Nat.succ_pos n), fun i hi => ?_⟩
    rw [← sub_ofNat_add_two]
    exact h (i + 1) (Nat.succ_lt_succ hi)

/-! ## The frame pointers copied (R540) -/

theorem State.keepPushes_eq_ok {α : Type} (s t : State) (r : Exec α) (a : α) :
    s.keepPushes t r = .ok a ↔ r = .ok a := by
  unfold State.keepPushes
  split <;> simp_all

/-- Where ENTER finds the frame pointer it copies after i others. -/
def State.framePointer (s : State) (i : Nat) : Addr :=
  linear s.ss.base (s.regs.bp - BitVec.ofNat 16 (2 * (i + 1)))

/-- One frame pointer copied, as `State.copyFrames` does it. -/
def State.copyFrame (s t : State) : Exec State := do
  let u := t.setBp (t.regs.bp - 2)
  let v ← s.keepPushes u (u.memRead .ss u.regs.bp .word)
  s.keepPushes u (u.push v)

theorem State.copyFrames_cons (s : State) (n : Nat) (t : State) :
    s.copyFrames (n + 1) t = s.copyFrame t >>= s.copyFrames n := (bind_assoc _ _ _).symm

/-- The last frame pointer is copied after the others. -/
theorem State.copyFrames_succ (s : State) (n : Nat) (t : State) :
    s.copyFrames (n + 1) t = s.copyFrames n t >>= s.copyFrame := by
  induction n generalizing t with
  | zero => exact (s.copyFrames_cons 0 t).trans (bind_pure (s.copyFrame t))
  | succ n ih =>
    calc s.copyFrames (n + 1 + 1) t
      _ = s.copyFrame t >>= fun u => s.copyFrames n u >>= s.copyFrame := by
        rw [State.copyFrames_cons, funext ih]
      _ = s.copyFrames (n + 1) t >>= s.copyFrame := by
        rw [State.copyFrames_cons, bind_assoc]

/-- A copy that completes pushes the word below BP as it is read, with BP moved down. -/
theorem State.eq_of_copyFrame {s t u : State} (h : s.copyFrame t = .ok u) :
    u = (t.pushRaw (t.busWord 0 (t.framePointer 0))).setBp (t.regs.bp - 2) ∧ t.regs.sp ≠ 1#16 := by
  have hbus : t.SameBus (t.setBp (t.regs.bp - 2)) := ⟨rfl, rfl, rfl, rfl, rfl, rfl, rfl, rfl, rfl⟩
  obtain ⟨v, hv, hu⟩ := (Exec.bind_eq_ok _ _ _).1 h
  obtain ⟨-, -, rfl⟩ := (State.memRead_eq_ok ..).1 ((State.keepPushes_eq_ok ..).1 hv)
  obtain ⟨rfl, hsp⟩ := State.eq_pushRaw_of_push ((State.keepPushes_eq_ok ..).1 hu)
  refine ⟨?_, hsp⟩
  rw [State.load, hbus.busWord]
  rfl

/-- The words that copies push: each is what a read finds in the state the copies before it lead
to. -/
def State.CopiedWords (s t : State) (ws : List Word) : Prop :=
  ∀ j < ws.length, ∃ y, s.copyFrames j t = .ok y ∧ ws.getD j 0#16 = y.busWord 0 (s.framePointer j)

theorem State.copiedWords_append {s t y : State} {ws : List Word} (h : s.CopiedWords t ws)
    (hy : s.copyFrames ws.length t = .ok y) :
    s.CopiedWords t (ws ++ [y.busWord 0 (s.framePointer ws.length)]) := by
  intro j hj
  rw [List.length_append, List.length_singleton] at hj
  obtain hlt | rfl : j < ws.length ∨ j = ws.length := by omega
  · obtain ⟨x, hx, hword⟩ := h j hlt
    exact ⟨x, hx, (List.getD_append _ _ _ _ hlt).trans hword⟩
  · exact ⟨y, hy, by simp⟩

/-- Copies that complete push their words below the old BP, with BP moved down, and no push of them
finds SP = 0001h. -/
theorem State.copyFrames_spec {s : State} (h0 : s.regs.sp ≠ 1#16) (n : Nat) {x : State}
    (h : s.copyFrames n (s.pushRaw s.regs.bp) = .ok x) :
    ∃ ws : List Word, ws.length = n ∧
      x = (s.pushAllRaw (s.regs.bp :: ws)).setBp (s.regs.bp - BitVec.ofNat 16 (2 * n)) ∧
      s.CopiedWords (s.pushRaw s.regs.bp) ws ∧
      ∀ j < n + 1, s.regs.sp - BitVec.ofNat 16 (2 * j) ≠ 1#16 := by
  induction n generalizing x with
  | zero =>
    obtain rfl := Except.ok.inj h
    refine ⟨[], rfl, ?_, fun j hj => absurd hj (Nat.not_lt_zero j), fun j hj => ?_⟩
    · rw [Nat.mul_zero, BitVec.sub_zero]
      rfl
    · obtain rfl : j = 0 := by omega
      simpa using h0
  | succ n ih =>
    rw [State.copyFrames_succ] at h
    obtain ⟨y, hy, hx⟩ := (Exec.bind_eq_ok _ _ _).1 h
    obtain ⟨ws, rfl, hyeq, hwords, hsp⟩ := ih hy
    obtain ⟨rfl, hlast⟩ := State.eq_of_copyFrame hx
    have hysp : y.regs.sp = s.regs.sp - BitVec.ofNat 16 (2 * (ws.length + 1)) := by
      rw [hyeq, State.setBp_regs, State.pushAllRaw_sp, List.length_cons]
    have hybp : y.regs.bp = s.regs.bp - BitVec.ofNat 16 (2 * ws.length) := by
      rw [hyeq, State.setBp_regs]
    have hyss : y.ss = s.ss := by rw [hyeq, State.setBp_ss, State.pushAllRaw_ss]
    have hbp : y.regs.bp - 2 = s.regs.bp - BitVec.ofNat 16 (2 * (ws.length + 1)) := by
      rw [hybp, Nat.mul_add, BitVec.ofNat_add]
      bv_omega
    have hfrom : y.framePointer 0 = s.framePointer ws.length := by
      rw [State.framePointer, State.framePointer, hyss, ← hbp]
      rfl
    refine ⟨ws ++ [y.busWord 0 (s.framePointer ws.length)], by simp, ?_,
      State.copiedWords_append hwords hy, fun j hj => ?_⟩
    · rw [hfrom, hbp, ← List.cons_append, State.pushAllRaw_append]
      generalize y.busWord 0 (s.framePointer ws.length) = v
      rw [hyeq]
      rfl
    · obtain hlt | rfl : j < ws.length + 1 ∨ j = ws.length + 1 := by omega
      · exact hsp j hlt
      · rwa [← hysp]

/-- The copies change no byte but those they push. -/
theorem State.readByte_copyFrames {s : State} (h0 : s.regs.sp ≠ 1#16) {n : Nat} (hn : n < 0x7FFF)
    {x : State} (h : s.copyFrames n (s.pushRaw s.regs.bp) = .ok x) {b : Addr}
    (hb : ∀ j, j < 2 * (n + 1) → s.apart b (s.below (j + 1))) : x.readByte b = s.readByte b := by
  obtain ⟨ws, rfl, rfl, -, hsp⟩ := State.copyFrames_spec h0 n h
  obtain ⟨-, -, hframe⟩ := State.pushed_pushAllRaw (s.regs.bp :: ws) s (Nat.succ_lt_succ hn) hsp
  exact hframe b hb

/-! ## The state after ENTER -/

/-- s after ENTER has pushed these words. -/
def State.entered (s : State) (ws : List Word) (size : Word) : State :=
  ((s.pushAllRaw ws).setBp (s.regs.sp - 2)).setSp ((s.pushAllRaw ws).regs.sp - size)

theorem State.entered_regs (s : State) (ws : List Word) (size : Word) :
    (s.entered ws size).regs = { s.regs with
      bp := s.regs.sp - 2, sp := s.regs.sp - BitVec.ofNat 16 (2 * ws.length) - size } := by
  have h := s.pushAllRaw_regs ws
  rw [State.entered, State.setSp_regs, State.setBp_regs, h, State.pushAllRaw_sp]

theorem State.entered_flags (s : State) (ws : List Word) (size : Word) :
    (s.entered ws size).flags = s.flags := s.pushAllRaw_flags ws

theorem State.sameElse_entered (s : State) (ws : List Word) (size : Word) :
    s.sameElse (s.entered ws size) := by
  have h := s.sameElse_pushAllRaw ws
  unfold State.sameElse at h ⊢
  rw [State.entered, h]
  rfl

theorem State.readByte_entered (s : State) (ws : List Word) (size : Word) (b : Addr) :
    (s.entered ws size).readByte b = (s.pushAllRaw ws).readByte b := rfl

theorem State.readWord_entered (s : State) (ws : List Word) (size : Word) (b : Addr) :
    (s.entered ws size).readWord b = (s.pushAllRaw ws).readWord b := rfl

/-! ## ENTER (R540) -/

/-- What ENTER pushes at the levels above 0, ws being the copies: the old BP, they and the frame
pointer. -/
def State.enterWords (s : State) (ws : List Word) : List Word :=
  s.regs.bp :: (ws ++ [s.regs.sp - 2])

theorem State.enterWords_length (s : State) (ws : List Word) :
    (s.enterWords ws).length = ws.length + 2 := by
  simp [State.enterWords]

theorem State.enterWords_copy (s : State) {ws : List Word} {i : Nat} (hi : i < ws.length) :
    (s.enterWords ws).getD (i + 1) 0#16 = ws.getD i 0#16 :=
  List.getD_append ws [s.regs.sp - 2] 0#16 i hi

theorem State.enterWords_last (s : State) (ws : List Word) :
    (s.enterWords ws).getD (ws.length + 1) 0#16 = s.regs.sp - 2 := by
  simp [State.enterWords]

section
variable {s : State} {size : Word} {level : Byte}

theorem exec_enter_level_zero (h : level.toNat % 32 = 0) (hok : s.pushOk 1 = true) :
    exec (.enter size level) s = .next (s.entered [s.regs.bp] size) := by
  rw [exec_enter_zero h, State.push_of_pushOk hok]
  rfl

theorem exec_enter_level_one (h : level.toNat % 32 = 1) (hok : s.pushOk 2 = true) :
    exec (.enter size level) s = .next (s.entered (s.enterWords []) size) := by
  obtain ⟨hfirst, hok'⟩ := State.push_of_pushOk_succ hok s.regs.bp
  rw [exec_enter_one h, hfirst, Exec.ok_bind, State.push_of_pushOk hok']
  rfl

/-- ENTER of a deeper level pushes the copies between BP and the frame pointer, and no push finds
SP = 0001h. -/
theorem exec_enter_deeper {t u : State} {n : Nat} (hn : level.toNat % 32 = n + 1)
    (ht : s.push s.regs.bp = .ok t) (hu : s.copyFrames n t = .ok u) (hok : u.pushOk 1 = true) :
    ∃ ws : List Word, ws.length = n ∧ s.CopiedWords t ws ∧
      exec (.enter size level) s = .next (s.entered (s.enterWords ws) size) ∧
      ∀ j < n + 2, s.regs.sp - BitVec.ofNat 16 (2 * j) ≠ 1#16 := by
  obtain ⟨rfl, h0⟩ := State.eq_pushRaw_of_push ht
  obtain ⟨ws, rfl, hueq, hwords, hsp⟩ := State.copyFrames_spec h0 n hu
  have hlast := State.sp_ne_one_of_pushOk hok
  rw [hueq, State.setBp_regs, State.pushAllRaw_sp] at hlast
  have hexec : exec (.enter size level) s = .next (((u.pushRaw (s.regs.sp - 2)).setBp
      (s.regs.sp - 2)).setSp ((u.pushRaw (s.regs.sp - 2)).regs.sp - size)) := by
    change execEnter size level s = _
    simp only [execEnter, ht, hn, Nat.succ_ne_zero, Nat.add_sub_cancel, hu,
      State.push_of_pushOk hok, State.keepPushes, Exec.ok_bind, if_false, State.finish_ok,
      State.pushRaw_regs]
  refine ⟨ws, rfl, hwords, hexec.trans ?_, fun j hj => ?_⟩
  · rw [State.entered, State.enterWords, ← List.cons_append, State.pushAllRaw_append, hueq]
    rfl
  · obtain hlt | rfl : j < ws.length + 1 ∨ j = ws.length + 1 := by omega
    · exact hsp j hlt
    · exact hlast

end

/-- Settles O40: the words ENTER pushes are the old BP, the copies (`State.CopiedWords`) and, but at
level 0, the frame pointer. -/
theorem enterFrames : Obligations.EnterFrames := by
  refine ⟨fun s size level => ⟨fun hl hok => ?zero, fun hl hok => ?one⟩, ?deeper⟩
  case zero =>
    exact ⟨_, s.pushAllRaw [s.regs.bp], exec_enter_level_zero hl hok,
      State.pushed_of_pushOk (vs := [s.regs.bp]) hok (by simp), rfl,
      s.entered_regs [s.regs.bp] size, s.entered_flags _ size, s.sameElse_entered _ size⟩
  case one =>
    exact ⟨_, s.pushAllRaw (s.enterWords []), exec_enter_level_one hl hok,
      State.pushed_of_pushOk (vs := s.enterWords []) hok (by simp [State.enterWords]), rfl,
      s.entered_regs (s.enterWords []) size, s.entered_flags _ size, s.sameElse_entered _ size⟩
  case deeper =>
    intro s t u size level n hn hlt ht hu hok copied
    obtain ⟨k, rfl⟩ : ∃ k, n = k + 1 := ⟨n - 1, by omega⟩
    obtain ⟨rfl, h0⟩ := State.eq_pushRaw_of_push ht
    obtain ⟨ws, rfl, hwords, hexec, hsp⟩ := exec_enter_deeper (size := size) hn.symm ht hu hok
    have hlen := s.enterWords_length ws
    obtain ⟨-, hword, hframe⟩ :=
      State.pushed_pushAllRaw (s.enterWords ws) s (by omega) (by rwa [hlen])
    have hregs := s.entered_regs (s.enterWords ws) size
    rw [hlen] at hword hframe hregs
    refine ⟨_, hexec, ?regs, hword 0 (by omega), fun i hi => ?copies, ?frame, hframe,
      s.entered_flags _ size, s.sameElse_entered _ size⟩
    case regs =>
      rw [hregs, ← sub_ofNat_add_two]
      rfl
    case copies =>
      obtain ⟨x, hx, hvalue⟩ := hwords i (by omega)
      refine ⟨x, hx, fun hram => ?_, fun hapart => ?_⟩
      · have hcell : 2 * (i + 1 + 1) = 4 + 2 * i := by omega
        have hcopy := hword (i + 1) (by omega)
        rw [hcell] at hcopy
        exact (hcopy hram).trans ((s.enterWords_copy (by omega)).trans hvalue)
      · have hsame {b : Addr}
            (hb : ∀ j, j < 2 * (ws.length + 1 + 1) → s.apart b (s.below (j + 1))) :
            x.readByte b = s.readByte b :=
          State.readByte_copyFrames h0 (by omega) hx fun j hj => hb j (by omega)
        rw [State.readWord, State.readWord, hsame fun j hj => (hapart j hj).1,
          hsame fun j hj => (hapart j hj).2]
    case frame =>
      have hcell : 2 * (ws.length + 1 + 1) = 2 + 2 * (ws.length + 1) := by omega
      have hlast := hword (ws.length + 1) (by omega)
      rw [hcell] at hlast
      exact fun hram => (hlast hram).trans (s.enterWords_last ws)

end Sys2Proof.Machine
end
